-- ==== Sys2Proof/Word.lean ====
section
/-! DEFINITION. The register word and the byte (R4: every register is 32 bits wide and
little-endian) and the plainest arithmetic on them. -/

namespace Sys2Proof

/-- A register, and a word of a register access (R4). -/
abbrev Word := BitVec 32

/-- The smallest addressable unit of memory. -/
abbrev Byte := BitVec 8

/-- Bits `[lo + width - 1 : lo]` of a number. -/
def bitsOf (x lo width : Nat) : Nat := x / 2 ^ lo % 2 ^ width

/-- A number read as a signed number of `w` bits (two's complement). -/
def signedOf (w x : Nat) : Int :=
  let y := x % 2 ^ w
  if 2 * y < 2 ^ w then (y : Int) else (y : Int) - 2 ^ w

/-- The two's complement of an integer in `w` bits. -/
def twosOf (w : Nat) (x : Int) : Nat := (x % (2 ^ w : Int)).toNat

end Sys2Proof
end

