-- ==== Sys2Proof/Syntax.lean ====
section
/-! DEFINITION. The commands of spec/opcode_table.json, one constructor per row in the table's
order, and the data their operands carry. -/

namespace Sys2Proof

/-! ### Data that operands carry -/

/-- What the calibration scans of TOUCH gave (R444, R445): the count of each element at each enabled hop, and the
counts of the last listen burst at each hop, by channel in use. -/
structure TouchCalibration where
  counts : List (Nat × List (Nat × Nat))
  noise : List (Nat × List Int)
  deriving DecidableEq, Repr

/-- What a self-test of TOUCH measured on a channel (R450): its self-capacitance in pF; as shares of the drive level,
what it reached and the most that a neighbour rose to; or the gain of its column's sense path as a share of its
factory value. -/
structure TouchReading where
  channel : Nat
  level : Rat
  beside : Rat
  deriving DecidableEq, Repr

/-- The eyes that training measured on a byte lane at an operating point, in % of a unit interval (R360). -/
structure LaneEyes where
  point : Nat
  byte : Nat
  read : Nat
  write : Nat
  command : Nat
  deriving DecidableEq, Repr

/-- What training measured on a DRAM channel (R360, R362). -/
structure ChannelTraining where
  channel : Nat
  eyes : List LaneEyes
  deriving DecidableEq, Repr

/-- Byte lanes of a channel that failed the verification of a frequency change (R366): bit b for byte lane b.
-/
structure LaneFailure where
  channel : Nat
  bytes : Nat
  deriving DecidableEq, Repr

/-- States of a domain and of the DPLL (R334, R347). -/
inductive DomState
  | freeRun | acquiring | locked | holdover | lost
  deriving DecidableEq, Repr

/-- An entry of a ballot (R426). -/
structure BallotEntry where
  slot : Nat
  newPic : Bool
  arrival : Bool
  pcode : Nat
  phase : Nat
  stream : Nat
  rtp : Word
  sig : Word
  age0 : Nat
  deriving DecidableEq, Repr

structure Ballot where
  head : Nat
  commitTaken : Bool
  setRejected : Bool
  tag : Nat
  grid : Nat
  entries : List BallotEntry
  deriving DecidableEq, Repr

/-- A signature message (R430): the results of each window that is on, by window. -/
structure SigMsg where
  head : Nat
  grid : Nat
  crc : Word
  windows : List (Nat × Word)
  refereePass : Bool
  excused : Bool
  eligible : Bool
  selfFaulty : Bool
  deriving DecidableEq, Repr

/-- Chroma subsampling of a decoded picture. -/
inductive Chroma
  | c420 | c422 | c444
  deriving DecidableEq, Repr

/-- A NAL unit header: of H.264 the type, nal_ref_idc and, for types 14 and 20, svc_extension_flag; of H.265
the type, nuh_layer_id and TemporalId (R176, R190). -/
structure NalHead where
  type : Nat
  refIdc : Nat
  svcExt : Bool
  layer : Nat
  tid : Nat
  deriving DecidableEq, Repr

/-- A sequence parameter set as its standard's syntax gives it (R174, R176, R178, R201, R251). -/
structure SeqSet where
  id : Nat
  /-- It belongs to the base layer or base view. -/
  base : Bool
  /-- profile_idc, or general_profile_idc with the numbers of the general_profile_compatibility_flags that
  are set; and level_idc or general_level_idc. -/
  profile : Nat
  compat : List Nat
  level : Nat
  lumaDepth : Nat
  chromaDepth : Nat
  /-- chroma_format_idc. -/
  chromaFormat : Nat
  /-- frame_mbs_only_flag is 0, or field_seq_flag is 1. -/
  fields : Bool
  codedW : Nat
  codedH : Nat
  cropX : Nat
  cropY : Nat
  width : Nat
  height : Nat
  /-- The highest TemporalId. -/
  topTid : Nat
  /-- The VUI's matrix_coefficients, where it carries them, and video_full_range_flag. -/
  matrix : Option Nat
  fullRange : Bool
  /-- The most pictures that may be held back for output order, carried or inferred (R201). -/
  reorder : Nat
  deriving DecidableEq, Repr

/-- A picture parameter set: the sequence parameter set it names, the slice groups of H.264, and whether
H.265 uses tiles or wavefronts (R174, R182). -/
structure PicSet where
  id : Nat
  /-- It belongs to the base layer or base view. -/
  base : Bool
  seq : Nat
  sliceGroups : Nat
  tiles : Bool
  wpp : Bool
  deriving DecidableEq, Repr

/-- What a JPEG picture's headers say: the type of RFC 2435, the size, the low bytes of SOF and DHP markers
in the payload, the frame precision, whether a quantisation table has 16 bits, the components, and whether
there are restart intervals (R174, R176, R182). -/
structure JpegHead where
  type : Nat
  width : Nat
  height : Nat
  markers : List Nat
  precision : Nat
  table16 : Bool
  components : Nat
  restarts : Bool
  deriving DecidableEq, Repr

/-- A coded piece of a picture, in bitstream order: a restart interval, or the part of an independent slice
(with its dependent segments) that lies in one tile and one CTU row (R182). It holds luma samples of the
cropped picture and coded bits, and covers rows of the cropped picture. -/
structure PieceFacts where
  slice : Nat
  tile : Nat
  row : Nat
  samples : Nat
  bits : Nat
  top : Nat
  rows : Nat
  deriving DecidableEq, Repr

/-- What the coded bytes of a unit (or of one slice of it, in chase release) say in the syntax of their
standard, read by the session's PAYLOAD (R174 to R182, R201 to R206). Positions in output order and picture
order counts are numbered within the coded video sequence. -/
structure PicFacts where
  nals : List NalHead
  seqSets : List SeqSet
  picSets : List PicSet
  jpeg : JpegHead
  /-- The unit holds slices of a picture of the base layer, or a JPEG picture. -/
  picture : Bool
  /-- The picture parameter set that the slices name. -/
  pps : Nat
  /-- H.264 slices stand in arbitrary order. -/
  arbitraryOrder : Bool
  /-- A recovery point SEI message: from this position in output order on, its recovery is complete. -/
  recovery : Option Int
  /-- A CRA picture has leading pictures. -/
  leading : Bool
  /-- memory_management_control_operation 5, or NoRaslOutputFlag = 1 of an IRAP picture (R201). -/
  opens : Bool
  poc : Int
  /-- Picture order counts named by the reference lists, and those that stay used for reference. -/
  refs : List Int
  keep : List Int
  pieces : List PieceFacts
  /-- Pairs of partitions that share a boundary with in-loop filtering (R183). -/
  bounds : List (Nat × Nat)
  deriving DecidableEq, Repr

/-- Blocks that a decode cell writes (R173, R197): the plane, the first block's number in it, and the samples
of consecutive blocks, each in raster order. -/
structure CellWrites where
  cell : Nat
  chroma : Bool
  block : Nat
  samples : List Nat
  deriving DecidableEq, Repr

/-- A decode front: the rows that are final, and the blocks that have reached memory since (R173, R184). -/
structure FrontFacts where
  rows : Nat
  writes : List CellWrites
  deriving DecidableEq, Repr

/-- An area of a picture that is concealed: left column and top row in luma samples, width and height
(R206). -/
structure Area where
  x : Nat
  y : Nat
  w : Nat
  h : Nat
  deriving DecidableEq, Repr

/-- What a partition that has occupied its cell too long leaves: its decode front, and what it has not
decoded (R206). -/
structure TimeoutFacts where
  front : FrontFacts
  lost : List Area
  deriving DecidableEq, Repr

/-- A transmit entry that has been sent: the tick it left at, and the entry as host memory holds it (R165). -/
structure TxSent where
  emission : Nat
  entry : List Byte
  deriving DecidableEq, Repr

/-- A rate and a lane count of DisplayPort, in the codes of DP_STATUS (R295). -/
structure DpLink where
  rate : Nat
  lanes : Nat
  deriving DecidableEq, Repr

/-- What an encode cell decides on a block coded normally (R309, R310, R313): its bits, its QP, and its motion
vectors in quarter pels (none where it is coded intra). -/
structure CtuCode where
  bits : Nat
  qp : Nat
  vectors : List (Int × Int)
  deriving DecidableEq, Repr

/-- A slice whose last packet has arrived (R154): how many sequence numbers before that packet its first
one lies, and what it holds. -/
structure SliceFacts where
  back : Nat
  facts : PicFacts
  deriving DecidableEq, Repr

/-- What goes with a packet that reaches a session: ns from its last bit to its write and from a release to
the job (R484), the slices that end with it, and what units hold that this packet lets go (R155). -/
structure RxEnv where
  writeNs : Nat
  created : Nat
  slices : List SliceFacts
  units : List PicFacts
  deriving DecidableEq, Repr

/-- What the line that starts finds (R265, R277 to R281, R289): where its source data ends, where the
line before it was cut when the head switched to the slate, how many lines of the frame are composed,
how many quarter lines are fetched ahead, whether DRAM reads are
pending, and the decode fronts, by descriptor. -/
structure LineEnv where
  late : Option Nat
  cut : Nat
  composed : Nat
  ahead : Nat
  pending : Bool
  fronts : List (Nat × FrontFacts)
  deriving DecidableEq, Repr

/-- What an Apbud port receives (R70, R77): a flit (its sequence number, whether its class is TIME, its
header and payload, and the CRC sent with them), the neighbour's refusal from a flit on, or RELAY credit
given or withdrawn. -/
inductive FlitRx
  | flit (seq : Nat) (time : Bool) (bytes : List Byte) (crc : Word)
  | refusal (seq : Nat)
  | credit (given : Bool)
  deriving DecidableEq, Repr

/-- A write mirrored by the partner (R423): of a register (slot, offset, entry, value), or of memory. -/
inductive MirrorWrite
  | register (slot off entry : Nat) (v : Word)
  | memory (addr : Nat) (bytes : List Byte)
  deriving DecidableEq, Repr

/-! ### The commands -/

/-- The commands. -/
inductive Instr where
  /-- POWER_ON (R50): VIN crosses the UVLO rising threshold, or WAKE_N ends Dormant; the load switch starts soft-start and a full power-up begins. -/
  | powerOn
  /-- RAILS_POWER_GOOD (R50): All rails reach power-good in order; PG_OUT goes high and the TCXO is stable. -/
  | railsPowerGood
  /-- RAIL_FAILURE (R51): A rail has not reached power-good by step 3; the load switch opens, a retry is scheduled, and the failure is latched after 3 tries. -/
  | railFailure
  /-- RAIL_RETRY (R51): The 100 ms retry delay after a rail failure expires and soft-start runs again. -/
  | railRetry
  /-- BOOT_ROM_START (R50): PLLs lock and fuses load; internal reset is released, the boot ROM starts on SEQ23, BOOT_SEL is sampled and the I2C target becomes active. -/
  | bootRomStart (sel : Nat)
  /-- FS_WRITTEN_BITS_CLEARED (R380): The clearing of all frame-store written bits at power-up completes. -/
  | fsWrittenBitsCleared
  /-- DRAM_TRAINING_DONE (R360): DRAM training at all four points completes; on a lane failure boot halts with BOOT_E_DRAM_TRAIN. -/
  | dramTrainingDone (rs : List ChannelTraining)
  /-- DRAM_ZERO_FILL_DONE (R361): The zero-fill of all DRAM with valid check bytes completes and masters may reach DRAM. -/
  | dramZeroFillDone
  /-- QSPI_IMAGE_READ_DONE (R87): The boot image has been read from QSPI flash into staging; the header checks and signature verification follow. -/
  | qspiImageReadDone (image : List Byte)
  /-- BOOT_HOST_LOAD_GO (R88): A write of BOOT.HOST_LOAD with GO = 1 at STAGE 2 starts verification of the host-loaded image. -/
  | bootHostLoadGo (mst : Nat) (v : Word)
  /-- BOOT_SIGNATURE_VERIFIED (R90): The ECDSA P-384 verification of the image completes, passing or halting boot with BOOT_E_SIGNATURE. -/
  | bootSignatureVerified
  /-- BOOT_SEGMENT_COPY_DONE (R92): The segment copy from staging completes; ENTRY_SEQ starts at ENTRY_PC and SEQ23 leaves ROM mode. -/
  | bootSegmentCopyDone
  /-- BOOT_NO_LOCK_TIMEOUT (R93): PROT.BOOT_LOCK is not set within 2 s of the boot code start; BOOT_E_NO_LOCK is set and ALARM_N stays low. -/
  | bootNoLockTimeout
  /-- BOOT_LOCK (R94): A write of 1 to PROT.BOOT_LOCK locks the rules, vault and DEBUG_OPEN, marks boot-ready and releases ALARM_N. -/
  | bootLock (mst : Nat) (v : Word)
  /-- VIN_LOW (R52): VIN falls below the VIN_LOW threshold; the module sets VIN_LOW and raises EV_VIN_LOW. -/
  | vinLow
  /-- POWER_DOWN (R52): VIN falls below the UVLO falling threshold; POSS_N is released, commands stop and the core rails go off. -/
  | powerDown
  /-- POWER_DOWN_DONE (R52): The DRAM and I/O rails are off and the load switch opens at the end of power-down. -/
  | powerDownDone
  /-- RESET_N_ASSERT (R53): RESET_N is held low for at least 1 us in Run or Idle and the whole module enters reset with rails up. -/
  | resetNAssert
  /-- RESET_N_RELEASE (R53): RESET_N rises and the boot proceeds from power-up step 4. -/
  | resetNRelease
  /-- SOFT_RESET (R53): A write of SYS.SOFT_RESET with GO and the correct CONFIRM resets the module except DRAM training, time, DPLL and RWS fields. -/
  | softReset (mst : Nat) (v : Word)
  /-- THERM_WARN (R56): The junction reaches the grade's warning threshold; THERM_WARN is set and EV_TEMP_WARN is raised. -/
  | thermWarn
  /-- THERMAL_TRIP (R56): The junction has been at or above 130 C for 1 ms; the module is held in reset and the trip is latched. -/
  | thermalTrip
  /-- PWR_TARGET_RUN (R42): A write of SYS.PWR_CTRL.TARGET = RUN stops further entry into Idle. -/
  | pwrTargetRun (mst : Nat) (v : Word)
  /-- PWR_TARGET_IDLE (R42): A write of SYS.PWR_CTRL.TARGET = IDLE allows automatic entry into Idle. -/
  | pwrTargetIdle (mst : Nat) (v : Word)
  /-- PWR_REQUEST_KEEP (R44): A write of TARGET = KEEP is checked, then rejected or accepted, and the Keep entry sequence starts. -/
  | pwrRequestKeep (mst : Nat) (v : Word) (wakeLow : Bool)
  /-- PWR_REQUEST_DORMANT (R44): A write of TARGET = DORMANT is checked, then rejected or accepted, and the Dormant entry sequence starts. -/
  | pwrRequestDormant (mst : Nat) (v : Word) (wakeLow : Bool)
  /-- KEEP_REACHED (R45): The core and I/O rails are off and the module is in Keep; if WAKE_N is low the exit begins at once. -/
  | keepReached (wakeLow : Bool)
  /-- DORMANT_REACHED (R45): The load switch opens and the module is Dormant; if WAKE_N is low the exit begins at once. -/
  | dormantReached (wakeLow : Bool)
  /-- WAKE (R46): WAKE_N is held low in Keep or Dormant and the module exits through a full power-up and boot. -/
  | wake
  /-- IDLE_ENTRY (R42): On the first tick at which all Idle conditions hold after IDLE_DELAY, DRAM finishes its accesses and enters self-refresh. -/
  | idleEntry
  /-- IDLE_WAKE_ACCESS (R43): A DRAM access in Idle or during entry returns the module to Run; the access waits and completes. -/
  | idleWakeAccess
  /-- I2C_TELEMETRY_READ (R55): An I2C read at address 0x4C returns temperature, VIN, current or STATE. -/
  | i2cTelemetryRead (off len : Nat) (temp : Int) (vin cur : Nat)
  /-- I2C_EEPROM_READ (R55): An I2C read at address 0x50 returns identity EEPROM bytes. -/
  | i2cEepromRead (off len : Nat)
  /-- I2C_EEPROM_WRITE (R55): An I2C write to the identity EEPROM is acknowledged and discarded. -/
  | i2cEepromWrite (off : Nat) (data : List Byte)
  /-- REGISTER_WRITE (R95): A write to a register without a row of its own takes effect by its change class, with HELD writes rejected while BUSY. -/
  | registerWrite (mst slot off : Nat) (v : Word)
  /-- MEMORY_ACCESS (R406): A memory access by any master is decoded and checked for lock, rule and lease, then performed or denied. -/
  | memoryAccess (mst addr len : Nat) (data : Option (List Byte)) (upsets : List (Nat × Nat))
  /-- PCIE_LINK_UP (R79): The PCI Express data link comes up; the module becomes head or reports ROLE_CONFLICT. -/
  | pcieLinkUp
  /-- PCIE_LINK_DOWN (R60): The PCIe link of module 0 goes down, or PERST_N is asserted; only the PCIE block stops. -/
  | pcieLinkDown (reset : Bool)
  /-- PCIE_D3HOT (R59): Entry into D3hot disables BAR decoding and bus mastering while everything else runs on. -/
  | pcieD3hot
  /-- BAR0_ACCESS (R61): A host access through BAR0 is routed to a module window, or is answered as absent. -/
  | bar0Access (off len : Nat) (data : Option (List Byte))
  /-- BAR2_ACCESS (R64): A host access through BAR2 is translated by PCIE.APn to a device address on a chain module. -/
  | bar2Access (off len : Nat) (data : Option (List Byte))
  /-- REMOTE_REQUEST_RECEIVE (R72): A REG request arriving at its target module is performed with master ID CHAIN, and a read returns a completion. -/
  | remoteRequestReceive (tag target addr len : Nat) (bar2 : Bool) (data : Option (List Byte))
  /-- REMOTE_COMPLETION (R72): A remote read completion arrives at the head and completes the PCIe read. -/
  | remoteCompletion (tag : Nat) (data : List Byte)
  /-- REMOTE_READ_TIMEOUT (R74): A remote read has had no completion for 120 us; the head completes it with all-ones and counts TIMEOUT. -/
  | remoteReadTimeout (tag : Nat)
  /-- FLIT_RECEIVE (R70): An Apbud flit is CRC-checked and then acknowledged, or refused and later replayed. -/
  | flitReceive (up : Bool) (f : FlitRx)
  /-- APBUD_LINK_UP (R71): An Apbud port completes training and reaches link UP, which is a link change. -/
  | apbudLinkUp (up : Bool)
  /-- APBUD_LINK_DOWN (R71): An Apbud port goes down on PRSNT_N high, loss of block lock or excess refusals, and then trains again. -/
  | apbudLinkDown (up : Bool)
  /-- LINK_CHANGE_REPORT (R81): The head learns of a link change at position p, makes the windows beyond p absent, completes their reads and enumerates. -/
  | linkChangeReport (p : Nat)
  /-- CHAIN_ENUM_START (R80): A write of CHAIN.ENUM_CTRL.START = 1 on the head starts an enumeration, unless one is running. -/
  | chainEnumStart (mst : Nat) (v : Word)
  /-- TOKEN_RECEIVE (R80): A member takes its address from the token and forwards it, or returns END, or overflows. -/
  | tokenReceive (value gen : Nat)
  /-- END_RECEIVE (R80): The head receives END, sets COUNT and OVERFLOW and raises EV_CHAIN_ENUM_DONE. -/
  | endReceive (count : Nat) (overflow : Bool)
  /-- EVENT_FORWARD (R78): A forwarded event is passed toward the head, raising the MSI-X vector at the head, or is dropped by an orphan. -/
  | eventForward (origin : Nat)
  /-- RELAY_FLIT_RECEIVE (R77): Host-queue traffic relayed up the chain arrives and the head writes it to host memory. -/
  | relayFlitReceive (hq addr : Nat) (bytes : List Byte)
  /-- RELAY_CREDIT_TIMEOUT (R77): A port has had no RELAY credit for 100 us; the held packet is dropped and counted. -/
  | relayCreditTimeout (up : Bool)
  /-- ADD (R108): The sequencer adds two registers. -/
  | add (n : Nat) (rd ra rb : BitVec 5)
  /-- SUB (R108): The sequencer subtracts two registers. -/
  | sub (n : Nat) (rd ra rb : BitVec 5)
  /-- AND (R108): The sequencer forms the bitwise AND of two registers. -/
  | and (n : Nat) (rd ra rb : BitVec 5)
  /-- OR (R108): The sequencer forms the bitwise OR of two registers. -/
  | or (n : Nat) (rd ra rb : BitVec 5)
  /-- XOR (R108): The sequencer forms the bitwise XOR of two registers. -/
  | xor (n : Nat) (rd ra rb : BitVec 5)
  /-- SHL (R108): The sequencer shifts left by a register amount. -/
  | shl (n : Nat) (rd ra rb : BitVec 5)
  /-- SHR (R108): The sequencer shifts right with zero fill by a register amount. -/
  | shr (n : Nat) (rd ra rb : BitVec 5)
  /-- SRA (R108): The sequencer shifts right with sign fill by a register amount. -/
  | sra (n : Nat) (rd ra rb : BitVec 5)
  /-- MUL (R108): The sequencer writes the low word of a product. -/
  | mul (n : Nat) (rd ra rb : BitVec 5)
  /-- MULH (R108): The sequencer writes the high word of a signed product. -/
  | mulh (n : Nat) (rd ra rb : BitVec 5)
  /-- MIN (R108): The sequencer writes the signed minimum. -/
  | min (n : Nat) (rd ra rb : BitVec 5)
  /-- MAX (R108): The sequencer writes the signed maximum. -/
  | max (n : Nat) (rd ra rb : BitVec 5)
  /-- SLT (R108): The sequencer sets 1 if the first register is less, signed. -/
  | slt (n : Nat) (rd ra rb : BitVec 5)
  /-- SLTU (R108): The sequencer sets 1 if the first register is less, unsigned. -/
  | sltu (n : Nat) (rd ra rb : BitVec 5)
  /-- ADDI (R108): The sequencer adds a sign-extended immediate. -/
  | addi (n : Nat) (rd ra : BitVec 5) (imm : BitVec 16)
  /-- ANDI (R108): The sequencer ANDs with a zero-extended immediate. -/
  | andi (n : Nat) (rd ra : BitVec 5) (imm : BitVec 16)
  /-- ORI (R108): The sequencer ORs with a zero-extended immediate. -/
  | ori (n : Nat) (rd ra : BitVec 5) (imm : BitVec 16)
  /-- XORI (R108): The sequencer XORs with a zero-extended immediate. -/
  | xori (n : Nat) (rd ra : BitVec 5) (imm : BitVec 16)
  /-- SHLI (R108): The sequencer shifts left by an immediate. -/
  | shli (n : Nat) (rd ra amount : BitVec 5)
  /-- SHRI (R108): The sequencer shifts right with zero fill by an immediate. -/
  | shri (n : Nat) (rd ra amount : BitVec 5)
  /-- SRAI (R108): The sequencer shifts right with sign fill by an immediate. -/
  | srai (n : Nat) (rd ra amount : BitVec 5)
  /-- LUI (R108): The sequencer loads an immediate into the upper half of a register. -/
  | lui (n : Nat) (rd : BitVec 5) (imm : BitVec 16)
  /-- LD (R111): The sequencer loads a data RAM word, faulting on bad alignment, range or uncorrectable ECC. -/
  | ld (n : Nat) (rd ra : BitVec 5) (imm : BitVec 16)
  /-- ST (R111): The sequencer stores a word to data RAM, faulting on bad alignment or range. -/
  | st (n : Nat) (rd ra : BitVec 5) (imm : BitVec 16)
  /-- SETW (R112): The sequencer sets a register window to a slot number. -/
  | setw (n : Nat) (sel ra : BitVec 5) (imm : BitVec 16)
  /-- LDR (R113): The sequencer issues a register read through a window and waits for it. -/
  | ldr (n : Nat) (rd ra : BitVec 5) (imm : BitVec 16)
  /-- LDR_DONE (R113): A register read in flight completes and the register receives the value, or the sequencer faults if denied. -/
  | ldrDone (n : Nat)
  /-- STR (R113): The sequencer issues a register write through a window and waits for it to take effect. -/
  | str (n : Nat) (rd ra : BitVec 5) (imm : BitVec 16)
  /-- STR_DONE (R113): A register write in flight has taken effect, or is denied and faults the sequencer. -/
  | strDone (n : Nat)
  /-- BEQ (R115): The sequencer branches if the registers are equal. -/
  | beq (n : Nat) (ra rb : BitVec 5) (off : BitVec 16)
  /-- BNE (R115): The sequencer branches if the registers differ. -/
  | bne (n : Nat) (ra rb : BitVec 5) (off : BitVec 16)
  /-- BLT (R115): The sequencer branches if the first register is less, signed. -/
  | blt (n : Nat) (ra rb : BitVec 5) (off : BitVec 16)
  /-- BGE (R115): The sequencer branches if the first register is greater or equal, signed. -/
  | bge (n : Nat) (ra rb : BitVec 5) (off : BitVec 16)
  /-- BLTU (R115): The sequencer branches if the first register is less, unsigned. -/
  | bltu (n : Nat) (ra rb : BitVec 5) (off : BitVec 16)
  /-- BGEU (R115): The sequencer branches if the first register is greater or equal, unsigned. -/
  | bgeu (n : Nat) (ra rb : BitVec 5) (off : BitVec 16)
  /-- JAL (R115): The sequencer jumps relative to PC and links the return address. -/
  | jal (n : Nat) (rd : BitVec 5) (off : BitVec 21)
  /-- JR (R115): The sequencer jumps to a register address, faulting if it is unaligned or out of range. -/
  | jr (n : Nat) (ra : BitVec 5)
  /-- PC_RUN_ON (R115): Execution runs past the last word of instruction RAM and the sequencer faults with PC_RANGE. -/
  | pcRunOn (n : Nat)
  /-- WLINE (R117): The sequencer starts a wait for a line position of a head, after its operand checks. -/
  | wline (n : Nat) (sel ra : BitVec 5) (imm : BitVec 16)
  /-- WLINE_END (R117): The target line starts and the wline wait ends. -/
  | wlineEnd (n : Nat)
  /-- WTIME (R120): The sequencer starts a wait for a domain time target. -/
  | wtime (n : Nat) (dom k : BitVec 5)
  /-- WTIME_END (R120): The domain time reaches the target and the wtime wait ends. -/
  | wtimeEnd (n : Nat)
  /-- WEVT (R121): The sequencer starts a wait on an event mask. -/
  | wevt (n : Nat) (rd ra : BitVec 5) (imm : BitVec 16)
  /-- WEVT_END (R121): A masked event line is pending; the wait ends and rd receives the bits, which are cleared. -/
  | wevtEnd (n : Nat)
  /-- WCYC (R122): The sequencer starts a wait of a counted number of cycles. -/
  | wcyc (n : Nat) (ra : BitVec 5) (imm : BitVec 16)
  /-- WCYC_END (R122): The cycle count of wcyc expires. -/
  | wcycEnd (n : Nat)
  /-- WAIT_TIMEOUT (R124): WAIT_LIMIT expires while a wait or fprot drain is unsatisfied, and the sequencer faults. -/
  | waitTimeout (n : Nat)
  /-- POST (R125): The sequencer raises a doorbell event, faulting if the number is above 14. -/
  | post (n : Nat) (ra : BitVec 5) (imm : BitVec 16)
  /-- CMT (R126): The sequencer writes a commit word through a window to a block's commit register. -/
  | cmt (n : Nat) (rd : BitVec 5) (win : BitVec 2) (ra : BitVec 5)
  /-- CMT_DONE (R127): The commit completes at the block and rd receives the commit response. -/
  | cmtDone (n : Nat)
  /-- JOB (R128): The sequencer copies a 64-byte descriptor into a DEFL or CHECK queue and receives a ticket. -/
  | job (n : Nat) (rd ra : BitVec 5) (slot queue : BitVec 8)
  /-- FPROT (R129): The sequencer starts a protection fence that waits for all earlier accesses to complete. -/
  | fprot (n : Nat)
  /-- FPROT_DRAIN_DONE (R129): Every access issued before the fprot has completed and the fence ends. -/
  | fprotDrainDone (n : Nat)
  /-- CRC (R130): The sequencer updates a CRC-32C register with 1, 2 or 4 bytes. -/
  | crc (n : Nat) (count : Nat) (ra rb : BitVec 5)
  /-- RDT (R119): The sequencer reads a domain time pair or a head line position and frame count. -/
  | rdt (n : Nat) (rd : BitVec 5) (dom : BitVec 8)
  /-- HALT (R131): The sequencer stops with CAUSE HALT. -/
  | halt (n : Nat)
  /-- NOP (R131): The sequencer does nothing. -/
  | nop (n : Nat)
  /-- BRK (R131): The sequencer stops with CAUSE BREAK, or faults with BRK_FAULT when BRK_FAULT = 1. -/
  | brk (n : Nat) (imm : BitVec 16)
  /-- ILLEGAL_INSTRUCTION (R107): A word with a reserved opcode, an undefined fn or a non-zero unused field faults with ILLEGAL. -/
  | illegalInstruction (n : Nat)
  /-- BREAKPOINT_HIT (R138): The sequencer reaches an enabled breakpoint address and halts before executing it. -/
  | breakpointHit (n : Nat)
  /-- SEQ_STOP (R134): A write of SEQn.CTRL.STOP requests a stop at the next instruction boundary. -/
  | seqStop (mst n : Nat) (v : Word)
  /-- SEQ_STOPPED (R135): The in-flight access completes or the wait is abandoned, and the sequencer enters HALTED with CAUSE HOST_STOP. -/
  | seqStopped (n : Nat)
  /-- SEQ_START (R134): A write of SEQn.CTRL.START clears the state and runs from SEQn.PC. -/
  | seqStart (mst n : Nat) (v : Word)
  /-- SEQ_RESUME (R134): A write of SEQn.CTRL.RESUME continues from SEQn.PC with state kept. -/
  | seqResume (mst n : Nat) (v : Word)
  /-- SEQ_STEP (R134): A write of SEQn.CTRL.STEP executes one instruction and halts with CAUSE STEP. -/
  | seqStep (mst n : Nat) (v : Word)
  /-- SEQ_IRAM_WRITE (R105): A write to a sequencer's instruction RAM is performed, or is dropped and reported while the sequencer is BUSY. -/
  | seqIramWrite (mst n off : Nat) (v : Word)
  /-- SEQ_DBG_DATA_WRITE (R138): A write of SEQn.DBG_DATA sets the selected register of a stopped sequencer. -/
  | seqDbgDataWrite (mst n : Nat) (v : Word)
  /-- ETH_FRAME_RECEIVE (R140): A port receives a frame, stamps it, drops it or classifies it to a host queue, a session or UNMATCHED. -/
  | ethFrameReceive (port detected : Nat) (bytes : List Byte) (env : RxEnv)
  /-- RELAY_PACKET_RECEIVE (R168): A relayed packet arrives at a KIND = CHAIN entry and is processed as a session packet, or dropped with ING_E_RELAY. -/
  | relayPacketReceive (up : Bool) (target session stamp : Nat) (udp : List Byte) (env : RxEnv)
  /-- UNIT_LOSS_WAIT_EXPIRY (R152): LOSS_WAIT passes with no packet accepted and the open unit closes. -/
  | unitLossWaitExpiry (x created : Nat)
  /-- UNIT_RELEASE (R153): A unit's release time is reached; it is released complete or INCOMPLETE, or discarded, with its capture time extracted. -/
  | unitRelease (x : Nat) (facts : PicFacts) (created : Nat)
  /-- ETH_LINK_CHANGE (R142): ETHn.STATUS.LINK changes and EV_ETHn_LINK is raised. -/
  | ethLinkChange (port : Nat) (link lock : Bool)
  /-- ETH_SIDEBAND_CHANGE (R142): A change on MODABS, LOS or TXFLT is sampled into ETHn.STATUS. -/
  | ethSidebandChange (port : Nat) (modabs los txflt : Bool)
  /-- SESSION_ENABLE (R148): A write setting a session EN = 1 is refused on a key conflict, rejected if not DRAINED, or enables the entry. -/
  | sessionEnable (mst : Nat) (v : Word)
  /-- SESSION_DISABLE (R149): A write clearing a session EN discards the unreleased units and treats later packets as unmatched. -/
  | sessionDisable (mst : Nat) (v : Word)
  /-- SESSION_DRAINED (R149): No decode job reads the session's jitter buffer any more and DRAINED returns to 1. -/
  | sessionDrained (x : Nat)
  /-- SESSION_ACTIVE_TIMEOUT (R146): No packet has been accepted for 1 s and SESS_STATUS.ACTIVE clears. -/
  | sessionActiveTimeout (x : Nat)
  /-- SESSION_MAP_WRITE (R158): A write of SESS_MAP_NS takes the RTP and time mapping pair together, unless NS is out of range. -/
  | sessionMapWrite (mst : Nat) (v : Word)
  /-- HQ5_PROD_WRITE (R165): The host advances the HQ5 producer pointer and the module takes the new transmit entries. -/
  | hq5ProdWrite (mst : Nat) (v : Word) (entries : List (List Byte))
  /-- HOSTQ_TRANSMIT_DONE (R165): A transmit entry has been sent, or refused; the stamp is written back and DONE set. -/
  | hostqTransmitDone (sent : TxSent)
  /-- PARTITION_ENDED (R193): The partition reaches its boundary, its state is saved and the cell takes the chase job. -/
  | partitionEnded (c samples bits : Nat) (front : FrontFacts)
  /-- CELL_CHOOSE (R188): A decode cell chooses its next partition from its own queue, its cluster or other clusters by stealing. -/
  | cellChoose (c : Nat) (ready : List (Nat × Nat))
  /-- PARTITION_DONE (R173): A cell finishes the samples of a partition and the decode front advances. -/
  | partitionDone (c : Nat) (front : FrontFacts) (lost : List Area)
  /-- BOUNDARY_FILTER_DONE (R183): In-loop filtering across a partition boundary completes. -/
  | boundaryFilterDone (d a b : Nat) (front : FrontFacts)
  /-- PICTURE_WRITES_DRAINED (R201): A picture's writes reach memory; it joins the held set and pictures become READY in output order. -/
  | pictureWritesDrained (c d : Nat) (luma chroma : List Nat)
  /-- PARTITION_TIMEOUT (R206): A partition has occupied its cell longer than twice its work plus 20 ms; it is ended and the rest concealed. -/
  | partitionTimeout (c : Nat) (left : TimeoutFacts)
  /-- STREAM_ENABLE (R177): A write setting a stream EN = 1 is refused on a bind conflict, rejected if not DRAINED, or starts the stream in WAIT_RAP. -/
  | streamEnable (mst : Nat) (v : Word)
  /-- STREAM_DISABLE (R180): A write clearing a stream EN discards its jobs, abandons its picture and empties the DPB. -/
  | streamDisable (mst : Nat) (v : Word)
  /-- STREAM_DRAINED (R180): No cell holds work of the stream; DRAINED returns to 1 and FILLING descriptors move to FREE or RETIRING. -/
  | streamDrained (x : Nat)
  /-- DESC_FREE (R202): DESC_CMD.FREE clears KEEP and frees the descriptor unless it is referenced, held or FILLING. -/
  | descFree (mst : Nat) (v : Word)
  /-- DESC_KEEP_SET (R202): DESC_CMD.KEEP_SET sets KEEP on the selected descriptor. -/
  | descKeepSet (mst : Nat) (v : Word)
  /-- DESC_KEEP_CLR (R202): DESC_CMD.KEEP_CLR clears KEEP on the selected descriptor. -/
  | descKeepClr (mst : Nat) (v : Word)
  /-- DECSCHED_RETIRE_READ (R200): A read of DECSCHED.RETIRE returns and removes the oldest retired descriptor index. -/
  | decschedRetireRead (mst : Nat)
  /-- FABRIC_ENABLE (R188): A write of DECSCHED.CTRL.EN = 1 lets every idle cell choose at once. -/
  | fabricEnable (mst : Nat) (v : Word)
  /-- FABRIC_DISABLE (R188): A write of DECSCHED.CTRL.EN = 0 stops new partitions while running ones finish. -/
  | fabricDisable (mst : Nat) (v : Word)
  /-- DEC_CELL_DISABLE (R188): A write of DECn.CTRL.EN = 0 disables the cell at its next partition boundary. -/
  | decCellDisable (mst c : Nat) (v : Word)
  /-- HEAD_ENABLE (R267): A write of HEADn.CTRL.EN = 1 is checked and refused with a cause, or schedules the head's start on the grid. -/
  | headEnable (mst h : Nat) (v : Word)
  /-- HEAD_START (R269): The head starts scanning at LATCH_LINE so that its next line 0 falls on the grid. -/
  | headStart (h : Nat) (env : LineEnv)
  /-- HEAD_DISABLE (R267): A write of HEADn.CTRL.EN = 0 stops the head at its next latch instant and idles its link. -/
  | headDisable (mst h : Nat) (v : Word)
  /-- HEAD_SLATE_FORCE (R291): A write of CTRL.SLATE_FORCE = 1 switches the head to the safe slate at the next line. -/
  | headSlateForce (mst h : Nat) (v : Word)
  /-- HEAD_LINE_START (R265): A line of a head's raster starts; composition, freshness, events and the latch at LATCH_LINE act at this instant. -/
  | headLineStart (h : Nat) (env : LineEnv)
  /-- FRAME_DONE (R282): FRAME_CRC and the check window results become final, mismatches are recorded and EV_FRAME_DONE is raised. -/
  | frameDone (h : Nat)
  /-- HEAD_COMMIT (R274): A write of HEADn.COMMIT with GO = 1 marks the head's whole set for the next latch, flagging late commits. -/
  | headCommit (mst h : Nat) (v : Word)
  /-- LAYERPOOL_COMMIT (R238): A write of LAYERPOOL.COMMIT marks the LAYERPOOL shadow fields of the named heads. -/
  | layerpoolCommit (mst : Nat) (v : Word)
  /-- FRESH_COMMIT (R238): A write of FRESH.COMMIT marks the FRESH shadow fields of the named heads. -/
  | freshCommit (mst : Nat) (v : Word)
  /-- LAYER_ASSIGN (R236): A write of LAYER_OWN assigns a slot to a head, or is refused for over 32 slots or a bad head. -/
  | layerAssign (mst x : Nat) (v : Word)
  /-- LEASE_ENDED_READ (R261): A read of LEASE.ENDED returns and removes the oldest ended-lease entry. -/
  | leaseEndedRead (mst : Nat)
  /-- DP_TRAIN (R295): A write of DP_CTRL.TRAIN = 1 starts DisplayPort link training. -/
  | dpTrain (mst h : Nat) (v : Word)
  /-- DP_TRAIN_DONE (R295): Link training ends, trained or with TRAIN_FAIL and the idle pattern. -/
  | dpTrainDone (h : Nat) (ok : Bool) (reached sink : DpLink) (psr psr2 : Bool)
  /-- DP_UNPLUG (R296): HPD has been low for 2 ms or more; UNPLUG is set and the link stops. -/
  | dpUnplug (h : Nat)
  /-- DP_REPLUG (R296): HPD returns high, and with AUTO_RETRAIN the head retrains. -/
  | dpReplug (h : Nat)
  /-- DP_IRQ_HPD (R296): An HPD pulse of 0.25 to 2 ms sets IRQ_HPD and may trigger a retrain. -/
  | dpIrqHpd (h : Nat) (lost : Bool)
  /-- AUX_NATIVE_WRITE (R297): AUX_CTRL.GO with CMD native write starts a DPCD write transaction. -/
  | auxNativeWrite (mst h : Nat) (v : Word)
  /-- AUX_NATIVE_READ (R297): AUX_CTRL.GO with CMD native read starts a DPCD read transaction. -/
  | auxNativeRead (mst h : Nat) (v : Word)
  /-- AUX_I2C_WRITE (R297): AUX_CTRL.GO with CMD I2C write starts an I2C-over-AUX write. -/
  | auxI2cWrite (mst h : Nat) (v : Word)
  /-- AUX_I2C_READ (R297): AUX_CTRL.GO with CMD I2C read starts an I2C-over-AUX read. -/
  | auxI2cRead (mst h : Nat) (v : Word)
  /-- AUX_REPLY (R297): An AUX reply arrives; an ACK or NACK ends the transaction and a DEFER schedules a retry. -/
  | auxReply (h kind count : Nat) (bytes : List Byte)
  /-- AUX_TIMEOUT (R297): No reply within 400 us ends the transaction with REPLY = TIMEOUT. -/
  | auxTimeout (h : Nat)
  /-- AUX_DEFER_RETRY (R297): The 400 us defer interval expires and the request is retried, or the transaction ends after 7 retries. -/
  | auxDeferRetry (h : Nat)
  /-- DCS_SHORT_WRITE (R301): DSI_CMD.GO with DT 0x05 queues a DCS short write. -/
  | dcsShortWrite (mst h : Nat) (v : Word)
  /-- DCS_SHORT_WRITE_PARAM (R301): DSI_CMD.GO with DT 0x15 queues a DCS short write with a parameter. -/
  | dcsShortWriteParam (mst h : Nat) (v : Word)
  /-- DCS_LONG_WRITE (R301): DSI_CMD.GO with DT 0x39 queues a DCS long write. -/
  | dcsLongWrite (mst h : Nat) (v : Word)
  /-- DCS_READ (R301): DSI_CMD.GO with DT 0x06 queues a DCS read with bus turnaround. -/
  | dcsRead (mst h : Nat) (v : Word)
  /-- DSI_CMD_DONE (R301): A DSI command completes with DONE, read data, or an error report. -/
  | dsiCmdDone (h : Nat) (bytes : List Byte) (report : Option Nat)
  /-- DSI_PANEL_RESET (R301): A write of DSI_CTRL.PANEL_RST drives DSIn_RST_N. -/
  | dsiPanelReset (mst h : Nat) (v : Word)
  /-- DSI_TE_EDGE (R300): An active edge on DSIn_TE times the next line 0 when TE_SYNC = 1. -/
  | dsiTeEdge (h : Nat)
  /-- DSI_TE_LOST (R300): No TE edge for 2 frame periods; the head runs nominal timing and sets TE_LOST. -/
  | dsiTeLost (h : Nat)
  /-- ENC_STREAM_ENABLE (R323): A write setting an encode stream EN = 1 is checked and refused with a code, or copies the session fields and starts. -/
  | encStreamEnable (mst : Nat) (v : Word)
  /-- ENC_STREAM_DISABLE (R324): A write clearing an encode stream EN discards and ends its slices and releases its holds. -/
  | encStreamDisable (mst : Nat) (v : Word)
  /-- ENC_STREAM_DRAINED (R324): The encode stream's work has ended and DRAINED returns to 1. -/
  | encStreamDrained (e : Nat)
  /-- ENC_FORCE_IDR (R311): A write of STREAM_CMD.FORCE_IDR makes the next picture an IDR. -/
  | encForceIdr (mst : Nat) (v : Word)
  /-- ENC_SLICE_READY (R318): A slice's source rows are in the ring and the slice becomes ready. -/
  | encSliceReady (e : Nat)
  /-- ENC_PICTURE_START (R313): A picture's cap and target are fixed; it is started, or postponed or dropped below the floor cost. -/
  | encPictureStart (e : Nat) (sets seis : List Nat)
  /-- ENC_SLICE_START (R304): A free encode cell takes the earliest ready slice and receives its allotment. -/
  | encSliceStart (c : Nat)
  /-- ENC_SLICE_DONE (R316): A slice finishes coding, with skip-floor where needed, and is packetised. -/
  | encSliceDone (c : Nat) (ctus : List CtuCode) (luma chroma : List Nat)
  /-- ENC_PACKET_SEND (R322): An encode RTP packet leaves its port at the pace set, or is dropped if the link is down. -/
  | encPacketSend (e : Nat)
  /-- ENC_CELL_DISABLE (R303): A write of ENCn.CTRL.EN = 0 disables the cell at its next slice boundary. -/
  | encCellDisable (mst c : Nat) (v : Word)
  /-- TIME_SNAP (R330): A write of SNAP_CTRL.GO samples LOCAL, PTP_A and PTP_B on one tick. -/
  | timeSnap (mst : Nat) (v : Word)
  /-- DOMAIN_SAMPLE (R332): A write of DOMd_ERR_NS submits an error sample, which is rejected or accepted, stepped and tracked with state changes. -/
  | domainSample (mst d : Nat) (v : Word)
  /-- DOMAIN_ENABLE (R334): A write of DOMd_CFG.EN = 1 starts tracking the domain. -/
  | domainEnable (mst d : Nat) (v : Word)
  /-- DOMAIN_DISABLE (R334): A write of DOMd_CFG.EN = 0 moves the domain to FREE_RUN and clears its tracker. -/
  | domainDisable (mst d : Nat) (v : Word)
  /-- DOMAIN_TIMEOUT (R334): No accepted sample for TIMEOUT moves the domain from LOCKED to HOLDOVER or from ACQUIRING to LOST. -/
  | domainTimeout (d : Nat)
  /-- DOMAIN_HOLD_MAX (R334): HOLD_MAX seconds have passed in HOLDOVER and the domain moves to LOST. -/
  | domainHoldMax (d : Nat)
  /-- CHAIN_TIME_EXCHANGE (R341): Each 1 ms a module with its UP port up sends a TIME request upstream. -/
  | chainTimeExchange (part : Nat)
  /-- CHAIN_TIME_REQUEST (R342): An upstream module answers a TIME request with its stamps, offsets and states. -/
  | chainTimeRequest (part after : Nat)
  /-- CHAIN_TIME_REPLY (R341): The TIME reply arrives; the offset is computed and fed to CHAIN_RX and CHAIN domains. -/
  | chainTimeReply (t2 t3 : Nat) (ofsA ofsB : Int) (stA stB : DomState) (part : Nat)
  /-- PPS_IN_EDGE (R339): An active edge on 1PPS_IN is stamped in LOCAL, sets NEW and raises EV_PPS_IN. -/
  | ppsInEdge (falling : Bool) (part : Nat)
  /-- DPLL_INPUT_VALIDITY (R343): An input's validity changes; EV_DPLL_INPUT is raised and the active input may change. -/
  | dpllInputValidity (k : Nat) (valid : Bool) (fofs : Int)
  /-- DPLL_INPUT_QUALIFIED (R344): An input has been valid for QUAL_TIME and qualifies, and may become active on revert. -/
  | dpllInputQualified (k : Nat)
  /-- DPLL_CLOCK_EDGE (R345): A divided clock input edge is stamped and gives a DPLL error sample. -/
  | dpllClockEdge (k part : Nat)
  /-- DPLL_ENABLE (R344): A write of DPLL.CTRL.EN = 1 lets the DPLL select an active input. -/
  | dpllEnable (mst : Nat) (v : Word)
  /-- DPLL_DISABLE (R347): A write of DPLL.CTRL.EN = 0 removes the active input and moves the DPLL to FREE_RUN. -/
  | dpllDisable (mst : Nat) (v : Word)
  /-- DPLL_HOLD_MAX (R347): HOLD_MAX seconds in HOLDOVER move the DPLL to LOST. -/
  | dpllHoldMax
  /-- PHASE_STEP (R349): A write of PHASE_STEP in STEP mode steps the target at once and raises EV_TIME_STEP. -/
  | phaseStep (mst : Nat) (v : Word)
  /-- PHASE_SLEW (R349): A write of PHASE_STEP in SLEW mode adds the amount to PHASE_REMAIN, to be slewed at SLOPE. -/
  | phaseSlew (mst : Nat) (v : Word)
  /-- PHASE_SLEW_DONE (R349): PHASE_REMAIN reaches 0 and EV_PHASE_DONE is raised. -/
  | phaseSlewDone
  /-- FRAME_OUT_EDGE (R352): A FRAME_OUTk grid instant or head line-0 offset is reached and the pulse rises for WIDTH. -/
  | frameOutEdge (k : Nat)
  /-- PPS_OUT_EDGE (R353): A whole second of the view plus PHASE is reached and 1PPS_OUT rises for WIDTH. -/
  | ppsOutEdge
  /-- DRAM_FREQ_CHANGE_REQUEST (R364): A write of FC_CTRL.GO requests a change of operating point, or ends it at once as FROZEN or SAME. -/
  | dramFreqChangeRequest (mst : Nat) (v : Word)
  /-- DRAM_FREQ_CHANGE_START (R365): On the first tick with TOL_MIN over 13 us and no panic, the change starts and new accesses are held. -/
  | dramFreqChangeStart
  /-- DRAM_FREQ_CHANGE_NO_WINDOW (R364): No window comes within FC_CTRL.WAIT and the change is abandoned with NO_WINDOW. -/
  | dramFreqChangeNoWindow
  /-- DRAM_FREQ_CHANGE_DONE (R365): Verification passes, held accesses are released and EV_DRAM_FC_DONE is raised, or a failure starts the return. -/
  | dramFreqChangeDone (passed : Bool) (blackout : Nat)
  /-- DRAM_FREQ_CHANGE_REVERTED (R366): The return to the old point completes after a failed verification, with TRAIN_FAIL reported. -/
  | dramFreqChangeReverted (rs : List LaneFailure) (blackout : Nat)
  /-- DRAM_RETRAIN (R362): RETRAIN_PERIOD expires, or MR4 reports a refresh-rate change, and a channel is retrained without panic. -/
  | dramRetrain (r : ChannelTraining) (hot : Bool)
  /-- DRAM_REFRESH (R372): A channel's refresh interval elapses; it refreshes by bank and pays or postpones its debt. -/
  | dramRefresh (channel : Nat) (round : Bool)
  /-- DRAM_COMMAND_ERROR (R374): A parity error is detected on a command in the controller queues or PHY path. -/
  | dramCommandError (mst cmd addr : Nat)
  /-- DRAM_FREEZE_RELEASE (R378): A write of FREEZE_CTRL with CONFIRM and RELEASE ends the freeze and the affected blocks recover. -/
  | dramFreezeRelease (mst : Nat) (v : Word)
  /-- DIAG_RAW_READ (R377): DIAG_CTRL.GO with OP raw read reads one burst and its check bytes while FROZEN. -/
  | diagRawRead (mst : Nat) (v : Word)
  /-- DIAG_WRITE (R377): DIAG_CTRL.GO with OP write stores one burst with new check bytes while FROZEN. -/
  | diagWrite (mst : Nat) (v : Word)
  /-- DIAG_DONE (R377): The diagnostic operation completes and BUSY clears. -/
  | diagDone
  /-- FS_UNWRITE (R383): A write of UNWRITE_LEN with GO is checked and starts clearing the written bits of a range. -/
  | fsUnwrite (mst : Nat) (v : Word)
  /-- FS_UNWRITE_DONE (R383): The clearing of the written bits completes and UNWRITE_BUSY clears. -/
  | fsUnwriteDone
  /-- SCRUB_WRITEBACK (R389): The scrubber rewrites the corrected line and re-reads it, finding a soft error or a hard fault. -/
  | scrubWriteback (again : Bool)
  /-- SCRUB_READ (R391): The paced scrubber reads the next DRAM or frame-store line, or a vault word. -/
  | scrubRead (memory : Nat) (late : Bool) (upsets : List (Nat × Nat))
  /-- REPAIR_START (R393): REPAIR takes the next pending frame-store fault and starts a spare-row or granule copy, or retires the granule. -/
  | repairStart
  /-- SPARE_ROW_COPY_DONE (R394): A spare-row copy completes and the row is mapped to the spare. -/
  | spareRowCopyDone (fault : Bool)
  /-- GRANULE_COPY_DONE (R394): A granule copy completes; GMAP points to the reserve granule and EV_GRANULE_REMAP is raised. -/
  | granuleCopyDone (fault : Bool)
  /-- REPAIR_OFFLINE_READ (R397): A read of REPAIR.OFFLINE returns and removes the oldest page-offline candidate. -/
  | repairOfflineRead (mst : Nat)
  /-- ECC_INJ_ARM (R399): A write of INJ_CTRL.ARM arms one error injection, or is refused. -/
  | eccInjArm (mst : Nat) (v : Word)
  /-- VAULT_READ (R401): A read of a vault word returns the majority and repairs disagreeing copies. -/
  | vaultRead (mst k : Nat)
  /-- VAULT_WRITE (R401): A write of a vault word sets all three copies, or is dropped after the boot lock. -/
  | vaultWrite (mst k : Nat) (v : Word)
  /-- VAULT_INJECT (R403): A write of VAULT.INJ inverts one bit of one copy, or is refused. -/
  | vaultInject (mst : Nat) (v : Word)
  /-- PROT_FENCE (R410): A read of PROT.FENCE waits for every earlier access to complete. -/
  | protFence (mst : Nat)
  /-- PROT_FENCE_DONE (R410): The drain ends and the PROT.FENCE read returns 1. -/
  | protFenceDone
  /-- PAIR_ENABLE (R432): A write of PAIR.CTRL.EN = 1 is refused without a valid referee, or enables pair operation. -/
  | pairEnable (mst : Nat) (v : Word)
  /-- PAIR_DISABLE (R420): A write of PAIR.CTRL.EN = 0 releases POSS_N and ends pair operation. -/
  | pairDisable (mst : Nat) (v : Word)
  /-- POSS_N_RISE (R419): POSS_N is sampled high; an eligible unit with a decided handover acquires, and the quiet timer starts. -/
  | possNRise
  /-- POSS_N_FALL (R416): POSS_N is sampled low and the quiet timer stops. -/
  | possNFall
  /-- POSS_QUIET_EXPIRY (R419): POSS_N has been high for the unit's quiet time and an eligible unit acquires possession. -/
  | possQuietExpiry
  /-- PAIR_STATUS_SEND (R421): The 100 us interval expires and the unit sends a status message stating its possession. -/
  | pairStatusSend
  /-- PAIR_STATUS_RECEIVE (R421): A partner status message arrives; a split is resolved by SIDE B releasing. -/
  | pairStatusReceive (possession : Bool) (handover : Option Nat)
  /-- PAIR_LINK_UP (R415): The pair port trains and comes up, raising EV_PAIR_LINK. -/
  | pairLinkUp
  /-- PAIR_LINK_DOWN (R415): The pair port goes down on loss of block lock or 100 us without a flit. -/
  | pairLinkDown
  /-- PAIR_PG_CHANGE (R436): The partner's PAIR_PG level changes, affecting PROTECTED. -/
  | pairPgChange (good : Bool)
  /-- PAIR_MIRROR_WRITE (R422): A mirrored register or memory write arrives at the standby and is performed with master ID PAIR. -/
  | pairMirrorWrite (w : MirrorWrite)
  /-- BALLOT_RECEIVE (R426): A ballot arrives at the standby and is held for its ballot latch. -/
  | ballotReceive (b : Ballot)
  /-- SIGNATURE_RECEIVE (R430): The partner's signature message arrives; the frames are compared and arbitrated. -/
  | signatureReceive (r : SigMsg)
  /-- PAIR_WDOG_EXPIRY (R434): WDOG_TIME passes without a kick and the active hands over with cause WDOG. -/
  | pairWdogExpiry
  /-- PAIR_WDOG_KICK (R434): PAIR.CMD.WDOG_KICK restarts the watchdog. -/
  | pairWdogKick (mst : Nat) (v : Word)
  /-- PAIR_HANDOVER (R437): PAIR.CMD.HANDOVER with CONFIRM hands possession to the partner while PROTECTED, or is refused. -/
  | pairHandover (mst : Nat) (v : Word)
  /-- PAIR_CLEAR_FAULT (R437): PAIR.CMD.CLEAR_FAULT clears SELF_FAULTY. -/
  | pairClearFault (mst : Nat) (v : Word)
  /-- TOUCH_ENABLE (R443): A write of TOUCH.CTRL.EN = 1 is refused if a scan is too long, or starts the calibration scans. -/
  | touchEnable (mst : Nat) (v : Word)
  /-- TOUCH_CALIBRATION_DONE (R445): The calibration scans end; the frequency ratios and baselines are set and paced scans follow. -/
  | touchCalibrationDone (cal : TouchCalibration)
  /-- TOUCH_SCAN_START (R443): SCAN_PERIOD expires and a scan with bursts and listen bursts starts. -/
  | touchScanStart
  /-- TOUCH_SCAN_END (R447): A scan ends; hopping, baselines, debounce, suppression, MAX_ON and reporting are updated. -/
  | touchScanEnd (counts : List (Nat × Nat)) (noise noiseNext : List Int)
  /-- TOUCH_REBASE (R447): TOUCH.CMD.REBASE re-baselines the selected element at the end of the next scan. -/
  | touchRebase (mst : Nat) (v : Word)
  /-- TOUCH_REBASE_ALL (R445): TOUCH.CMD.REBASE_ALL recalibrates and re-baselines all elements. -/
  | touchRebaseAll (mst : Nat) (v : Word)
  /-- TOUCH_TEST_GO (R450): A write of TEST_CTRL.GO runs a test of the chosen kind in place of the next scan. -/
  | touchTestGo (mst : Nat) (v : Word)
  /-- TOUCH_TEST_PERIOD (R450): TEST_PERIOD seconds pass and an automatic test runs. -/
  | touchTestPeriod
  /-- TOUCH_TEST_DONE (R451): A test ends; failing channels set their elements to FAULT and passing ones leave it. -/
  | touchTestDone (readings : List TouchReading) (refOpen : Bool)
  /-- TOUCH_CHANGE_READ (R449): A read of TOUCH.CHANGE returns and removes the oldest change entry. -/
  | touchChangeRead (mst : Nat)
  /-- TOUCH_WAKE_SCAN (R452): In Keep, WAKE_PERIOD expires and the wake channels are scanned, ending Keep on a touch. -/
  | touchWakeScan (counts : List (Nat × Nat))
  /-- DEFL_SUBMIT (R456): A write of DEFL.SUBMIT queues the master's staged descriptor and returns a ticket, or 0 when full. -/
  | deflSubmit (mst : Nat) (v : Word)
  /-- DEFL_COMPRESS (R460): The engine starts a COMPRESS job taken from a queue in round-robin order. -/
  | deflCompress
  /-- DEFL_DECOMPRESS (R461): The engine starts a DECOMPRESS job taken from a queue in round-robin order. -/
  | deflDecompress
  /-- DEFL_JOB_DONE (R457): A DEFL job completes, suspends or errs; it writes the record, advances DONE_SEQ and raises events. -/
  | deflJobDone (q : Nat) (parts : List (List Byte)) (finished : Bool) (consumed : Nat)
  /-- CHECK_SUBMIT (R468): A write of CHECK.SUBMIT queues the staged descriptor on a unit and returns a ticket. -/
  | checkSubmit (mst : Nat) (v : Word)
  /-- CHECK_JOB_CRC (R471): A check unit starts a CRC job over memory. -/
  | checkJobCrc (u : Nat)
  /-- CHECK_JOB_ALIVE (R472): A check unit starts verifying an ALIVE protected message. -/
  | checkJobAlive (u : Nat)
  /-- CHECK_JOB_GUARD (R474): A check unit starts verifying a GUARD message, which writes its register pairs if all checks pass. -/
  | checkJobGuard (u : Nat)
  /-- CHECK_JOB_DONE (R471): A check job ends; it writes its record, advances DONE_SEQ and raises events. -/
  | checkJobDone (u : Nat)
  /-- CHECK_DATA_WRITE (R470): A write of Un_DATA feeds 4 bytes into the unit's CRC, or is rejected while BUSY. -/
  | checkDataWrite (mst u : Nat) (v : Word)
  /-- CHECK_DATA8_WRITE (R470): A write of Un_DATA8 feeds 1 byte into the unit's CRC, or is rejected while BUSY. -/
  | checkData8Write (mst u : Nat) (v : Word)
  /-- CHECK_LOAD_INIT (R470): Un_CTRL.LOAD_INIT loads INIT into VALUE. -/
  | checkLoadInit (mst u : Nat) (v : Word)
  /-- CHECK_RESYNC (R473): Un_CTRL.RESYNC clears Un_ALIVE.VALID. -/
  | checkResync (mst u : Nat) (v : Word)
  /-- EVT_DOORBELL_WRITE (R28): A write of EVT.DOORBELL raises the named doorbell events. -/
  | evtDoorbellWrite (mst : Nat) (v : Word)
  /-- EVT_OUT_PULSE_END (R480): An EVT_OUTk pulse has lasted WIDTH and the ball returns to idle. -/
  | evtOutPulseEnd (k : Nat)
  /-- MON_PERIODIC_SAMPLE (R484): Every 1 ms the load channels take a sample. -/
  | monPeriodicSample (dramLoad : Nat)
  /-- MON_CLEAR (R486): CHc_CTRL.CLEAR clears a monitor channel on one tick. -/
  | monClear (mst c : Nat) (v : Word)
  /-- MON_CFG_WRITE (R486): A write of CHc_CFG configures and clears a monitor channel. -/
  | monCfgWrite (mst c : Nat) (v : Word)
  /-- TIME_CLK_TICK (R327): On every TIME_CLK tick the LOCAL counter advances by TIME.INCR, the domain offsets advance by INCR times their rates, and any slew proceeds. -/
  | timeClkTick (n : Nat)
  /-- CONTEXT_LOAD_DONE (R181): A decode cell finishes the 1.5 us load of a stream context and moves from context load to decoding. -/
  | contextLoadDone (c : Nat)
  /-- FRAME_OUT_PULSE_END (R352): A FRAME_OUTk pulse has been high for WIDTH ns and the output returns low. -/
  | frameOutPulseEnd (k : Nat)
  /-- PPS_OUT_PULSE_END (R353): 1PPS_OUT has been high for WIDTH us and returns low. -/
  | ppsOutPulseEnd
  /-- PCIE_D3HOT_EXIT (R59): The function returns from D3hot to D0, and BAR decoding and bus mastering are enabled again. -/
  | pcieD3hotExit
  /-- MSIX_TABLE_ACCESS (R481): A host access through BAR4 reaches the MSI-X table or pending bit array; unmasking a vector with its pending bit set delivers the pending message. -/
  | msixTableAccess (off : Nat) (w : Option Word)
  deriving DecidableEq, Repr

end Sys2Proof
end

