-- ==== Sys2Proof/Decode.lean ====
section
/-! DEFINITION. Commands spelled by words of the opcode table. No row of spec/opcode_table.json gives
any bits (the block takes commands from outside, and fetches none), so no word spells one. The words of
the Obven sequencers are decoded where a sequencer executes them, in Machine/SeqDecode.lean. -/

namespace Sys2Proof

/-- The command that a word of `nbits` bits spells: none, since the table gives no row any bits. -/
def decodeTableWord (_nbits _w : Nat) : Option Instr := none

end Sys2Proof
end

