-- ==== Sys2Proof/Config.lean ====
section
/-! DEFINITION. What one module fixes and what the spec leaves open: constants without a body, so
that no proof can see a value. -/

namespace Sys2Proof.Config

/-- The next value of something the spec leaves open; the state counts the uses (log entry 3). -/
opaque freeValue : Nat → Word

/-- Values loaded from the fuse array (R9), by the number of the field in the register table and
the index of its register (log entry 5). -/
opaque fuse : Nat → Nat → Nat

/-- Contents of the boot ROM (R102), by byte offset (log entry 6). -/
opaque bootRom : Nat → Byte

/-- The circle constant of R333: what follows its first 15 digits, in 65536ths of the last of them, is left open
(log entry 7). -/
opaque piRest : Nat
def pi : Rat := (314159265358979 + ((piRest % 65536 : Nat) : Rat) / 65536) / 100000000000000

/-- A rational amount brought to a whole number of a register's or counter's units where the spec
states no rounding: whether it is the next whole number above (log entry 7). -/
opaque roundsUp : Rat → Bool

/-- Where in its tick a slew's amount reaches a whole number of units of 2^-28 ns, in 65536ths (R349, log
entry 7). -/
opaque slewPhase : Nat

/-- LAT_RX and LAT_TX in units of 2^-28 ns, by port, speed and FEC mode (R338, log entry 8). -/
opaque latRx : Nat → Nat → Nat → Nat
opaque latTx : Nat → Nat → Nat → Nat

/-- A touch SIGNAL for which the spec states no value: a calibration count of 0, or a quotient beyond
16 bits (R445, log entry 9); by count, count at this frequency and at the lowest-numbered one. -/
opaque touchSignal : Nat → Nat → Nat → Nat

/-- The module is an NV-W6440-I (R1, log entry 5). -/
opaque industrial : Bool

/-- The hash of the public key in the fuses (R90, log entry 5). -/
opaque keyHash : Nat

/-- Of two source pixels equally near, the higher is taken (R247, log entry 11). -/
opaque nearestHigh : Bool

/-- Coefficients of the polyphase filter's taps but the last, by phase and tap (R247, log entry 11). -/
opaque tapH : Nat → Nat → Rat
opaque tapV : Nat → Nat → Rat

/-- A component of the layer's own pixel where it maps outside the picture, by column, row and component:
what a stripe of the hatch is blended with there (R224, R248, log entry 11). -/
opaque outsidePixel : Int → Int → Nat → Nat

/-- Rate and lane count for which check 4 takes a DP_CTRL code that the table does not name (R294, log
entry 13). -/
opaque dpRateOther : Nat → Rat
opaque dpLanesOther : Nat → Nat

/-- Nvid less 1, modulo 2^24 - 1, that the MSA carries (R351, log entry 13). -/
opaque nvid : Nat

/-- DECSCHED.STATUS.BACKLOG while no decode cell is enabled, by the work that waits (R189, log entry 15). -/
opaque backlogNoCells : Nat → Nat

/-- The flow label of IPv6 packets and the PCP and DEI bits of tags that encode streams send (R320, log
entry 18). -/
opaque flowLabel : Nat
opaque vlanPcp : Nat

/-- The bytes of a coded unit of an encode stream after its NAL header, by what the unit says and the byte's
place (R309 to R314, log entry 18). -/
opaque codedByte : List Nat → Nat → Byte

end Sys2Proof.Config
end

