-- ==== Sys2Proof/Machine/RegTypes.lean ====
section
/-! DEFINITION. The form of a register table row: access types (R7), change classes (R8), reset
values (R9), and the index registers that select an entry of a larger table (R146). -/

namespace Sys2Proof.Machine

/-- The access types of R7. A W1C counter clears only on a write of all ones. -/
inductive Acc
  | rw | ro | wo | w1c | w1cCount | w1s
  deriving DecidableEq, Repr

/-- The change classes of R8. -/
inductive Cls
  | live | shadow | held
  deriving DecidableEq, Repr

/-- A reset value (R9): a constant; a constant plus a step for each index; a value at one index
and 0 elsewhere; one value for each index; a value loaded from the fuse array; or the high or the low part
of a port's fused MAC address (R490). -/
inductive Rst
  | const (v : Nat)
  | lin (base step : Nat)
  | only (i v : Nat)
  | list (vs : List Nat)
  | fuse (id : Nat)
  | macHi
  | macLo
  deriving DecidableEq, Repr

/-- The index register that selects which entry a register offset stands for. -/
inductive Sel
  | none | sess | stream | desc | layer | fstream | entry | enc | elem | bank | raw
  deriving DecidableEq, Repr

/-- One field of a register table. -/
structure FldDesc where
  lo : Nat
  width : Nat
  acc : Acc
  cls : Cls
  rst : Rst
  deriving DecidableEq, Repr

/-- One register of a register table: the first slot and the number of block instances, the offset
within the slot, the array dimensions (count and stride), the index register that selects its
entry, whether each master has a copy of its own, and its fields. -/
structure RegDesc where
  slot : Nat
  insts : Nat
  off : Nat
  dims : List (Nat × Nat)
  sel : Sel
  perMaster : Bool
  flds : List FldDesc
  deriving DecidableEq, Repr

/-- A field of one register, by the register's key. -/
structure Fld where
  key : Nat
  lo : Nat
  width : Nat
  deriving DecidableEq, Repr

/-- The key of a register: the selected entry (or the master, for a register kept per master; else
0), the slot and the offset. -/
def regKey (entry slot off : Nat) : Nat := entry * 0x1000000 + slot * 0x10000 + off

end Sys2Proof.Machine
end

