-- ==== Sys2Proof/Machine/RegMap.lean ====
section
/-! DEFINITION. The registers of the spec by name: `Reg.BLOCK_REGISTER` is a register's key and
`Fld.BLOCK_REGISTER_FIELD` one of its fields, at the offsets and bit positions of the register
tables of spec/02 to spec/17. Arguments: `n` the block instance, `e` the entry an index register
selects, `mst` the master ID of a register kept per master, `i` and `j` the array indices. -/

namespace Sys2Proof.Machine

def Reg.SYS_PWR_CTRL : Nat := regKey 0 0x0 0x100
def Reg.SYS_PWR_STATUS : Nat := regKey 0 0x0 0x104
def Reg.SYS_IDLE_DELAY : Nat := regKey 0 0x0 0x108
def Reg.SYS_RESET_CAUSE : Nat := regKey 0 0x0 0x10C
def Reg.SYS_SOFT_RESET : Nat := regKey 0 0x0 0x110
def Reg.PCIE_AP (i : Nat) : Nat := regKey 0 0xE (0x100 + 0x4 * i)
def Reg.CHAIN_STATUS : Nat := regKey 0 0xF 0x0
def Reg.CHAIN_ENUM_CTRL : Nat := regKey 0 0xF 0x4
def Reg.CHAIN_HOST_ERR : Nat := regKey 0 0xF 0x8
def Reg.CHAIN_UNIT_ID : Nat := regKey 0 0xF 0x10
def Reg.BOOT_STATUS : Nat := regKey 0 0x5 0x0
def Reg.BOOT_HOST_LOAD : Nat := regKey 0 0x5 0x4
def Reg.SYS_CFG_REJECT_INFO : Nat := regKey 0 0x0 0x200
def Reg.SYS_CFG_REJECT_COUNT : Nat := regKey 0 0x0 0x204
def Reg.SEQ_CTRL (n : Nat) : Nat := regKey 0 (0xA0 + n) 0x0
def Reg.SEQ_STATUS (n : Nat) : Nat := regKey 0 (0xA0 + n) 0x4
def Reg.SEQ_PC (n : Nat) : Nat := regKey 0 (0xA0 + n) 0x8
def Reg.SEQ_CAUSE (n : Nat) : Nat := regKey 0 (0xA0 + n) 0xC
def Reg.SEQ_FAULT_INFO (n : Nat) : Nat := regKey 0 (0xA0 + n) 0x14
def Reg.SEQ_WAIT_LIMIT (n : Nat) : Nat := regKey 0 (0xA0 + n) 0x18
def Reg.SEQ_EVT_PEND (n : Nat) : Nat := regKey 0 (0xA0 + n) 0x1C
def Reg.SEQ_WIN (n : Nat) : Nat := regKey 0 (0xA0 + n) 0x20
def Reg.SEQ_CYCLES (n : Nat) : Nat := regKey 0 (0xA0 + n) 0x24
def Reg.SEQ_DBG_SEL (n : Nat) : Nat := regKey 0 (0xA0 + n) 0x28
def Reg.SEQ_DBG_DATA (n : Nat) : Nat := regKey 0 (0xA0 + n) 0x2C
def Reg.SEQ_BKPT (n i : Nat) : Nat := regKey 0 (0xA0 + n) (0x30 + 0x4 * i)
def Reg.SEQ_ECC (n : Nat) : Nat := regKey 0 (0xA0 + n) 0x38
def Reg.ETH_CTRL (n : Nat) : Nat := regKey 0 (0x10 + n) 0x0
def Reg.ETH_STATUS (n : Nat) : Nat := regKey 0 (0x10 + n) 0x4
def Reg.ETH_MAC_HI (n : Nat) : Nat := regKey 0 (0x10 + n) 0x8
def Reg.ETH_MAC_LO (n : Nat) : Nat := regKey 0 (0x10 + n) 0xC
def Reg.ETH_RX_DROP (n : Nat) : Nat := regKey 0 (0x10 + n) 0x20
def Reg.INGEST_CTRL : Nat := regKey 0 0x14 0x0
def Reg.INGEST_STATUS : Nat := regKey 0 0x14 0x4
def Reg.INGEST_SESS_INDEX (mst : Nat) : Nat := regKey mst 0x14 0x8
def Reg.INGEST_HQ_BASE_LO (i : Nat) : Nat := regKey 0 0x14 (0x200 + 0x10 * i)
def Reg.INGEST_HQ_BASE_HI (i : Nat) : Nat := regKey 0 0x14 (0x204 + 0x10 * i)
def Reg.INGEST_HQ_PTR (i : Nat) : Nat := regKey 0 0x14 (0x208 + 0x10 * i)
def Reg.INGEST_HQ5_PTR : Nat := regKey 0 0x14 0x258
def Reg.INGEST_HQ_DROP (i : Nat) : Nat := regKey 0 0x14 (0x20C + 0x10 * i)
def Reg.INGEST_SESS_CTRL (e : Nat) : Nat := regKey e 0x14 0x1000
def Reg.INGEST_SESS_MATCH (e : Nat) : Nat := regKey e 0x14 0x1004
def Reg.INGEST_SESS_SSRC (e : Nat) : Nat := regKey e 0x14 0x1008
def Reg.INGEST_SESS_TIMING (e : Nat) : Nat := regKey e 0x14 0x100C
def Reg.INGEST_SESS_DST (e i : Nat) : Nat := regKey e 0x14 (0x1010 + 0x4 * i)
def Reg.INGEST_SESS_SRC (e i : Nat) : Nat := regKey e 0x14 (0x1020 + 0x4 * i)
def Reg.INGEST_SESS_BUF (e : Nat) : Nat := regKey e 0x14 0x1030
def Reg.INGEST_SESS_RELAY (e : Nat) : Nat := regKey e 0x14 0x1034
def Reg.INGEST_SESS_ALLOW (e : Nat) : Nat := regKey e 0x14 0x1038
def Reg.INGEST_SESS_RTP_OFFSET (e : Nat) : Nat := regKey e 0x14 0x103C
def Reg.INGEST_SESS_MAP_RTP (e : Nat) : Nat := regKey e 0x14 0x1040
def Reg.INGEST_SESS_MAP_SEC (e : Nat) : Nat := regKey e 0x14 0x1044
def Reg.INGEST_SESS_MAP_NS (e : Nat) : Nat := regKey e 0x14 0x1048
def Reg.INGEST_SESS_STATUS (e : Nat) : Nat := regKey e 0x14 0x1050
def Reg.INGEST_SESS_CNT (e i : Nat) : Nat := regKey e 0x14 (0x1060 + 0x4 * i)
def Reg.DECSCHED_CTRL : Nat := regKey 0 0x1B 0x0
def Reg.DECSCHED_STATUS : Nat := regKey 0 0x1B 0x4
def Reg.DECSCHED_CTX_BASE : Nat := regKey 0 0x1B 0x20
def Reg.DECSCHED_SHED_CTRL : Nat := regKey 0 0x1B 0x24
def Reg.DECSCHED_RETIRE : Nat := regKey 0 0x1B 0x28
def Reg.DECSCHED_STREAM_INDEX (mst : Nat) : Nat := regKey mst 0x1B 0x100
def Reg.DECSCHED_STREAM_CTRL (e : Nat) : Nat := regKey e 0x1B 0x104
def Reg.DECSCHED_STREAM_GEOM (e : Nat) : Nat := regKey e 0x1B 0x108
def Reg.DECSCHED_STREAM_DESC (e : Nat) : Nat := regKey e 0x1B 0x10C
def Reg.DECSCHED_STREAM_IDLE_DL (e : Nat) : Nat := regKey e 0x1B 0x110
def Reg.DECSCHED_STREAM_STATUS (e : Nat) : Nat := regKey e 0x1B 0x114
def Reg.DECSCHED_STREAM_LAST (e : Nat) : Nat := regKey e 0x1B 0x118
def Reg.DECSCHED_STREAM_CNT (e i : Nat) : Nat := regKey e 0x1B (0x120 + 0x4 * i)
def Reg.DECSCHED_DESC_INDEX (mst : Nat) : Nat := regKey mst 0x1B 0x200
def Reg.DECSCHED_DESC_ADDR_LO (e : Nat) : Nat := regKey e 0x1B 0x204
def Reg.DECSCHED_DESC_ADDR_HI (e : Nat) : Nat := regKey e 0x1B 0x208
def Reg.DECSCHED_DESC_STATE (e : Nat) : Nat := regKey e 0x1B 0x20C
def Reg.DECSCHED_DESC_CAPT_SEC (e : Nat) : Nat := regKey e 0x1B 0x210
def Reg.DECSCHED_DESC_CAPT_NS (e : Nat) : Nat := regKey e 0x1B 0x214
def Reg.DECSCHED_DESC_SIZE (e : Nat) : Nat := regKey e 0x1B 0x218
def Reg.DECSCHED_DESC_SIG (e : Nat) : Nat := regKey e 0x1B 0x21C
def Reg.DECSCHED_DESC_LIVE (e : Nat) : Nat := regKey e 0x1B 0x220
def Reg.DECSCHED_DESC_CMD (e : Nat) : Nat := regKey e 0x1B 0x224
def Reg.DEC_CTRL (n : Nat) : Nat := regKey 0 (0x20 + n) 0x0
def Reg.DEC_STATUS (n : Nat) : Nat := regKey 0 (0x20 + n) 0x4
def Reg.DEC_QUEUE_WORK (n : Nat) : Nat := regKey 0 (0x20 + n) 0x8
def Reg.DEC_BUSY (n : Nat) : Nat := regKey 0 (0x20 + n) 0xC
def Reg.DEC_CNT_PART (n : Nat) : Nat := regKey 0 (0x20 + n) 0x20
def Reg.DEC_CNT_STEAL (n : Nat) : Nat := regKey 0 (0x20 + n) 0x24
def Reg.DEC_CNT_SWITCH (n : Nat) : Nat := regKey 0 (0x20 + n) 0x28
def Reg.DEC_CNT_TIMEOUT (n : Nat) : Nat := regKey 0 (0x20 + n) 0x2C
def Reg.FRESH_STATUS : Nat := regKey 0 0x19 0x0
def Reg.FRESH_COMMIT : Nat := regKey 0 0x19 0x10
def Reg.FRESH_LAST_CHANGE : Nat := regKey 0 0x19 0x20
def Reg.FRESH_CHANGE_COUNT : Nat := regKey 0 0x19 0x24
def Reg.FRESH_LAYER_INDEX (mst : Nat) : Nat := regKey mst 0x19 0x100
def Reg.FRESH_LAYER_WARN (e : Nat) : Nat := regKey e 0x19 0x104
def Reg.FRESH_LAYER_LIMIT (e : Nat) : Nat := regKey e 0x19 0x108
def Reg.FRESH_LAYER_CFG (e : Nat) : Nat := regKey e 0x19 0x10C
def Reg.FRESH_LAYER_HATCH (e : Nat) : Nat := regKey e 0x19 0x110
def Reg.FRESH_LAYER_STATUS (e : Nat) : Nat := regKey e 0x19 0x114
def Reg.FRESH_LAYER_CAUSE (e : Nat) : Nat := regKey e 0x19 0x118
def Reg.FRESH_LAYER_AGE_FIRST (e : Nat) : Nat := regKey e 0x19 0x11C
def Reg.FRESH_LAYER_AGE_LAST (e : Nat) : Nat := regKey e 0x19 0x120
def Reg.FRESH_LAYER_CNT_HATCH (e : Nat) : Nat := regKey e 0x19 0x124
def Reg.FRESH_STREAM_INDEX (mst : Nat) : Nat := regKey mst 0x19 0x200
def Reg.FRESH_STREAM_FREEZE (e : Nat) : Nat := regKey e 0x19 0x204
def Reg.FRESH_STREAM_STATUS (e : Nat) : Nat := regKey e 0x19 0x208
def Reg.LAYERPOOL_STATUS : Nat := regKey 0 0x1D 0x0
def Reg.LAYERPOOL_COMMIT : Nat := regKey 0 0x1D 0x10
def Reg.LAYERPOOL_GEOM_REJECT : Nat := regKey 0 0x1D 0x20
def Reg.LAYERPOOL_GEOM_CAUSE : Nat := regKey 0 0x1D 0x24
def Reg.LAYERPOOL_CSC_A (i j : Nat) : Nat := regKey 0 0x1D (0x800 + 0x20 * i + 0x8 * j)
def Reg.LAYERPOOL_CSC_B (i j : Nat) : Nat := regKey 0 0x1D (0x804 + 0x20 * i + 0x8 * j)
def Reg.LAYER_OWN (i : Nat) : Nat := regKey 0 0x1D (0x1000 + 0x40 * i)
def Reg.LAYER_CTRL (i : Nat) : Nat := regKey 0 0x1D (0x1004 + 0x40 * i)
def Reg.LAYER_DST_POS (i : Nat) : Nat := regKey 0 0x1D (0x1008 + 0x40 * i)
def Reg.LAYER_DST_SIZE (i : Nat) : Nat := regKey 0 0x1D (0x100C + 0x40 * i)
def Reg.LAYER_SRC_POS (i : Nat) : Nat := regKey 0 0x1D (0x1010 + 0x40 * i)
def Reg.LAYER_SRC_SIZE (i : Nat) : Nat := regKey 0 0x1D (0x1014 + 0x40 * i)
def Reg.LAYER_FMT (i : Nat) : Nat := regKey 0 0x1D (0x1018 + 0x40 * i)
def Reg.LAYER_ADDR0 (i : Nat) : Nat := regKey 0 0x1D (0x101C + 0x40 * i)
def Reg.LAYER_ADDR1 (i : Nat) : Nat := regKey 0 0x1D (0x1020 + 0x40 * i)
def Reg.LAYER_ADDR_HI (i : Nat) : Nat := regKey 0 0x1D (0x1024 + 0x40 * i)
def Reg.LAYER_ALPHA (i : Nat) : Nat := regKey 0 0x1D (0x1028 + 0x40 * i)
def Reg.LAYER_SOLID (i : Nat) : Nat := regKey 0 0x1D (0x102C + 0x40 * i)
def Reg.LAYER_STATUS (i : Nat) : Nat := regKey 0 0x1D (0x1030 + 0x40 * i)
def Reg.LAYER_CNT_NOT_READY (i : Nat) : Nat := regKey 0 0x1D (0x1034 + 0x40 * i)
def Reg.LEASE_STATUS : Nat := regKey 0 0x1A 0x0
def Reg.LEASE_VIOL_ADDR_LO : Nat := regKey 0 0x1A 0x20
def Reg.LEASE_VIOL_ADDR_HI : Nat := regKey 0 0x1A 0x24
def Reg.LEASE_VIOL_INFO : Nat := regKey 0 0x1A 0x28
def Reg.LEASE_VIOL_COUNT : Nat := regKey 0 0x1A 0x2C
def Reg.LEASE_ENDED : Nat := regKey 0 0x1A 0x30
def Reg.LEASE_ENTRY_INDEX (mst : Nat) : Nat := regKey mst 0x1A 0x100
def Reg.LEASE_ENTRY_START (e : Nat) : Nat := regKey e 0x1A 0x104
def Reg.LEASE_ENTRY_END (e : Nat) : Nat := regKey e 0x1A 0x108
def Reg.LEASE_ENTRY_HI (e : Nat) : Nat := regKey e 0x1A 0x10C
def Reg.LEASE_ENTRY_INFO (e : Nat) : Nat := regKey e 0x1A 0x110
def Reg.HEAD_CTRL (n : Nat) : Nat := regKey 0 (0x80 + n) 0x0
def Reg.HEAD_STATUS (n : Nat) : Nat := regKey 0 (0x80 + n) 0x4
def Reg.HEAD_LATCH (n : Nat) : Nat := regKey 0 (0x80 + n) 0x8
def Reg.HEAD_LINE_MATCH (n : Nat) : Nat := regKey 0 (0x80 + n) 0xC
def Reg.HEAD_COMMIT (n : Nat) : Nat := regKey 0 (0x80 + n) 0x10
def Reg.HEAD_LATCHED (n : Nat) : Nat := regKey 0 (0x80 + n) 0x14
def Reg.HEAD_POSITION (n : Nat) : Nat := regKey 0 (0x80 + n) 0x18
def Reg.HEAD_HTIME_A (n : Nat) : Nat := regKey 0 (0x80 + n) 0x20
def Reg.HEAD_HTIME_B (n : Nat) : Nat := regKey 0 (0x80 + n) 0x24
def Reg.HEAD_VTIME_A (n : Nat) : Nat := regKey 0 (0x80 + n) 0x28
def Reg.HEAD_VTIME_B (n : Nat) : Nat := regKey 0 (0x80 + n) 0x2C
def Reg.HEAD_FRATE (n : Nat) : Nat := regKey 0 (0x80 + n) 0x30
def Reg.HEAD_OUT_FMT (n : Nat) : Nat := regKey 0 (0x80 + n) 0x34
def Reg.HEAD_LOCK_CTRL (n : Nat) : Nat := regKey 0 (0x80 + n) 0x40
def Reg.HEAD_LOCK_PHASE (n : Nat) : Nat := regKey 0 (0x80 + n) 0x44
def Reg.HEAD_LOCK_ERR (n : Nat) : Nat := regKey 0 (0x80 + n) 0x48
def Reg.HEAD_PIPE_DELAY (n : Nat) : Nat := regKey 0 (0x80 + n) 0x4C
def Reg.HEAD_BG (n : Nat) : Nat := regKey 0 (0x80 + n) 0x50
def Reg.HEAD_OCSC_PRESET (n : Nat) : Nat := regKey 0 (0x80 + n) 0x54
def Reg.HEAD_OCSC_A (n i : Nat) : Nat := regKey 0 (0x80 + n) (0x60 + 0x8 * i)
def Reg.HEAD_OCSC_B (n i : Nat) : Nat := regKey 0 (0x80 + n) (0x64 + 0x8 * i)
def Reg.HEAD_FS_ADDR (n : Nat) : Nat := regKey 0 (0x80 + n) 0x80
def Reg.HEAD_SLATE_ADDR (n : Nat) : Nat := regKey 0 (0x80 + n) 0x84
def Reg.HEAD_SLATE_SIZE (n : Nat) : Nat := regKey 0 (0x80 + n) 0x88
def Reg.HEAD_TOL (n : Nat) : Nat := regKey 0 (0x80 + n) 0x90
def Reg.HEAD_FETCH (n : Nat) : Nat := regKey 0 (0x80 + n) 0x94
def Reg.HEAD_UNDERRUN_CNT (n : Nat) : Nat := regKey 0 (0x80 + n) 0xA0
def Reg.HEAD_UNDERRUN_FIRST (n : Nat) : Nat := regKey 0 (0x80 + n) 0xA4
def Reg.HEAD_PUSH (n : Nat) : Nat := regKey 0 (0x80 + n) 0xB0
def Reg.HEAD_PUSH_STATUS (n : Nat) : Nat := regKey 0 (0x80 + n) 0xB4
def Reg.HEAD_FRAME_CRC (n : Nat) : Nat := regKey 0 (0x80 + n) 0xC0
def Reg.HEAD_CW_STATUS (n : Nat) : Nat := regKey 0 (0x80 + n) 0xC4
def Reg.HEAD_CW_POS (n i : Nat) : Nat := regKey 0 (0x80 + n) (0x100 + 0x10 * i)
def Reg.HEAD_CW_SIZE (n i : Nat) : Nat := regKey 0 (0x80 + n) (0x104 + 0x10 * i)
def Reg.HEAD_CW_EXPECT (n i : Nat) : Nat := regKey 0 (0x80 + n) (0x108 + 0x10 * i)
def Reg.HEAD_CW_RESULT (n i : Nat) : Nat := regKey 0 (0x80 + n) (0x10C + 0x10 * i)
def Reg.HEAD_DP_CTRL (n : Nat) : Nat := regKey 0 (0x80 + n) 0x200
def Reg.HEAD_DP_STATUS (n : Nat) : Nat := regKey 0 (0x80 + n) 0x204
def Reg.HEAD_AUX_CTRL (n : Nat) : Nat := regKey 0 (0x80 + n) 0x208
def Reg.HEAD_AUX_STATUS (n : Nat) : Nat := regKey 0 (0x80 + n) 0x20C
def Reg.HEAD_AUX_DATA (n i : Nat) : Nat := regKey 0 (0x80 + n) (0x210 + 0x4 * i)
def Reg.HEAD_DSI_CTRL (n : Nat) : Nat := regKey 0 (0x80 + n) 0x200
def Reg.HEAD_DSI_CMD (n : Nat) : Nat := regKey 0 (0x80 + n) 0x208
def Reg.HEAD_DSI_CMD_STATUS (n : Nat) : Nat := regKey 0 (0x80 + n) 0x20C
def Reg.HEAD_DSI_DATA (n i : Nat) : Nat := regKey 0 (0x80 + n) (0x210 + 0x4 * i)
def Reg.ENCSCHED_CTRL : Nat := regKey 0 0x1C 0x0
def Reg.ENCSCHED_STATUS : Nat := regKey 0 0x1C 0x4
def Reg.ENCSCHED_STREAM_INDEX (mst : Nat) : Nat := regKey mst 0x1C 0x100
def Reg.ENCSCHED_STREAM_CTRL (e : Nat) : Nat := regKey e 0x1C 0x104
def Reg.ENCSCHED_STREAM_SRC (e : Nat) : Nat := regKey e 0x1C 0x108
def Reg.ENCSCHED_STREAM_CROP_POS (e : Nat) : Nat := regKey e 0x1C 0x10C
def Reg.ENCSCHED_STREAM_CROP_SIZE (e : Nat) : Nat := regKey e 0x1C 0x110
def Reg.ENCSCHED_STREAM_GOP (e : Nat) : Nat := regKey e 0x1C 0x114
def Reg.ENCSCHED_STREAM_IDR (e : Nat) : Nat := regKey e 0x1C 0x148
def Reg.ENCSCHED_STREAM_RC (e : Nat) : Nat := regKey e 0x1C 0x118
def Reg.ENCSCHED_STREAM_RATE (e : Nat) : Nat := regKey e 0x1C 0x11C
def Reg.ENCSCHED_STREAM_CPB (e : Nat) : Nat := regKey e 0x1C 0x120
def Reg.ENCSCHED_STREAM_BUF (e : Nat) : Nat := regKey e 0x1C 0x124
def Reg.ENCSCHED_STREAM_TX (e : Nat) : Nat := regKey e 0x1C 0x128
def Reg.ENCSCHED_STREAM_PACE (e : Nat) : Nat := regKey e 0x1C 0x12C
def Reg.ENCSCHED_STREAM_DMAC_HI (e : Nat) : Nat := regKey e 0x1C 0x130
def Reg.ENCSCHED_STREAM_DMAC_LO (e : Nat) : Nat := regKey e 0x1C 0x134
def Reg.ENCSCHED_STREAM_CMD (e : Nat) : Nat := regKey e 0x1C 0x138
def Reg.ENCSCHED_STREAM_STATUS (e : Nat) : Nat := regKey e 0x1C 0x13C
def Reg.ENCSCHED_STREAM_LAST_BITS (e : Nat) : Nat := regKey e 0x1C 0x140
def Reg.ENCSCHED_STREAM_TARGET (e : Nat) : Nat := regKey e 0x1C 0x144
def Reg.ENCSCHED_STREAM_CNT (e i : Nat) : Nat := regKey e 0x1C (0x160 + 0x4 * i)
def Reg.ENC_CTRL (n : Nat) : Nat := regKey 0 (0x60 + n) 0x0
def Reg.ENC_STATUS (n : Nat) : Nat := regKey 0 (0x60 + n) 0x4
def Reg.ENC_BUSY (n : Nat) : Nat := regKey 0 (0x60 + n) 0x8
def Reg.ENC_CNT_SLICE (n : Nat) : Nat := regKey 0 (0x60 + n) 0x20
def Reg.ENC_CNT_SWITCH (n : Nat) : Nat := regKey 0 (0x60 + n) 0x24
def Reg.TIME_STATUS : Nat := regKey 0 0xC 0x0
def Reg.TIME_INCR : Nat := regKey 0 0xC 0x4
def Reg.TIME_SNAP_CTRL : Nat := regKey 0 0xC 0x8
def Reg.TIME_SNAP_SEC_LO (i : Nat) : Nat := regKey 0 0xC (0x20 + 0x10 * i)
def Reg.TIME_SNAP_HI (i : Nat) : Nat := regKey 0 0xC (0x24 + 0x10 * i)
def Reg.TIME_SNAP_NS (i : Nat) : Nat := regKey 0 0xC (0x28 + 0x10 * i)
def Reg.TIME_STEP_INFO : Nat := regKey 0 0xC 0x60
def Reg.TIME_STEP_SIZE_LO : Nat := regKey 0 0xC 0x64
def Reg.TIME_STEP_SIZE_HI : Nat := regKey 0 0xC 0x68
def Reg.TIME_DOM_CFG (i : Nat) : Nat := regKey 0 0xC (0x100 + 0x40 * i)
def Reg.TIME_DOM_LOCK (i : Nat) : Nat := regKey 0 0xC (0x104 + 0x40 * i)
def Reg.TIME_DOM_LIMITS (i : Nat) : Nat := regKey 0 0xC (0x108 + 0x40 * i)
def Reg.TIME_DOM_BW (i : Nat) : Nat := regKey 0 0xC (0x10C + 0x40 * i)
def Reg.TIME_DOM_ERR_SEC_LO (i : Nat) : Nat := regKey 0 0xC (0x110 + 0x40 * i)
def Reg.TIME_DOM_ERR_HI (i : Nat) : Nat := regKey 0 0xC (0x114 + 0x40 * i)
def Reg.TIME_DOM_ERR_NS (i : Nat) : Nat := regKey 0 0xC (0x118 + 0x40 * i)
def Reg.TIME_DOM_RATE (i : Nat) : Nat := regKey 0 0xC (0x11C + 0x40 * i)
def Reg.TIME_DOM_OFS_SEC_LO (i : Nat) : Nat := regKey 0 0xC (0x120 + 0x40 * i)
def Reg.TIME_DOM_OFS_HI (i : Nat) : Nat := regKey 0 0xC (0x124 + 0x40 * i)
def Reg.TIME_DOM_OFS_NS (i : Nat) : Nat := regKey 0 0xC (0x128 + 0x40 * i)
def Reg.TIME_DOM_LAST_ERR (i : Nat) : Nat := regKey 0 0xC (0x12C + 0x40 * i)
def Reg.TIME_DOM_CNT (i : Nat) : Nat := regKey 0 0xC (0x130 + 0x40 * i)
def Reg.TIME_PORT_RX_ADJ (i : Nat) : Nat := regKey 0 0xC (0x200 + 0x8 * i)
def Reg.TIME_PORT_TX_ADJ (i : Nat) : Nat := regKey 0 0xC (0x204 + 0x8 * i)
def Reg.TIME_CHAIN_ASYM : Nat := regKey 0 0xC 0x220
def Reg.TIME_PPS_IN_CTRL : Nat := regKey 0 0xC 0x240
def Reg.TIME_PPS_IN_SEC_LO : Nat := regKey 0 0xC 0x244
def Reg.TIME_PPS_IN_HI : Nat := regKey 0 0xC 0x248
def Reg.TIME_PPS_IN_NS : Nat := regKey 0 0xC 0x24C
def Reg.TIME_FRAME_OUT_CFG (i : Nat) : Nat := regKey 0 0xC (0x300 + 0x10 * i)
def Reg.TIME_FRAME_OUT_FRATE (i : Nat) : Nat := regKey 0 0xC (0x304 + 0x10 * i)
def Reg.TIME_FRAME_OUT_PHASE (i : Nat) : Nat := regKey 0 0xC (0x308 + 0x10 * i)
def Reg.TIME_PPS_OUT_CFG : Nat := regKey 0 0xC 0x340
def Reg.TIME_PPS_OUT_PHASE : Nat := regKey 0 0xC 0x344
def Reg.TIME_REFOUT_CFG : Nat := regKey 0 0xC 0x350
def Reg.TIME_REFOUT_FREQ : Nat := regKey 0 0xC 0x354
def Reg.DPLL_CTRL : Nat := regKey 0 0xD 0x0
def Reg.DPLL_STATUS : Nat := regKey 0 0xD 0x4
def Reg.DPLL_PRIO0 : Nat := regKey 0 0xD 0x8
def Reg.DPLL_PRIO1 : Nat := regKey 0 0xD 0xC
def Reg.DPLL_BW : Nat := regKey 0 0xD 0x20
def Reg.DPLL_SLOPE : Nat := regKey 0 0xD 0x24
def Reg.DPLL_LOCK : Nat := regKey 0 0xD 0x28
def Reg.DPLL_HOLD : Nat := regKey 0 0xD 0x2C
def Reg.DPLL_QUAL : Nat := regKey 0 0xD 0x30
def Reg.DPLL_FREQ_MANUAL : Nat := regKey 0 0xD 0x34
def Reg.DPLL_FREQ : Nat := regKey 0 0xD 0x38
def Reg.DPLL_PHASE_ERR : Nat := regKey 0 0xD 0x3C
def Reg.DPLL_PHASE_CTRL : Nat := regKey 0 0xD 0x40
def Reg.DPLL_PHASE_STEP : Nat := regKey 0 0xD 0x44
def Reg.DPLL_PHASE_REMAIN : Nat := regKey 0 0xD 0x48
def Reg.DPLL_PHASE_APPLIED (i : Nat) : Nat := regKey 0 0xD (0x50 + 0x4 * i)
def Reg.DPLL_IN_CFG (i : Nat) : Nat := regKey 0 0xD (0x100 + 0x10 * i)
def Reg.DPLL_IN_FREQ_NUM (i : Nat) : Nat := regKey 0 0xD (0x104 + 0x10 * i)
def Reg.DPLL_IN_PHASE (i : Nat) : Nat := regKey 0 0xD (0x108 + 0x10 * i)
def Reg.DPLL_IN_STATUS (i : Nat) : Nat := regKey 0 0xD (0x10C + 0x10 * i)
def Reg.DRAMC_CTRL : Nat := regKey 0 0x6 0x0
def Reg.DRAMC_STATUS : Nat := regKey 0 0x6 0x4
def Reg.DRAMC_FC_CTRL : Nat := regKey 0 0x6 0x20
def Reg.DRAMC_FC_STATUS : Nat := regKey 0 0x6 0x24
def Reg.DRAMC_QOS : Nat := regKey 0 0x6 0x30
def Reg.DRAMC_REFRESH : Nat := regKey 0 0x6 0x34
def Reg.DRAMC_TOL_MIN : Nat := regKey 0 0x6 0x38
def Reg.DRAMC_FREEZE_INFO : Nat := regKey 0 0x6 0x40
def Reg.DRAMC_FREEZE_ADDR_LO : Nat := regKey 0 0x6 0x44
def Reg.DRAMC_FREEZE_ADDR_HI : Nat := regKey 0 0x6 0x48
def Reg.DRAMC_FREEZE_SYND : Nat := regKey 0 0x6 0x4C
def Reg.DRAMC_FREEZE_CTRL : Nat := regKey 0 0x6 0x50
def Reg.DRAMC_FREEZE_DROPPED : Nat := regKey 0 0x6 0x54
def Reg.DRAMC_DIAG_CTRL : Nat := regKey 0 0x6 0x60
def Reg.DRAMC_DIAG_ADDR_LO : Nat := regKey 0 0x6 0x64
def Reg.DRAMC_DIAG_ADDR_HI : Nat := regKey 0 0x6 0x68
def Reg.DRAMC_DIAG_DATA (i : Nat) : Nat := regKey 0 0x6 (0x80 + 0x4 * i)
def Reg.DRAMC_DIAG_CHECK (i : Nat) : Nat := regKey 0 0x6 (0xC0 + 0x4 * i)
def Reg.DRAMC_CH_TRAIN (n i : Nat) : Nat := regKey 0 (0x6 + n) (0x100 + 0x4 * i)
def Reg.DRAMC_CH_RETRAIN_CNT (n i : Nat) : Nat := regKey 0 (0x6 + n) (0x110 + 0x4 * i)
def Reg.FSTORE_STATUS : Nat := regKey 0 0xA 0x0
def Reg.FSTORE_UNW_INFO : Nat := regKey 0 0xA 0x20
def Reg.FSTORE_UNW_ADDR : Nat := regKey 0 0xA 0x24
def Reg.FSTORE_UNW_COUNT : Nat := regKey 0 0xA 0x28
def Reg.FSTORE_UNC_INFO : Nat := regKey 0 0xA 0x30
def Reg.FSTORE_UNC_ADDR : Nat := regKey 0 0xA 0x34
def Reg.FSTORE_UNC_COUNT : Nat := regKey 0 0xA 0x38
def Reg.FSTORE_UNWRITE_START : Nat := regKey 0 0xA 0x40
def Reg.FSTORE_UNWRITE_LEN : Nat := regKey 0 0xA 0x44
def Reg.REPAIR_CTRL : Nat := regKey 0 0xB 0x0
def Reg.REPAIR_STATUS : Nat := regKey 0 0xB 0x4
def Reg.REPAIR_SPARE : Nat := regKey 0 0xB 0x8
def Reg.REPAIR_DRAM_CE : Nat := regKey 0 0xB 0x20
def Reg.REPAIR_FS_CE : Nat := regKey 0 0xB 0x24
def Reg.REPAIR_HARD : Nat := regKey 0 0xB 0x28
def Reg.REPAIR_RETIRED_WR : Nat := regKey 0 0xB 0x2C
def Reg.REPAIR_CE_INFO : Nat := regKey 0 0xB 0x30
def Reg.REPAIR_CE_ADDR_LO : Nat := regKey 0 0xB 0x34
def Reg.REPAIR_CE_ADDR_HI : Nat := regKey 0 0xB 0x38
def Reg.REPAIR_OFFLINE : Nat := regKey 0 0xB 0x40
def Reg.REPAIR_INJ_CTRL : Nat := regKey 0 0xB 0x50
def Reg.REPAIR_INJ_ADDR_LO : Nat := regKey 0 0xB 0x54
def Reg.REPAIR_INJ_ADDR_HI : Nat := regKey 0 0xB 0x58
def Reg.REPAIR_INJ_STATUS : Nat := regKey 0 0xB 0x5C
def Reg.REPAIR_MACRO_INDEX : Nat := regKey 0 0xB 0x60
def Reg.REPAIR_MACRO_STATUS (e : Nat) : Nat := regKey e 0xB 0x64
def Reg.REPAIR_GMAP (i : Nat) : Nat := regKey 0 0xB (0x1000 + 0x4 * i)
def Reg.VAULT_STATUS : Nat := regKey 0 0x2 0x0
def Reg.VAULT_DISAGREE_COUNT : Nat := regKey 0 0x2 0x4
def Reg.VAULT_INJ : Nat := regKey 0 0x2 0x8
def Reg.VAULT_RAW_INDEX : Nat := regKey 0 0x2 0x20
def Reg.VAULT_RAW_A (e : Nat) : Nat := regKey e 0x2 0x24
def Reg.VAULT_RAW_B (e : Nat) : Nat := regKey e 0x2 0x28
def Reg.VAULT_RAW_C (e : Nat) : Nat := regKey e 0x2 0x2C
def Reg.VAULT_WORD (i : Nat) : Nat := regKey 0 0x2 (0x1000 + 0x4 * i)
def Reg.PROT_BOOT_LOCK : Nat := regKey 0 0x1 0x0
def Reg.PROT_DEBUG_OPEN : Nat := regKey 0 0x1 0x4
def Reg.PROT_FENCE : Nat := regKey 0 0x1 0x8
def Reg.PROT_STATUS : Nat := regKey 0 0x1 0xC
def Reg.PROT_VIOL_INFO : Nat := regKey 0 0x1 0x20
def Reg.PROT_VIOL_ADDR_LO : Nat := regKey 0 0x1 0x24
def Reg.PROT_VIOL_ADDR_HI : Nat := regKey 0 0x1 0x28
def Reg.PROT_VIOL_COUNT : Nat := regKey 0 0x1 0x2C
def Reg.PROT_MEM_DEFAULT : Nat := regKey 0 0x1 0x40
def Reg.PROT_SLOT_RULE (i : Nat) : Nat := regKey 0 0x1 (0x1000 + 0x4 * i)
def Reg.PROT_MREG_BASE (i : Nat) : Nat := regKey 0 0x1 (0x100 + 0x10 * i)
def Reg.PROT_MREG_LIMIT (i : Nat) : Nat := regKey 0 0x1 (0x104 + 0x10 * i)
def Reg.PROT_MREG_RULE (i : Nat) : Nat := regKey 0 0x1 (0x108 + 0x10 * i)
def Reg.PAIR_CTRL : Nat := regKey 0 0x15 0x0
def Reg.PAIR_STATUS : Nat := regKey 0 0x15 0x4
def Reg.PAIR_CMD : Nat := regKey 0 0x15 0x8
def Reg.PAIR_LAST_CAUSE : Nat := regKey 0 0x15 0xC
def Reg.PAIR_SYNC : Nat := regKey 0 0x15 0x20
def Reg.PAIR_HEAD_MASK : Nat := regKey 0 0x15 0x24
def Reg.PAIR_MISMATCH_INFO : Nat := regKey 0 0x15 0x28
def Reg.PAIR_CNT_UNRESOLVED : Nat := regKey 0 0x15 0x40
def Reg.PAIR_CNT_EXCUSED : Nat := regKey 0 0x15 0x44
def Reg.PAIR_CNT_BALLOT_MISS : Nat := regKey 0 0x15 0x48
def Reg.PAIR_CNT_BLOCKED : Nat := regKey 0 0x15 0x4C
def Reg.PAIR_CNT_MIRROR_REFUSED : Nat := regKey 0 0x15 0x50
def Reg.PAIR_MWIN_BASE (i : Nat) : Nat := regKey 0 0x15 (0x100 + 0x8 * i)
def Reg.PAIR_MWIN_LIMIT (i : Nat) : Nat := regKey 0 0x15 (0x104 + 0x8 * i)
def Reg.TOUCH_CTRL : Nat := regKey 0 0x16 0x0
def Reg.TOUCH_STATUS : Nat := regKey 0 0x16 0x4
def Reg.TOUCH_SCAN : Nat := regKey 0 0x16 0x8
def Reg.TOUCH_HOP_CTRL : Nat := regKey 0 0x16 0xC
def Reg.TOUCH_HOP (i : Nat) : Nat := regKey 0 0x16 (0x20 + 0x4 * i)
def Reg.TOUCH_TRACK : Nat := regKey 0 0x16 0x40
def Reg.TOUCH_RECAL : Nat := regKey 0 0x16 0x44
def Reg.TOUCH_DEB : Nat := regKey 0 0x16 0x48
def Reg.TOUCH_TEST_CTRL : Nat := regKey 0 0x16 0x50
def Reg.TOUCH_TEST_STATUS : Nat := regKey 0 0x16 0x54
def Reg.TOUCH_OPEN_MAP0 : Nat := regKey 0 0x16 0x58
def Reg.TOUCH_OPEN_MAP1 : Nat := regKey 0 0x16 0x5C
def Reg.TOUCH_SHORT_MAP0 : Nat := regKey 0 0x16 0x60
def Reg.TOUCH_SHORT_MAP1 : Nat := regKey 0 0x16 0x64
def Reg.TOUCH_REF_MAP : Nat := regKey 0 0x16 0x68
def Reg.TOUCH_WAKE_MASK0 : Nat := regKey 0 0x16 0x70
def Reg.TOUCH_WAKE_MASK1 : Nat := regKey 0 0x16 0x74
def Reg.TOUCH_WAKE_CFG : Nat := regKey 0 0x16 0x78
def Reg.TOUCH_CMD : Nat := regKey 0 0x16 0x80
def Reg.TOUCH_CHANGE : Nat := regKey 0 0x16 0x84
def Reg.TOUCH_PRESSED (i : Nat) : Nat := regKey 0 0x16 (0x100 + 0x4 * i)
def Reg.TOUCH_ELEM_INDEX (mst : Nat) : Nat := regKey mst 0x16 0x200
def Reg.TOUCH_ELEM_CFG (e : Nat) : Nat := regKey e 0x16 0x204
def Reg.TOUCH_ELEM_DATA (e : Nat) : Nat := regKey e 0x16 0x208
def Reg.TOUCH_ELEM_STATUS (e : Nat) : Nat := regKey e 0x16 0x20C
def Reg.DEFL_CTRL : Nat := regKey 0 0x17 0x0
def Reg.DEFL_STATUS : Nat := regKey 0 0x17 0x4
def Reg.DEFL_SUBMIT : Nat := regKey 0 0x17 0x40
def Reg.DEFL_TICKET (mst : Nat) : Nat := regKey mst 0x17 0x44
def Reg.DEFL_STAGE (mst i : Nat) : Nat := regKey mst 0x17 (0x80 + 0x4 * i)
def Reg.DEFL_Q_STATUS (i : Nat) : Nat := regKey 0 0x17 (0x200 + 0x4 * i)
def Reg.DEFL_CNT_JOBS : Nat := regKey 0 0x17 0x300
def Reg.DEFL_CNT_ERR : Nat := regKey 0 0x17 0x304
def Reg.DEFL_CNT_SUSPEND : Nat := regKey 0 0x17 0x308
def Reg.CHECK_STATUS : Nat := regKey 0 0x18 0x0
def Reg.CHECK_SUBMIT : Nat := regKey 0 0x18 0x40
def Reg.CHECK_TICKET (mst : Nat) : Nat := regKey mst 0x18 0x44
def Reg.CHECK_STAGE (mst i : Nat) : Nat := regKey mst 0x18 (0x80 + 0x4 * i)
def Reg.CHECK_U_CFG (i : Nat) : Nat := regKey 0 0x18 (0x400 + 0x40 * i)
def Reg.CHECK_U_POLY (i : Nat) : Nat := regKey 0 0x18 (0x404 + 0x40 * i)
def Reg.CHECK_U_INIT (i : Nat) : Nat := regKey 0 0x18 (0x408 + 0x40 * i)
def Reg.CHECK_U_XOROUT (i : Nat) : Nat := regKey 0 0x18 (0x40C + 0x40 * i)
def Reg.CHECK_U_VALUE (i : Nat) : Nat := regKey 0 0x18 (0x410 + 0x40 * i)
def Reg.CHECK_U_RESULT (i : Nat) : Nat := regKey 0 0x18 (0x414 + 0x40 * i)
def Reg.CHECK_U_DATA (i : Nat) : Nat := regKey 0 0x18 (0x418 + 0x40 * i)
def Reg.CHECK_U_DATA8 (i : Nat) : Nat := regKey 0 0x18 (0x41C + 0x40 * i)
def Reg.CHECK_U_CTRL (i : Nat) : Nat := regKey 0 0x18 (0x420 + 0x40 * i)
def Reg.CHECK_U_ALIVE (i : Nat) : Nat := regKey 0 0x18 (0x424 + 0x40 * i)
def Reg.CHECK_U_LAST (i : Nat) : Nat := regKey 0 0x18 (0x428 + 0x40 * i)
def Reg.CHECK_U_CNT_FAIL (i : Nat) : Nat := regKey 0 0x18 (0x42C + 0x40 * i)
def Reg.CHECK_U_QUEUE (i : Nat) : Nat := regKey 0 0x18 (0x430 + 0x40 * i)
def Reg.EVT_DOORBELL : Nat := regKey 0 0x3 0x8
def Reg.EVT_SEQ_FAULT_STATUS : Nat := regKey 0 0x3 0xC
def Reg.EVT_PIN_CFG (i : Nat) : Nat := regKey 0 0x3 (0x20 + 0x4 * i)
def Reg.EVT_ALARM_MASK (i : Nat) : Nat := regKey 0 0x3 (0x40 + 0x4 * i)
def Reg.EVT_ALARM_LATCH (i : Nat) : Nat := regKey 0 0x3 (0x60 + 0x4 * i)
def Reg.EVT_LATCH (i : Nat) : Nat := regKey 0 0x3 (0x80 + 0x4 * i)
def Reg.EVT_CNT (i : Nat) : Nat := regKey 0 0x3 (0x400 + 0x4 * i)
def Reg.EVT_ROUTE (i : Nat) : Nat := regKey 0 0x3 (0x800 + 0x4 * i)
def Reg.EVT_SEQLINE (i j : Nat) : Nat := regKey 0 0x3 (0x1000 + 0x80 * i + 0x4 * j)
def Reg.MON_STATUS : Nat := regKey 0 0x4 0x0
def Reg.MON_CH_CFG (i : Nat) : Nat := regKey 0 0x4 (0x100 + 0x20 * i)
def Reg.MON_CH_BASE (i : Nat) : Nat := regKey 0 0x4 (0x104 + 0x20 * i)
def Reg.MON_CH_CTRL (i : Nat) : Nat := regKey 0 0x4 (0x108 + 0x20 * i)
def Reg.MON_CH_MIN (i : Nat) : Nat := regKey 0 0x4 (0x10C + 0x20 * i)
def Reg.MON_CH_MAX (i : Nat) : Nat := regKey 0 0x4 (0x110 + 0x20 * i)
def Reg.MON_CH_COUNT (i : Nat) : Nat := regKey 0 0x4 (0x114 + 0x20 * i)
def Reg.MON_CH_ALARM (i : Nat) : Nat := regKey 0 0x4 (0x118 + 0x20 * i)
def Reg.MON_CH_LAST (i : Nat) : Nat := regKey 0 0x4 (0x11C + 0x20 * i)
def Reg.MON_CH_BIN (i j : Nat) : Nat := regKey 0 0x4 (0x1000 + 0x100 * i + 0x4 * j)

def Fld.SYS_PWR_CTRL_CONFIRM : Fld := ⟨Reg.SYS_PWR_CTRL, 16, 16⟩
def Fld.SYS_PWR_CTRL_TOUCH_WAKE : Fld := ⟨Reg.SYS_PWR_CTRL, 4, 1⟩
def Fld.SYS_PWR_CTRL_TARGET : Fld := ⟨Reg.SYS_PWR_CTRL, 0, 2⟩
def Fld.SYS_PWR_STATUS_THERM_WARN : Fld := ⟨Reg.SYS_PWR_STATUS, 21, 1⟩
def Fld.SYS_PWR_STATUS_VIN_LOW : Fld := ⟨Reg.SYS_PWR_STATUS, 20, 1⟩
def Fld.SYS_PWR_STATUS_WAKE_CAUSE : Fld := ⟨Reg.SYS_PWR_STATUS, 16, 2⟩
def Fld.SYS_PWR_STATUS_REJECT_CAUSE : Fld := ⟨Reg.SYS_PWR_STATUS, 12, 2⟩
def Fld.SYS_PWR_STATUS_REQ_REJECT : Fld := ⟨Reg.SYS_PWR_STATUS, 9, 1⟩
def Fld.SYS_PWR_STATUS_BOOT_READY : Fld := ⟨Reg.SYS_PWR_STATUS, 8, 1⟩
def Fld.SYS_PWR_STATUS_STATE : Fld := ⟨Reg.SYS_PWR_STATUS, 0, 2⟩
def Fld.SYS_IDLE_DELAY_DELAY : Fld := ⟨Reg.SYS_IDLE_DELAY, 0, 20⟩
def Fld.SYS_RESET_CAUSE_THERMAL_TRIP : Fld := ⟨Reg.SYS_RESET_CAUSE, 8, 1⟩
def Fld.SYS_RESET_CAUSE_CAUSE : Fld := ⟨Reg.SYS_RESET_CAUSE, 0, 4⟩
def Fld.SYS_SOFT_RESET_CONFIRM : Fld := ⟨Reg.SYS_SOFT_RESET, 16, 16⟩
def Fld.SYS_SOFT_RESET_GO : Fld := ⟨Reg.SYS_SOFT_RESET, 0, 1⟩
def Fld.PCIE_AP_EN (i : Nat) : Fld := ⟨(Reg.PCIE_AP i), 31, 1⟩
def Fld.PCIE_AP_MODULE (i : Nat) : Fld := ⟨(Reg.PCIE_AP i), 24, 6⟩
def Fld.PCIE_AP_BASE (i : Nat) : Fld := ⟨(Reg.PCIE_AP i), 0, 20⟩
def Fld.CHAIN_STATUS_GEN : Fld := ⟨Reg.CHAIN_STATUS, 24, 8⟩
def Fld.CHAIN_STATUS_COUNT : Fld := ⟨Reg.CHAIN_STATUS, 17, 7⟩
def Fld.CHAIN_STATUS_OVERFLOW : Fld := ⟨Reg.CHAIN_STATUS, 16, 1⟩
def Fld.CHAIN_STATUS_ADDR : Fld := ⟨Reg.CHAIN_STATUS, 8, 6⟩
def Fld.CHAIN_STATUS_ADDR_VALID : Fld := ⟨Reg.CHAIN_STATUS, 7, 1⟩
def Fld.CHAIN_STATUS_ROLE_CONFLICT : Fld := ⟨Reg.CHAIN_STATUS, 6, 1⟩
def Fld.CHAIN_STATUS_HEAD : Fld := ⟨Reg.CHAIN_STATUS, 5, 1⟩
def Fld.CHAIN_STATUS_ENUM_BUSY : Fld := ⟨Reg.CHAIN_STATUS, 4, 1⟩
def Fld.CHAIN_STATUS_DOWN_UP : Fld := ⟨Reg.CHAIN_STATUS, 1, 1⟩
def Fld.CHAIN_STATUS_UP_UP : Fld := ⟨Reg.CHAIN_STATUS, 0, 1⟩
def Fld.CHAIN_ENUM_CTRL_START : Fld := ⟨Reg.CHAIN_ENUM_CTRL, 0, 1⟩
def Fld.CHAIN_HOST_ERR_ABSENT : Fld := ⟨Reg.CHAIN_HOST_ERR, 24, 8⟩
def Fld.CHAIN_HOST_ERR_TIMEOUT : Fld := ⟨Reg.CHAIN_HOST_ERR, 16, 8⟩
def Fld.CHAIN_HOST_ERR_AP_OFF : Fld := ⟨Reg.CHAIN_HOST_ERR, 8, 8⟩
def Fld.CHAIN_HOST_ERR_EVT_DROP : Fld := ⟨Reg.CHAIN_HOST_ERR, 0, 8⟩
def Fld.CHAIN_UNIT_ID_UID : Fld := ⟨Reg.CHAIN_UNIT_ID, 0, 32⟩
def Fld.BOOT_STATUS_LANE : Fld := ⟨Reg.BOOT_STATUS, 16, 5⟩
def Fld.BOOT_STATUS_SEL : Fld := ⟨Reg.BOOT_STATUS, 12, 2⟩
def Fld.BOOT_STATUS_STAGE : Fld := ⟨Reg.BOOT_STATUS, 8, 3⟩
def Fld.BOOT_STATUS_CODE : Fld := ⟨Reg.BOOT_STATUS, 0, 8⟩
def Fld.BOOT_HOST_LOAD_GO : Fld := ⟨Reg.BOOT_HOST_LOAD, 31, 1⟩
def Fld.BOOT_HOST_LOAD_LEN : Fld := ⟨Reg.BOOT_HOST_LOAD, 0, 24⟩
def Fld.SYS_CFG_REJECT_INFO_VALID : Fld := ⟨Reg.SYS_CFG_REJECT_INFO, 31, 1⟩
def Fld.SYS_CFG_REJECT_INFO_OFFSET : Fld := ⟨Reg.SYS_CFG_REJECT_INFO, 16, 14⟩
def Fld.SYS_CFG_REJECT_INFO_MASTER : Fld := ⟨Reg.SYS_CFG_REJECT_INFO, 8, 8⟩
def Fld.SYS_CFG_REJECT_INFO_SLOT : Fld := ⟨Reg.SYS_CFG_REJECT_INFO, 0, 8⟩
def Fld.SYS_CFG_REJECT_COUNT_COUNT : Fld := ⟨Reg.SYS_CFG_REJECT_COUNT, 0, 16⟩
def Fld.SEQ_CTRL_BRK_FAULT (n : Nat) : Fld := ⟨(Reg.SEQ_CTRL n), 8, 1⟩
def Fld.SEQ_CTRL_STOP (n : Nat) : Fld := ⟨(Reg.SEQ_CTRL n), 3, 1⟩
def Fld.SEQ_CTRL_STEP (n : Nat) : Fld := ⟨(Reg.SEQ_CTRL n), 2, 1⟩
def Fld.SEQ_CTRL_RESUME (n : Nat) : Fld := ⟨(Reg.SEQ_CTRL n), 1, 1⟩
def Fld.SEQ_CTRL_START (n : Nat) : Fld := ⟨(Reg.SEQ_CTRL n), 0, 1⟩
def Fld.SEQ_STATUS_CFG_REJECT (n : Nat) : Fld := ⟨(Reg.SEQ_STATUS n), 16, 1⟩
def Fld.SEQ_STATUS_WAIT_KIND (n : Nat) : Fld := ⟨(Reg.SEQ_STATUS n), 8, 3⟩
def Fld.SEQ_STATUS_STATE (n : Nat) : Fld := ⟨(Reg.SEQ_STATUS n), 0, 3⟩
def Fld.SEQ_PC_PC_HI (n : Nat) : Fld := ⟨(Reg.SEQ_PC n), 15, 3⟩
def Fld.SEQ_PC_PC (n : Nat) : Fld := ⟨(Reg.SEQ_PC n), 2, 13⟩
def Fld.SEQ_CAUSE_CODE (n : Nat) : Fld := ⟨(Reg.SEQ_CAUSE n), 0, 8⟩
def Fld.SEQ_FAULT_INFO_INFO (n : Nat) : Fld := ⟨(Reg.SEQ_FAULT_INFO n), 0, 32⟩
def Fld.SEQ_WAIT_LIMIT_LIMIT (n : Nat) : Fld := ⟨(Reg.SEQ_WAIT_LIMIT n), 0, 20⟩
def Fld.SEQ_EVT_PEND_PEND (n : Nat) : Fld := ⟨(Reg.SEQ_EVT_PEND n), 0, 32⟩
def Fld.SEQ_WIN_WIN3 (n : Nat) : Fld := ⟨(Reg.SEQ_WIN n), 24, 8⟩
def Fld.SEQ_WIN_WIN2 (n : Nat) : Fld := ⟨(Reg.SEQ_WIN n), 16, 8⟩
def Fld.SEQ_WIN_WIN1 (n : Nat) : Fld := ⟨(Reg.SEQ_WIN n), 8, 8⟩
def Fld.SEQ_WIN_WIN0 (n : Nat) : Fld := ⟨(Reg.SEQ_WIN n), 0, 8⟩
def Fld.SEQ_CYCLES_COUNT (n : Nat) : Fld := ⟨(Reg.SEQ_CYCLES n), 0, 32⟩
def Fld.SEQ_DBG_SEL_REG (n : Nat) : Fld := ⟨(Reg.SEQ_DBG_SEL n), 0, 5⟩
def Fld.SEQ_DBG_DATA_VALUE (n : Nat) : Fld := ⟨(Reg.SEQ_DBG_DATA n), 0, 32⟩
def Fld.SEQ_BKPT_EN (n i : Nat) : Fld := ⟨(Reg.SEQ_BKPT n i), 31, 1⟩
def Fld.SEQ_BKPT_ADDR (n i : Nat) : Fld := ⟨(Reg.SEQ_BKPT n i), 2, 13⟩
def Fld.SEQ_ECC_CORR (n : Nat) : Fld := ⟨(Reg.SEQ_ECC n), 16, 16⟩
def Fld.SEQ_ECC_UNCORR (n : Nat) : Fld := ⟨(Reg.SEQ_ECC n), 0, 16⟩
def Fld.ETH_CTRL_TXDIS (n : Nat) : Fld := ⟨(Reg.ETH_CTRL n), 5, 1⟩
def Fld.ETH_CTRL_FEC (n : Nat) : Fld := ⟨(Reg.ETH_CTRL n), 2, 2⟩
def Fld.ETH_CTRL_SPEED (n : Nat) : Fld := ⟨(Reg.ETH_CTRL n), 1, 1⟩
def Fld.ETH_CTRL_EN (n : Nat) : Fld := ⟨(Reg.ETH_CTRL n), 0, 1⟩
def Fld.ETH_STATUS_CFG_REJECT (n : Nat) : Fld := ⟨(Reg.ETH_STATUS n), 8, 1⟩
def Fld.ETH_STATUS_TXFLT (n : Nat) : Fld := ⟨(Reg.ETH_STATUS n), 4, 1⟩
def Fld.ETH_STATUS_LOS (n : Nat) : Fld := ⟨(Reg.ETH_STATUS n), 3, 1⟩
def Fld.ETH_STATUS_MODABS (n : Nat) : Fld := ⟨(Reg.ETH_STATUS n), 2, 1⟩
def Fld.ETH_STATUS_BLOCK_LOCK (n : Nat) : Fld := ⟨(Reg.ETH_STATUS n), 1, 1⟩
def Fld.ETH_STATUS_LINK (n : Nat) : Fld := ⟨(Reg.ETH_STATUS n), 0, 1⟩
def Fld.ETH_MAC_HI_ADDR_HI (n : Nat) : Fld := ⟨(Reg.ETH_MAC_HI n), 0, 16⟩
def Fld.ETH_MAC_LO_ADDR_LO (n : Nat) : Fld := ⟨(Reg.ETH_MAC_LO n), 0, 32⟩
def Fld.ETH_RX_DROP_FCS (n : Nat) : Fld := ⟨(Reg.ETH_RX_DROP n), 24, 8⟩
def Fld.ETH_RX_DROP_LONG (n : Nat) : Fld := ⟨(Reg.ETH_RX_DROP n), 16, 8⟩
def Fld.ETH_RX_DROP_MALFORMED (n : Nat) : Fld := ⟨(Reg.ETH_RX_DROP n), 8, 8⟩
def Fld.ETH_RX_DROP_UNMATCHED (n : Nat) : Fld := ⟨(Reg.ETH_RX_DROP n), 0, 8⟩
def Fld.INGEST_CTRL_FUTURE_TOL : Fld := ⟨Reg.INGEST_CTRL, 0, 20⟩
def Fld.INGEST_STATUS_CFG_REJECT : Fld := ⟨Reg.INGEST_STATUS, 0, 1⟩
def Fld.INGEST_SESS_INDEX_INDEX (mst : Nat) : Fld := ⟨(Reg.INGEST_SESS_INDEX mst), 0, 12⟩
def Fld.INGEST_HQ_BASE_LO_BASE_LO (i : Nat) : Fld := ⟨(Reg.INGEST_HQ_BASE_LO i), 12, 20⟩
def Fld.INGEST_HQ_BASE_LO_LOG2 (i : Nat) : Fld := ⟨(Reg.INGEST_HQ_BASE_LO i), 4, 4⟩
def Fld.INGEST_HQ_BASE_LO_EN (i : Nat) : Fld := ⟨(Reg.INGEST_HQ_BASE_LO i), 0, 1⟩
def Fld.INGEST_HQ_BASE_HI_BASE_HI (i : Nat) : Fld := ⟨(Reg.INGEST_HQ_BASE_HI i), 0, 32⟩
def Fld.INGEST_HQ_PTR_PROD (i : Nat) : Fld := ⟨(Reg.INGEST_HQ_PTR i), 16, 16⟩
def Fld.INGEST_HQ_PTR_CONS (i : Nat) : Fld := ⟨(Reg.INGEST_HQ_PTR i), 0, 16⟩
def Fld.INGEST_HQ5_PTR_PROD : Fld := ⟨Reg.INGEST_HQ5_PTR, 16, 16⟩
def Fld.INGEST_HQ5_PTR_CONS : Fld := ⟨Reg.INGEST_HQ5_PTR, 0, 16⟩
def Fld.INGEST_HQ_DROP_COUNT (i : Nat) : Fld := ⟨(Reg.INGEST_HQ_DROP i), 0, 32⟩
def Fld.INGEST_SESS_CTRL_EN (e : Nat) : Fld := ⟨(Reg.INGEST_SESS_CTRL e), 31, 1⟩
def Fld.INGEST_SESS_CTRL_ERR_EVT (e : Nat) : Fld := ⟨(Reg.INGEST_SESS_CTRL e), 30, 1⟩
def Fld.INGEST_SESS_CTRL_KIND (e : Nat) : Fld := ⟨(Reg.INGEST_SESS_CTRL e), 29, 1⟩
def Fld.INGEST_SESS_CTRL_LIV_ID (e : Nat) : Fld := ⟨(Reg.INGEST_SESS_CTRL e), 21, 8⟩
def Fld.INGEST_SESS_CTRL_PAYLOAD (e : Nat) : Fld := ⟨(Reg.INGEST_SESS_CTRL e), 19, 2⟩
def Fld.INGEST_SESS_CTRL_CT_SRC (e : Nat) : Fld := ⟨(Reg.INGEST_SESS_CTRL e), 17, 2⟩
def Fld.INGEST_SESS_CTRL_CHASE (e : Nat) : Fld := ⟨(Reg.INGEST_SESS_CTRL e), 16, 1⟩
def Fld.INGEST_SESS_CTRL_SEI_EN (e : Nat) : Fld := ⟨(Reg.INGEST_SESS_CTRL e), 15, 1⟩
def Fld.INGEST_SESS_CTRL_RELAY_EN (e : Nat) : Fld := ⟨(Reg.INGEST_SESS_CTRL e), 14, 1⟩
def Fld.INGEST_SESS_CTRL_IPV6 (e : Nat) : Fld := ⟨(Reg.INGEST_SESS_CTRL e), 13, 1⟩
def Fld.INGEST_SESS_CTRL_MATCH_SRC (e : Nat) : Fld := ⟨(Reg.INGEST_SESS_CTRL e), 12, 1⟩
def Fld.INGEST_SESS_CTRL_MATCH_SSRC (e : Nat) : Fld := ⟨(Reg.INGEST_SESS_CTRL e), 11, 1⟩
def Fld.INGEST_SESS_CTRL_PT (e : Nat) : Fld := ⟨(Reg.INGEST_SESS_CTRL e), 4, 7⟩
def Fld.INGEST_SESS_CTRL_PORTS (e : Nat) : Fld := ⟨(Reg.INGEST_SESS_CTRL e), 0, 4⟩
def Fld.INGEST_SESS_MATCH_VLAN_EN (e : Nat) : Fld := ⟨(Reg.INGEST_SESS_MATCH e), 31, 1⟩
def Fld.INGEST_SESS_MATCH_VID (e : Nat) : Fld := ⟨(Reg.INGEST_SESS_MATCH e), 16, 12⟩
def Fld.INGEST_SESS_MATCH_UDP_PORT (e : Nat) : Fld := ⟨(Reg.INGEST_SESS_MATCH e), 0, 16⟩
def Fld.INGEST_SESS_SSRC_SSRC (e : Nat) : Fld := ⟨(Reg.INGEST_SESS_SSRC e), 0, 32⟩
def Fld.INGEST_SESS_TIMING_JITTER_DELAY (e : Nat) : Fld := ⟨(Reg.INGEST_SESS_TIMING e), 16, 16⟩
def Fld.INGEST_SESS_TIMING_LOSS_WAIT (e : Nat) : Fld := ⟨(Reg.INGEST_SESS_TIMING e), 8, 8⟩
def Fld.INGEST_SESS_DST_ADDR (e i : Nat) : Fld := ⟨(Reg.INGEST_SESS_DST e i), 0, 32⟩
def Fld.INGEST_SESS_SRC_ADDR (e i : Nat) : Fld := ⟨(Reg.INGEST_SESS_SRC e i), 0, 32⟩
def Fld.INGEST_SESS_BUF_BASE (e : Nat) : Fld := ⟨(Reg.INGEST_SESS_BUF e), 8, 24⟩
def Fld.INGEST_SESS_BUF_SIZE (e : Nat) : Fld := ⟨(Reg.INGEST_SESS_BUF e), 0, 8⟩
def Fld.INGEST_SESS_RELAY_TARGET_ADDR (e : Nat) : Fld := ⟨(Reg.INGEST_SESS_RELAY e), 24, 6⟩
def Fld.INGEST_SESS_RELAY_TARGET_SESSION (e : Nat) : Fld := ⟨(Reg.INGEST_SESS_RELAY e), 0, 12⟩
def Fld.INGEST_SESS_ALLOW_NETWORK_ALLOWANCE (e : Nat) : Fld := ⟨(Reg.INGEST_SESS_ALLOW e), 0, 24⟩
def Fld.INGEST_SESS_RTP_OFFSET_RTP_OFFSET (e : Nat) : Fld := ⟨(Reg.INGEST_SESS_RTP_OFFSET e), 0, 32⟩
def Fld.INGEST_SESS_MAP_RTP_MAP_RTP (e : Nat) : Fld := ⟨(Reg.INGEST_SESS_MAP_RTP e), 0, 32⟩
def Fld.INGEST_SESS_MAP_SEC_MAP_SEC (e : Nat) : Fld := ⟨(Reg.INGEST_SESS_MAP_SEC e), 0, 32⟩
def Fld.INGEST_SESS_MAP_NS_MAP_DOM (e : Nat) : Fld := ⟨(Reg.INGEST_SESS_MAP_NS e), 31, 1⟩
def Fld.INGEST_SESS_MAP_NS_MAP_NS (e : Nat) : Fld := ⟨(Reg.INGEST_SESS_MAP_NS e), 0, 30⟩
def Fld.INGEST_SESS_STATUS_DRAINED (e : Nat) : Fld := ⟨(Reg.INGEST_SESS_STATUS e), 31, 1⟩
def Fld.INGEST_SESS_STATUS_MAP_VALID (e : Nat) : Fld := ⟨(Reg.INGEST_SESS_STATUS e), 30, 1⟩
def Fld.INGEST_SESS_STATUS_KEY_CONFLICT (e : Nat) : Fld := ⟨(Reg.INGEST_SESS_STATUS e), 29, 1⟩
def Fld.INGEST_SESS_STATUS_ACTIVE (e : Nat) : Fld := ⟨(Reg.INGEST_SESS_STATUS e), 28, 1⟩
def Fld.INGEST_SESS_STATUS_LAST_ALIVE (e : Nat) : Fld := ⟨(Reg.INGEST_SESS_STATUS e), 8, 16⟩
def Fld.INGEST_SESS_STATUS_LAST_ERR (e : Nat) : Fld := ⟨(Reg.INGEST_SESS_STATUS e), 0, 8⟩
def Fld.INGEST_SESS_CNT_COUNT (e i : Nat) : Fld := ⟨(Reg.INGEST_SESS_CNT e i), 0, 32⟩
def Fld.DECSCHED_CTRL_CROSS_STEAL : Fld := ⟨Reg.DECSCHED_CTRL, 2, 1⟩
def Fld.DECSCHED_CTRL_STEAL : Fld := ⟨Reg.DECSCHED_CTRL, 1, 1⟩
def Fld.DECSCHED_CTRL_EN : Fld := ⟨Reg.DECSCHED_CTRL, 0, 1⟩
def Fld.DECSCHED_STATUS_CFG_REJECT : Fld := ⟨Reg.DECSCHED_STATUS, 31, 1⟩
def Fld.DECSCHED_STATUS_CMD_REJECT : Fld := ⟨Reg.DECSCHED_STATUS, 30, 1⟩
def Fld.DECSCHED_STATUS_SHEDDING : Fld := ⟨Reg.DECSCHED_STATUS, 24, 1⟩
def Fld.DECSCHED_STATUS_LOAD : Fld := ⟨Reg.DECSCHED_STATUS, 16, 8⟩
def Fld.DECSCHED_STATUS_BACKLOG : Fld := ⟨Reg.DECSCHED_STATUS, 0, 16⟩
def Fld.DECSCHED_CTX_BASE_BASE : Fld := ⟨Reg.DECSCHED_CTX_BASE, 12, 20⟩
def Fld.DECSCHED_SHED_CTRL_BACKLOG_HI : Fld := ⟨Reg.DECSCHED_SHED_CTRL, 8, 8⟩
def Fld.DECSCHED_SHED_CTRL_BACKLOG_LO : Fld := ⟨Reg.DECSCHED_SHED_CTRL, 0, 8⟩
def Fld.DECSCHED_RETIRE_VALID : Fld := ⟨Reg.DECSCHED_RETIRE, 31, 1⟩
def Fld.DECSCHED_RETIRE_OVERFLOW : Fld := ⟨Reg.DECSCHED_RETIRE, 30, 1⟩
def Fld.DECSCHED_RETIRE_DESC : Fld := ⟨Reg.DECSCHED_RETIRE, 0, 14⟩
def Fld.DECSCHED_STREAM_INDEX_INDEX (mst : Nat) : Fld := ⟨(Reg.DECSCHED_STREAM_INDEX mst), 0, 11⟩
def Fld.DECSCHED_STREAM_CTRL_EN (e : Nat) : Fld := ⟨(Reg.DECSCHED_STREAM_CTRL e), 31, 1⟩
def Fld.DECSCHED_STREAM_CTRL_ERR_EVT (e : Nat) : Fld := ⟨(Reg.DECSCHED_STREAM_CTRL e), 30, 1⟩
def Fld.DECSCHED_STREAM_CTRL_SHED_PRIO (e : Nat) : Fld := ⟨(Reg.DECSCHED_STREAM_CTRL e), 27, 3⟩
def Fld.DECSCHED_STREAM_CTRL_MAX_CELLS (e : Nat) : Fld := ⟨(Reg.DECSCHED_STREAM_CTRL e), 23, 4⟩
def Fld.DECSCHED_STREAM_CTRL_AFFINITY (e : Nat) : Fld := ⟨(Reg.DECSCHED_STREAM_CTRL e), 17, 6⟩
def Fld.DECSCHED_STREAM_CTRL_SESSION (e : Nat) : Fld := ⟨(Reg.DECSCHED_STREAM_CTRL e), 0, 12⟩
def Fld.DECSCHED_STREAM_GEOM_MAX_W64 (e : Nat) : Fld := ⟨(Reg.DECSCHED_STREAM_GEOM e), 24, 8⟩
def Fld.DECSCHED_STREAM_GEOM_MAX_H64 (e : Nat) : Fld := ⟨(Reg.DECSCHED_STREAM_GEOM e), 16, 8⟩
def Fld.DECSCHED_STREAM_DESC_COUNT (e : Nat) : Fld := ⟨(Reg.DECSCHED_STREAM_DESC e), 24, 8⟩
def Fld.DECSCHED_STREAM_DESC_FIRST (e : Nat) : Fld := ⟨(Reg.DECSCHED_STREAM_DESC e), 0, 14⟩
def Fld.DECSCHED_STREAM_IDLE_DL_IDLE_DEADLINE (e : Nat) : Fld := ⟨(Reg.DECSCHED_STREAM_IDLE_DL e), 0, 24⟩
def Fld.DECSCHED_STREAM_STATUS_DRAINED (e : Nat) : Fld := ⟨(Reg.DECSCHED_STREAM_STATUS e), 31, 1⟩
def Fld.DECSCHED_STREAM_STATUS_BIND_CONFLICT (e : Nat) : Fld := ⟨(Reg.DECSCHED_STREAM_STATUS e), 30, 1⟩
def Fld.DECSCHED_STREAM_STATUS_IMPAIRED (e : Nat) : Fld := ⟨(Reg.DECSCHED_STREAM_STATUS e), 29, 1⟩
def Fld.DECSCHED_STREAM_STATUS_SHED_TO_RAP (e : Nat) : Fld := ⟨(Reg.DECSCHED_STREAM_STATUS e), 28, 1⟩
def Fld.DECSCHED_STREAM_STATUS_STATE (e : Nat) : Fld := ⟨(Reg.DECSCHED_STREAM_STATUS e), 16, 3⟩
def Fld.DECSCHED_STREAM_STATUS_LAST_ERR (e : Nat) : Fld := ⟨(Reg.DECSCHED_STREAM_STATUS e), 0, 8⟩
def Fld.DECSCHED_STREAM_LAST_DESC (e : Nat) : Fld := ⟨(Reg.DECSCHED_STREAM_LAST e), 0, 14⟩
def Fld.DECSCHED_STREAM_CNT_COUNT (e i : Nat) : Fld := ⟨(Reg.DECSCHED_STREAM_CNT e i), 0, 32⟩
def Fld.DECSCHED_DESC_INDEX_INDEX (mst : Nat) : Fld := ⟨(Reg.DECSCHED_DESC_INDEX mst), 0, 14⟩
def Fld.DECSCHED_DESC_ADDR_LO_ADDR_LO (e : Nat) : Fld := ⟨(Reg.DECSCHED_DESC_ADDR_LO e), 12, 20⟩
def Fld.DECSCHED_DESC_ADDR_HI_ADDR_HI (e : Nat) : Fld := ⟨(Reg.DECSCHED_DESC_ADDR_HI e), 0, 8⟩
def Fld.DECSCHED_DESC_STATE_STATE (e : Nat) : Fld := ⟨(Reg.DECSCHED_DESC_STATE e), 30, 2⟩
def Fld.DECSCHED_DESC_STATE_HOLD (e : Nat) : Fld := ⟨(Reg.DECSCHED_DESC_STATE e), 20, 10⟩
def Fld.DECSCHED_DESC_STATE_IMPAIRED (e : Nat) : Fld := ⟨(Reg.DECSCHED_DESC_STATE e), 19, 1⟩
def Fld.DECSCHED_DESC_STATE_CONCEALED (e : Nat) : Fld := ⟨(Reg.DECSCHED_DESC_STATE e), 18, 1⟩
def Fld.DECSCHED_DESC_STATE_REF (e : Nat) : Fld := ⟨(Reg.DECSCHED_DESC_STATE e), 17, 1⟩
def Fld.DECSCHED_DESC_STATE_KEEP (e : Nat) : Fld := ⟨(Reg.DECSCHED_DESC_STATE e), 16, 1⟩
def Fld.DECSCHED_DESC_STATE_INCOMPLETE (e : Nat) : Fld := ⟨(Reg.DECSCHED_DESC_STATE e), 15, 1⟩
def Fld.DECSCHED_DESC_STATE_CT_NONE (e : Nat) : Fld := ⟨(Reg.DECSCHED_DESC_STATE e), 14, 1⟩
def Fld.DECSCHED_DESC_STATE_CT_FUTURE (e : Nat) : Fld := ⟨(Reg.DECSCHED_DESC_STATE e), 13, 1⟩
def Fld.DECSCHED_DESC_STATE_STREAM (e : Nat) : Fld := ⟨(Reg.DECSCHED_DESC_STATE e), 0, 11⟩
def Fld.DECSCHED_DESC_CAPT_SEC_SEC (e : Nat) : Fld := ⟨(Reg.DECSCHED_DESC_CAPT_SEC e), 0, 32⟩
def Fld.DECSCHED_DESC_CAPT_NS_NS (e : Nat) : Fld := ⟨(Reg.DECSCHED_DESC_CAPT_NS e), 0, 30⟩
def Fld.DECSCHED_DESC_SIZE_HEIGHT (e : Nat) : Fld := ⟨(Reg.DECSCHED_DESC_SIZE e), 16, 16⟩
def Fld.DECSCHED_DESC_SIZE_WIDTH (e : Nat) : Fld := ⟨(Reg.DECSCHED_DESC_SIZE e), 0, 16⟩
def Fld.DECSCHED_DESC_SIG_SIG (e : Nat) : Fld := ⟨(Reg.DECSCHED_DESC_SIG e), 0, 32⟩
def Fld.DECSCHED_DESC_LIVE_ALIVE (e : Nat) : Fld := ⟨(Reg.DECSCHED_DESC_LIVE e), 16, 16⟩
def Fld.DECSCHED_DESC_LIVE_PRESENT (e : Nat) : Fld := ⟨(Reg.DECSCHED_DESC_LIVE e), 15, 1⟩
def Fld.DECSCHED_DESC_LIVE_SRC_IMPAIRED (e : Nat) : Fld := ⟨(Reg.DECSCHED_DESC_LIVE e), 14, 1⟩
def Fld.DECSCHED_DESC_LIVE_TEST (e : Nat) : Fld := ⟨(Reg.DECSCHED_DESC_LIVE e), 13, 1⟩
def Fld.DECSCHED_DESC_LIVE_REPEAT (e : Nat) : Fld := ⟨(Reg.DECSCHED_DESC_LIVE e), 12, 1⟩
def Fld.DECSCHED_DESC_LIVE_CNT_BITS (e : Nat) : Fld := ⟨(Reg.DECSCHED_DESC_LIVE e), 0, 5⟩
def Fld.DECSCHED_DESC_CMD_KEEP_CLR (e : Nat) : Fld := ⟨(Reg.DECSCHED_DESC_CMD e), 2, 1⟩
def Fld.DECSCHED_DESC_CMD_KEEP_SET (e : Nat) : Fld := ⟨(Reg.DECSCHED_DESC_CMD e), 1, 1⟩
def Fld.DECSCHED_DESC_CMD_FREE (e : Nat) : Fld := ⟨(Reg.DECSCHED_DESC_CMD e), 0, 1⟩
def Fld.DEC_CTRL_EN (n : Nat) : Fld := ⟨(Reg.DEC_CTRL n), 0, 1⟩
def Fld.DEC_STATUS_STATE (n : Nat) : Fld := ⟨(Reg.DEC_STATUS n), 30, 2⟩
def Fld.DEC_STATUS_STREAM (n : Nat) : Fld := ⟨(Reg.DEC_STATUS n), 16, 11⟩
def Fld.DEC_STATUS_QUEUE_JOBS (n : Nat) : Fld := ⟨(Reg.DEC_STATUS n), 8, 8⟩
def Fld.DEC_QUEUE_WORK_WORK (n : Nat) : Fld := ⟨(Reg.DEC_QUEUE_WORK n), 0, 20⟩
def Fld.DEC_BUSY_PERMILLE (n : Nat) : Fld := ⟨(Reg.DEC_BUSY n), 0, 10⟩
def Fld.DEC_CNT_PART_COUNT (n : Nat) : Fld := ⟨(Reg.DEC_CNT_PART n), 0, 32⟩
def Fld.DEC_CNT_STEAL_COUNT (n : Nat) : Fld := ⟨(Reg.DEC_CNT_STEAL n), 0, 32⟩
def Fld.DEC_CNT_SWITCH_COUNT (n : Nat) : Fld := ⟨(Reg.DEC_CNT_SWITCH n), 0, 32⟩
def Fld.DEC_CNT_TIMEOUT_COUNT (n : Nat) : Fld := ⟨(Reg.DEC_CNT_TIMEOUT n), 0, 32⟩
def Fld.FRESH_STATUS_VAULT_DEFAULT : Fld := ⟨Reg.FRESH_STATUS, 3, 1⟩
def Fld.FRESH_STATUS_ARR_B : Fld := ⟨Reg.FRESH_STATUS, 1, 1⟩
def Fld.FRESH_STATUS_ARR_A : Fld := ⟨Reg.FRESH_STATUS, 0, 1⟩
def Fld.FRESH_COMMIT_HEADS : Fld := ⟨Reg.FRESH_COMMIT, 0, 20⟩
def Fld.FRESH_LAST_CHANGE_VALID : Fld := ⟨Reg.FRESH_LAST_CHANGE, 31, 1⟩
def Fld.FRESH_LAST_CHANGE_LAYER : Fld := ⟨Reg.FRESH_LAST_CHANGE, 16, 9⟩
def Fld.FRESH_LAST_CHANGE_OLD : Fld := ⟨Reg.FRESH_LAST_CHANGE, 8, 3⟩
def Fld.FRESH_LAST_CHANGE_NEW : Fld := ⟨Reg.FRESH_LAST_CHANGE, 0, 3⟩
def Fld.FRESH_CHANGE_COUNT_COUNT : Fld := ⟨Reg.FRESH_CHANGE_COUNT, 0, 32⟩
def Fld.FRESH_LAYER_INDEX_INDEX (mst : Nat) : Fld := ⟨(Reg.FRESH_LAYER_INDEX mst), 0, 9⟩
def Fld.FRESH_LAYER_WARN_AGE_WARN (e : Nat) : Fld := ⟨(Reg.FRESH_LAYER_WARN e), 0, 24⟩
def Fld.FRESH_LAYER_LIMIT_AGE_LIMIT (e : Nat) : Fld := ⟨(Reg.FRESH_LAYER_LIMIT e), 0, 24⟩
def Fld.FRESH_LAYER_CFG_PEN_EN (e : Nat) : Fld := ⟨(Reg.FRESH_LAYER_CFG e), 31, 1⟩
def Fld.FRESH_LAYER_CFG_LATE_MARK (e : Nat) : Fld := ⟨(Reg.FRESH_LAYER_CFG e), 30, 1⟩
def Fld.FRESH_LAYER_CFG_EVT_EN (e : Nat) : Fld := ⟨(Reg.FRESH_LAYER_CFG e), 29, 1⟩
def Fld.FRESH_LAYER_CFG_PEN_CORNER (e : Nat) : Fld := ⟨(Reg.FRESH_LAYER_CFG e), 0, 2⟩
def Fld.FRESH_LAYER_HATCH_R (e : Nat) : Fld := ⟨(Reg.FRESH_LAYER_HATCH e), 20, 10⟩
def Fld.FRESH_LAYER_HATCH_G (e : Nat) : Fld := ⟨(Reg.FRESH_LAYER_HATCH e), 10, 10⟩
def Fld.FRESH_LAYER_HATCH_B (e : Nat) : Fld := ⟨(Reg.FRESH_LAYER_HATCH e), 0, 10⟩
def Fld.FRESH_LAYER_STATUS_PHASE (e : Nat) : Fld := ⟨(Reg.FRESH_LAYER_STATUS e), 24, 2⟩
def Fld.FRESH_LAYER_STATUS_AGE_NEG (e : Nat) : Fld := ⟨(Reg.FRESH_LAYER_STATUS e), 23, 1⟩
def Fld.FRESH_LAYER_STATUS_PEN_OVERLAP (e : Nat) : Fld := ⟨(Reg.FRESH_LAYER_STATUS e), 22, 1⟩
def Fld.FRESH_LAYER_STATUS_PEN_SUPPRESSED (e : Nat) : Fld := ⟨(Reg.FRESH_LAYER_STATUS e), 21, 1⟩
def Fld.FRESH_LAYER_STATUS_UNTIMED (e : Nat) : Fld := ⟨(Reg.FRESH_LAYER_STATUS e), 20, 1⟩
def Fld.FRESH_LAYER_STATUS_ARRIVAL (e : Nat) : Fld := ⟨(Reg.FRESH_LAYER_STATUS e), 19, 1⟩
def Fld.FRESH_LAYER_STATUS_SPLIT (e : Nat) : Fld := ⟨(Reg.FRESH_LAYER_STATUS e), 18, 1⟩
def Fld.FRESH_LAYER_STATUS_WORST_LAST (e : Nat) : Fld := ⟨(Reg.FRESH_LAYER_STATUS e), 8, 3⟩
def Fld.FRESH_LAYER_STATUS_WORST (e : Nat) : Fld := ⟨(Reg.FRESH_LAYER_STATUS e), 4, 3⟩
def Fld.FRESH_LAYER_STATUS_STATE (e : Nat) : Fld := ⟨(Reg.FRESH_LAYER_STATUS e), 0, 3⟩
def Fld.FRESH_LAYER_CAUSE_NO_PICTURE (e : Nat) : Fld := ⟨(Reg.FRESH_LAYER_CAUSE e), 9, 1⟩
def Fld.FRESH_LAYER_CAUSE_UNWRITTEN (e : Nat) : Fld := ⟨(Reg.FRESH_LAYER_CAUSE e), 8, 1⟩
def Fld.FRESH_LAYER_CAUSE_SLATE (e : Nat) : Fld := ⟨(Reg.FRESH_LAYER_CAUSE e), 7, 1⟩
def Fld.FRESH_LAYER_CAUSE_DEC_IMPAIRED (e : Nat) : Fld := ⟨(Reg.FRESH_LAYER_CAUSE e), 6, 1⟩
def Fld.FRESH_LAYER_CAUSE_SRC_IMPAIRED (e : Nat) : Fld := ⟨(Reg.FRESH_LAYER_CAUSE e), 5, 1⟩
def Fld.FRESH_LAYER_CAUSE_TEST (e : Nat) : Fld := ⟨(Reg.FRESH_LAYER_CAUSE e), 4, 1⟩
def Fld.FRESH_LAYER_CAUSE_FROZEN_ALIVE (e : Nat) : Fld := ⟨(Reg.FRESH_LAYER_CAUSE e), 3, 1⟩
def Fld.FRESH_LAYER_CAUSE_FROZEN_SIG (e : Nat) : Fld := ⟨(Reg.FRESH_LAYER_CAUSE e), 2, 1⟩
def Fld.FRESH_LAYER_CAUSE_OVER_LIMIT (e : Nat) : Fld := ⟨(Reg.FRESH_LAYER_CAUSE e), 1, 1⟩
def Fld.FRESH_LAYER_CAUSE_OVER_WARN (e : Nat) : Fld := ⟨(Reg.FRESH_LAYER_CAUSE e), 0, 1⟩
def Fld.FRESH_LAYER_AGE_FIRST_AGE (e : Nat) : Fld := ⟨(Reg.FRESH_LAYER_AGE_FIRST e), 0, 32⟩
def Fld.FRESH_LAYER_AGE_LAST_AGE (e : Nat) : Fld := ⟨(Reg.FRESH_LAYER_AGE_LAST e), 0, 32⟩
def Fld.FRESH_LAYER_CNT_HATCH_COUNT (e : Nat) : Fld := ⟨(Reg.FRESH_LAYER_CNT_HATCH e), 0, 32⟩
def Fld.FRESH_STREAM_INDEX_INDEX (mst : Nat) : Fld := ⟨(Reg.FRESH_STREAM_INDEX mst), 0, 11⟩
def Fld.FRESH_STREAM_FREEZE_ALIVE_REQ (e : Nat) : Fld := ⟨(Reg.FRESH_STREAM_FREEZE e), 16, 1⟩
def Fld.FRESH_STREAM_FREEZE_SIG_FREEZE (e : Nat) : Fld := ⟨(Reg.FRESH_STREAM_FREEZE e), 8, 8⟩
def Fld.FRESH_STREAM_FREEZE_ALIVE_HOLD (e : Nat) : Fld := ⟨(Reg.FRESH_STREAM_FREEZE e), 0, 8⟩
def Fld.FRESH_STREAM_STATUS_FROZEN (e : Nat) : Fld := ⟨(Reg.FRESH_STREAM_STATUS e), 31, 1⟩
def Fld.FRESH_STREAM_STATUS_ALIVE_PRESENT (e : Nat) : Fld := ⟨(Reg.FRESH_STREAM_STATUS e), 30, 1⟩
def Fld.FRESH_STREAM_STATUS_SAME_RUN (e : Nat) : Fld := ⟨(Reg.FRESH_STREAM_STATUS e), 8, 8⟩
def Fld.FRESH_STREAM_STATUS_ALIVE_RUN (e : Nat) : Fld := ⟨(Reg.FRESH_STREAM_STATUS e), 0, 8⟩
def Fld.LAYERPOOL_STATUS_CFG_REJECT : Fld := ⟨Reg.LAYERPOOL_STATUS, 31, 1⟩
def Fld.LAYERPOOL_STATUS_OWN_REFUSED : Fld := ⟨Reg.LAYERPOOL_STATUS, 30, 1⟩
def Fld.LAYERPOOL_STATUS_FREE : Fld := ⟨Reg.LAYERPOOL_STATUS, 0, 9⟩
def Fld.LAYERPOOL_COMMIT_HEADS : Fld := ⟨Reg.LAYERPOOL_COMMIT, 0, 20⟩
def Fld.LAYERPOOL_GEOM_REJECT_HEADS : Fld := ⟨Reg.LAYERPOOL_GEOM_REJECT, 0, 20⟩
def Fld.LAYERPOOL_GEOM_CAUSE_VALID : Fld := ⟨Reg.LAYERPOOL_GEOM_CAUSE, 31, 1⟩
def Fld.LAYERPOOL_GEOM_CAUSE_HEAD : Fld := ⟨Reg.LAYERPOOL_GEOM_CAUSE, 16, 5⟩
def Fld.LAYERPOOL_GEOM_CAUSE_SLOT : Fld := ⟨Reg.LAYERPOOL_GEOM_CAUSE, 4, 9⟩
def Fld.LAYERPOOL_GEOM_CAUSE_CAUSE : Fld := ⟨Reg.LAYERPOOL_GEOM_CAUSE, 0, 4⟩
def Fld.LAYERPOOL_CSC_A_C0 (i j : Nat) : Fld := ⟨(Reg.LAYERPOOL_CSC_A i j), 16, 16⟩
def Fld.LAYERPOOL_CSC_A_C1 (i j : Nat) : Fld := ⟨(Reg.LAYERPOOL_CSC_A i j), 0, 16⟩
def Fld.LAYERPOOL_CSC_B_C2 (i j : Nat) : Fld := ⟨(Reg.LAYERPOOL_CSC_B i j), 16, 16⟩
def Fld.LAYERPOOL_CSC_B_OFS (i j : Nat) : Fld := ⟨(Reg.LAYERPOOL_CSC_B i j), 0, 13⟩
def Fld.LAYER_OWN_ASSIGNED (i : Nat) : Fld := ⟨(Reg.LAYER_OWN i), 31, 1⟩
def Fld.LAYER_OWN_OWNER (i : Nat) : Fld := ⟨(Reg.LAYER_OWN i), 0, 5⟩
def Fld.LAYER_CTRL_EN (i : Nat) : Fld := ⟨(Reg.LAYER_CTRL i), 31, 1⟩
def Fld.LAYER_CTRL_KIND (i : Nat) : Fld := ⟨(Reg.LAYER_CTRL i), 28, 2⟩
def Fld.LAYER_CTRL_CHASE (i : Nat) : Fld := ⟨(Reg.LAYER_CTRL i), 27, 1⟩
def Fld.LAYER_CTRL_FILTER (i : Nat) : Fld := ⟨(Reg.LAYER_CTRL i), 26, 1⟩
def Fld.LAYER_CTRL_BLEND (i : Nat) : Fld := ⟨(Reg.LAYER_CTRL i), 24, 2⟩
def Fld.LAYER_CTRL_Z (i : Nat) : Fld := ⟨(Reg.LAYER_CTRL i), 16, 5⟩
def Fld.LAYER_CTRL_STREAM (i : Nat) : Fld := ⟨(Reg.LAYER_CTRL i), 0, 11⟩
def Fld.LAYER_DST_POS_DST_Y (i : Nat) : Fld := ⟨(Reg.LAYER_DST_POS i), 16, 16⟩
def Fld.LAYER_DST_POS_DST_X (i : Nat) : Fld := ⟨(Reg.LAYER_DST_POS i), 0, 16⟩
def Fld.LAYER_DST_SIZE_DST_H (i : Nat) : Fld := ⟨(Reg.LAYER_DST_SIZE i), 16, 16⟩
def Fld.LAYER_DST_SIZE_DST_W (i : Nat) : Fld := ⟨(Reg.LAYER_DST_SIZE i), 0, 16⟩
def Fld.LAYER_SRC_POS_SRC_Y (i : Nat) : Fld := ⟨(Reg.LAYER_SRC_POS i), 16, 16⟩
def Fld.LAYER_SRC_POS_SRC_X (i : Nat) : Fld := ⟨(Reg.LAYER_SRC_POS i), 0, 16⟩
def Fld.LAYER_SRC_SIZE_SRC_H (i : Nat) : Fld := ⟨(Reg.LAYER_SRC_SIZE i), 16, 16⟩
def Fld.LAYER_SRC_SIZE_SRC_W (i : Nat) : Fld := ⟨(Reg.LAYER_SRC_SIZE i), 0, 16⟩
def Fld.LAYER_FMT_FORMAT (i : Nat) : Fld := ⟨(Reg.LAYER_FMT i), 28, 4⟩
def Fld.LAYER_FMT_PRESET (i : Nat) : Fld := ⟨(Reg.LAYER_FMT i), 24, 4⟩
def Fld.LAYER_FMT_CSC_SET (i : Nat) : Fld := ⟨(Reg.LAYER_FMT i), 16, 6⟩
def Fld.LAYER_FMT_PITCH (i : Nat) : Fld := ⟨(Reg.LAYER_FMT i), 0, 16⟩
def Fld.LAYER_ADDR0_ADDR_LO (i : Nat) : Fld := ⟨(Reg.LAYER_ADDR0 i), 6, 26⟩
def Fld.LAYER_ADDR1_ADDR_LO (i : Nat) : Fld := ⟨(Reg.LAYER_ADDR1 i), 6, 26⟩
def Fld.LAYER_ADDR_HI_ADDR1_HI (i : Nat) : Fld := ⟨(Reg.LAYER_ADDR_HI i), 8, 8⟩
def Fld.LAYER_ADDR_HI_ADDR0_HI (i : Nat) : Fld := ⟨(Reg.LAYER_ADDR_HI i), 0, 8⟩
def Fld.LAYER_ALPHA_GLOBAL_ALPHA (i : Nat) : Fld := ⟨(Reg.LAYER_ALPHA i), 16, 10⟩
def Fld.LAYER_ALPHA_LEAD_LINES (i : Nat) : Fld := ⟨(Reg.LAYER_ALPHA i), 0, 5⟩
def Fld.LAYER_SOLID_R (i : Nat) : Fld := ⟨(Reg.LAYER_SOLID i), 20, 10⟩
def Fld.LAYER_SOLID_G (i : Nat) : Fld := ⟨(Reg.LAYER_SOLID i), 10, 10⟩
def Fld.LAYER_SOLID_B (i : Nat) : Fld := ⟨(Reg.LAYER_SOLID i), 0, 10⟩
def Fld.LAYER_STATUS_NOT_READY (i : Nat) : Fld := ⟨(Reg.LAYER_STATUS i), 31, 1⟩
def Fld.LAYER_STATUS_LEASE_WAIT (i : Nat) : Fld := ⟨(Reg.LAYER_STATUS i), 30, 1⟩
def Fld.LAYER_STATUS_CROP_OUT (i : Nat) : Fld := ⟨(Reg.LAYER_STATUS i), 29, 1⟩
def Fld.LAYER_STATUS_Z_TIE (i : Nat) : Fld := ⟨(Reg.LAYER_STATUS i), 28, 1⟩
def Fld.LAYER_STATUS_LEASED (i : Nat) : Fld := ⟨(Reg.LAYER_STATUS i), 26, 1⟩
def Fld.LAYER_STATUS_LEASE_IDX (i : Nat) : Fld := ⟨(Reg.LAYER_STATUS i), 16, 10⟩
def Fld.LAYER_STATUS_DESC (i : Nat) : Fld := ⟨(Reg.LAYER_STATUS i), 0, 14⟩
def Fld.LAYER_CNT_NOT_READY_COUNT (i : Nat) : Fld := ⟨(Reg.LAYER_CNT_NOT_READY i), 0, 32⟩
def Fld.LEASE_STATUS_FULL : Fld := ⟨Reg.LEASE_STATUS, 31, 1⟩
def Fld.LEASE_STATUS_ACTIVE : Fld := ⟨Reg.LEASE_STATUS, 0, 11⟩
def Fld.LEASE_VIOL_ADDR_LO_ADDR_LO : Fld := ⟨Reg.LEASE_VIOL_ADDR_LO, 0, 32⟩
def Fld.LEASE_VIOL_ADDR_HI_ADDR_HI : Fld := ⟨Reg.LEASE_VIOL_ADDR_HI, 0, 8⟩
def Fld.LEASE_VIOL_INFO_VALID : Fld := ⟨Reg.LEASE_VIOL_INFO, 31, 1⟩
def Fld.LEASE_VIOL_INFO_MASTER : Fld := ⟨Reg.LEASE_VIOL_INFO, 16, 8⟩
def Fld.LEASE_VIOL_INFO_HEAD : Fld := ⟨Reg.LEASE_VIOL_INFO, 10, 5⟩
def Fld.LEASE_VIOL_INFO_ENTRY : Fld := ⟨Reg.LEASE_VIOL_INFO, 0, 10⟩
def Fld.LEASE_VIOL_COUNT_COUNT : Fld := ⟨Reg.LEASE_VIOL_COUNT, 0, 32⟩
def Fld.LEASE_ENDED_VALID : Fld := ⟨Reg.LEASE_ENDED, 31, 1⟩
def Fld.LEASE_ENDED_OVERFLOW : Fld := ⟨Reg.LEASE_ENDED, 30, 1⟩
def Fld.LEASE_ENDED_HEAD : Fld := ⟨Reg.LEASE_ENDED, 20, 5⟩
def Fld.LEASE_ENDED_PLANE : Fld := ⟨Reg.LEASE_ENDED, 19, 1⟩
def Fld.LEASE_ENDED_LAYER : Fld := ⟨Reg.LEASE_ENDED, 0, 9⟩
def Fld.LEASE_ENTRY_INDEX_INDEX (mst : Nat) : Fld := ⟨(Reg.LEASE_ENTRY_INDEX mst), 0, 10⟩
def Fld.LEASE_ENTRY_START_START_LO (e : Nat) : Fld := ⟨(Reg.LEASE_ENTRY_START e), 0, 32⟩
def Fld.LEASE_ENTRY_END_END_LO (e : Nat) : Fld := ⟨(Reg.LEASE_ENTRY_END e), 0, 32⟩
def Fld.LEASE_ENTRY_HI_END_HI (e : Nat) : Fld := ⟨(Reg.LEASE_ENTRY_HI e), 8, 8⟩
def Fld.LEASE_ENTRY_HI_START_HI (e : Nat) : Fld := ⟨(Reg.LEASE_ENTRY_HI e), 0, 8⟩
def Fld.LEASE_ENTRY_INFO_VALID (e : Nat) : Fld := ⟨(Reg.LEASE_ENTRY_INFO e), 31, 1⟩
def Fld.LEASE_ENTRY_INFO_HEAD (e : Nat) : Fld := ⟨(Reg.LEASE_ENTRY_INFO e), 20, 5⟩
def Fld.LEASE_ENTRY_INFO_PLANE (e : Nat) : Fld := ⟨(Reg.LEASE_ENTRY_INFO e), 19, 1⟩
def Fld.LEASE_ENTRY_INFO_LAYER (e : Nat) : Fld := ⟨(Reg.LEASE_ENTRY_INFO e), 0, 9⟩
def Fld.HEAD_CTRL_EN (n : Nat) : Fld := ⟨(Reg.HEAD_CTRL n), 31, 1⟩
def Fld.HEAD_CTRL_SLATE_FORCE (n : Nat) : Fld := ⟨(Reg.HEAD_CTRL n), 30, 1⟩
def Fld.HEAD_CTRL_PUSH_EN (n : Nat) : Fld := ⟨(Reg.HEAD_CTRL n), 1, 1⟩
def Fld.HEAD_CTRL_MODE (n : Nat) : Fld := ⟨(Reg.HEAD_CTRL n), 0, 1⟩
def Fld.HEAD_STATUS_CFG_REJECT (n : Nat) : Fld := ⟨(Reg.HEAD_STATUS n), 31, 1⟩
def Fld.HEAD_STATUS_TIMING_REJECT (n : Nat) : Fld := ⟨(Reg.HEAD_STATUS n), 30, 1⟩
def Fld.HEAD_STATUS_COMMIT_LATE (n : Nat) : Fld := ⟨(Reg.HEAD_STATUS n), 29, 1⟩
def Fld.HEAD_STATUS_LOCK_LOST (n : Nat) : Fld := ⟨(Reg.HEAD_STATUS n), 28, 1⟩
def Fld.HEAD_STATUS_TE_LOST (n : Nat) : Fld := ⟨(Reg.HEAD_STATUS n), 27, 1⟩
def Fld.HEAD_STATUS_TIMING_CAUSE (n : Nat) : Fld := ⟨(Reg.HEAD_STATUS n), 20, 4⟩
def Fld.HEAD_STATUS_SLATE (n : Nat) : Fld := ⟨(Reg.HEAD_STATUS n), 7, 1⟩
def Fld.HEAD_STATUS_FS_NONE (n : Nat) : Fld := ⟨(Reg.HEAD_STATUS n), 6, 1⟩
def Fld.HEAD_STATUS_COMMIT_PENDING (n : Nat) : Fld := ⟨(Reg.HEAD_STATUS n), 5, 1⟩
def Fld.HEAD_STATUS_PANIC (n : Nat) : Fld := ⟨(Reg.HEAD_STATUS n), 4, 1⟩
def Fld.HEAD_STATUS_LOCK (n : Nat) : Fld := ⟨(Reg.HEAD_STATUS n), 2, 2⟩
def Fld.HEAD_STATUS_SCANNING (n : Nat) : Fld := ⟨(Reg.HEAD_STATUS n), 1, 1⟩
def Fld.HEAD_STATUS_LINK_UP (n : Nat) : Fld := ⟨(Reg.HEAD_STATUS n), 0, 1⟩
def Fld.HEAD_LATCH_COMMIT_GUARD (n : Nat) : Fld := ⟨(Reg.HEAD_LATCH n), 16, 4⟩
def Fld.HEAD_LATCH_LATCH_LINE (n : Nat) : Fld := ⟨(Reg.HEAD_LATCH n), 0, 13⟩
def Fld.HEAD_LINE_MATCH_LINE (n : Nat) : Fld := ⟨(Reg.HEAD_LINE_MATCH n), 0, 13⟩
def Fld.HEAD_COMMIT_TAG (n : Nat) : Fld := ⟨(Reg.HEAD_COMMIT n), 16, 16⟩
def Fld.HEAD_COMMIT_GO (n : Nat) : Fld := ⟨(Reg.HEAD_COMMIT n), 0, 1⟩
def Fld.HEAD_LATCHED_TAG (n : Nat) : Fld := ⟨(Reg.HEAD_LATCHED n), 16, 16⟩
def Fld.HEAD_POSITION_FRAME (n : Nat) : Fld := ⟨(Reg.HEAD_POSITION n), 16, 16⟩
def Fld.HEAD_POSITION_LINE (n : Nat) : Fld := ⟨(Reg.HEAD_POSITION n), 0, 13⟩
def Fld.HEAD_HTIME_A_HACTIVE (n : Nat) : Fld := ⟨(Reg.HEAD_HTIME_A n), 16, 14⟩
def Fld.HEAD_HTIME_A_HFP (n : Nat) : Fld := ⟨(Reg.HEAD_HTIME_A n), 0, 14⟩
def Fld.HEAD_HTIME_B_HSYNC (n : Nat) : Fld := ⟨(Reg.HEAD_HTIME_B n), 16, 14⟩
def Fld.HEAD_HTIME_B_HBP (n : Nat) : Fld := ⟨(Reg.HEAD_HTIME_B n), 0, 14⟩
def Fld.HEAD_VTIME_A_VACTIVE (n : Nat) : Fld := ⟨(Reg.HEAD_VTIME_A n), 16, 13⟩
def Fld.HEAD_VTIME_A_VFP (n : Nat) : Fld := ⟨(Reg.HEAD_VTIME_A n), 0, 13⟩
def Fld.HEAD_VTIME_B_VSYNC (n : Nat) : Fld := ⟨(Reg.HEAD_VTIME_B n), 16, 13⟩
def Fld.HEAD_VTIME_B_VBP (n : Nat) : Fld := ⟨(Reg.HEAD_VTIME_B n), 0, 13⟩
def Fld.HEAD_FRATE_FR_NUM (n : Nat) : Fld := ⟨(Reg.HEAD_FRATE n), 12, 20⟩
def Fld.HEAD_FRATE_FR_DEN (n : Nat) : Fld := ⟨(Reg.HEAD_FRATE n), 0, 12⟩
def Fld.HEAD_OUT_FMT_VSYNC_POL (n : Nat) : Fld := ⟨(Reg.HEAD_OUT_FMT n), 5, 1⟩
def Fld.HEAD_OUT_FMT_HSYNC_POL (n : Nat) : Fld := ⟨(Reg.HEAD_OUT_FMT n), 4, 1⟩
def Fld.HEAD_OUT_FMT_ENC (n : Nat) : Fld := ⟨(Reg.HEAD_OUT_FMT n), 3, 1⟩
def Fld.HEAD_OUT_FMT_DEPTH (n : Nat) : Fld := ⟨(Reg.HEAD_OUT_FMT n), 0, 3⟩
def Fld.HEAD_LOCK_CTRL_SRC (n : Nat) : Fld := ⟨(Reg.HEAD_LOCK_CTRL n), 30, 2⟩
def Fld.HEAD_LOCK_CTRL_VADJ_MAX (n : Nat) : Fld := ⟨(Reg.HEAD_LOCK_CTRL n), 16, 8⟩
def Fld.HEAD_LOCK_CTRL_SLEW (n : Nat) : Fld := ⟨(Reg.HEAD_LOCK_CTRL n), 0, 9⟩
def Fld.HEAD_LOCK_PHASE_PHASE (n : Nat) : Fld := ⟨(Reg.HEAD_LOCK_PHASE n), 0, 30⟩
def Fld.HEAD_LOCK_ERR_ERR (n : Nat) : Fld := ⟨(Reg.HEAD_LOCK_ERR n), 0, 32⟩
def Fld.HEAD_PIPE_DELAY_DELAY (n : Nat) : Fld := ⟨(Reg.HEAD_PIPE_DELAY n), 0, 16⟩
def Fld.HEAD_BG_R (n : Nat) : Fld := ⟨(Reg.HEAD_BG n), 20, 10⟩
def Fld.HEAD_BG_G (n : Nat) : Fld := ⟨(Reg.HEAD_BG n), 10, 10⟩
def Fld.HEAD_BG_B (n : Nat) : Fld := ⟨(Reg.HEAD_BG n), 0, 10⟩
def Fld.HEAD_OCSC_PRESET_PRESET (n : Nat) : Fld := ⟨(Reg.HEAD_OCSC_PRESET n), 0, 4⟩
def Fld.HEAD_OCSC_A_C0 (n i : Nat) : Fld := ⟨(Reg.HEAD_OCSC_A n i), 16, 16⟩
def Fld.HEAD_OCSC_A_C1 (n i : Nat) : Fld := ⟨(Reg.HEAD_OCSC_A n i), 0, 16⟩
def Fld.HEAD_OCSC_B_C2 (n i : Nat) : Fld := ⟨(Reg.HEAD_OCSC_B n i), 16, 16⟩
def Fld.HEAD_OCSC_B_OFS (n i : Nat) : Fld := ⟨(Reg.HEAD_OCSC_B n i), 0, 13⟩
def Fld.HEAD_FS_ADDR_EN (n : Nat) : Fld := ⟨(Reg.HEAD_FS_ADDR n), 31, 1⟩
def Fld.HEAD_FS_ADDR_OFS (n : Nat) : Fld := ⟨(Reg.HEAD_FS_ADDR n), 6, 21⟩
def Fld.HEAD_SLATE_ADDR_EN (n : Nat) : Fld := ⟨(Reg.HEAD_SLATE_ADDR n), 31, 1⟩
def Fld.HEAD_SLATE_ADDR_OFS (n : Nat) : Fld := ⟨(Reg.HEAD_SLATE_ADDR n), 6, 21⟩
def Fld.HEAD_SLATE_SIZE_SLATE_H (n : Nat) : Fld := ⟨(Reg.HEAD_SLATE_SIZE n), 16, 13⟩
def Fld.HEAD_SLATE_SIZE_SLATE_W (n : Nat) : Fld := ⟨(Reg.HEAD_SLATE_SIZE n), 0, 13⟩
def Fld.HEAD_TOL_TOL (n : Nat) : Fld := ⟨(Reg.HEAD_TOL n), 0, 32⟩
def Fld.HEAD_FETCH_PANIC_Q4 (n : Nat) : Fld := ⟨(Reg.HEAD_FETCH n), 8, 5⟩
def Fld.HEAD_FETCH_AHEAD (n : Nat) : Fld := ⟨(Reg.HEAD_FETCH n), 0, 4⟩
def Fld.HEAD_UNDERRUN_CNT_COUNT (n : Nat) : Fld := ⟨(Reg.HEAD_UNDERRUN_CNT n), 0, 32⟩
def Fld.HEAD_UNDERRUN_FIRST_VALID (n : Nat) : Fld := ⟨(Reg.HEAD_UNDERRUN_FIRST n), 31, 1⟩
def Fld.HEAD_UNDERRUN_FIRST_LINE (n : Nat) : Fld := ⟨(Reg.HEAD_UNDERRUN_FIRST n), 16, 13⟩
def Fld.HEAD_UNDERRUN_FIRST_PIXEL (n : Nat) : Fld := ⟨(Reg.HEAD_UNDERRUN_FIRST n), 0, 13⟩
def Fld.HEAD_PUSH_BAND (n : Nat) : Fld := ⟨(Reg.HEAD_PUSH n), 16, 2⟩
def Fld.HEAD_PUSH_FULL_EVERY (n : Nat) : Fld := ⟨(Reg.HEAD_PUSH n), 8, 8⟩
def Fld.HEAD_PUSH_PSR_ENTRY (n : Nat) : Fld := ⟨(Reg.HEAD_PUSH n), 0, 4⟩
def Fld.HEAD_PUSH_STATUS_PSR_STATE (n : Nat) : Fld := ⟨(Reg.HEAD_PUSH_STATUS n), 30, 2⟩
def Fld.HEAD_PUSH_STATUS_LAST (n : Nat) : Fld := ⟨(Reg.HEAD_PUSH_STATUS n), 16, 13⟩
def Fld.HEAD_PUSH_STATUS_FIRST (n : Nat) : Fld := ⟨(Reg.HEAD_PUSH_STATUS n), 0, 13⟩
def Fld.HEAD_FRAME_CRC_CRC (n : Nat) : Fld := ⟨(Reg.HEAD_FRAME_CRC n), 0, 32⟩
def Fld.HEAD_CW_STATUS_STICKY (n : Nat) : Fld := ⟨(Reg.HEAD_CW_STATUS n), 16, 16⟩
def Fld.HEAD_CW_STATUS_MISMATCH (n : Nat) : Fld := ⟨(Reg.HEAD_CW_STATUS n), 0, 16⟩
def Fld.HEAD_CW_POS_MODE (n i : Nat) : Fld := ⟨(Reg.HEAD_CW_POS n i), 30, 2⟩
def Fld.HEAD_CW_POS_Y (n i : Nat) : Fld := ⟨(Reg.HEAD_CW_POS n i), 16, 13⟩
def Fld.HEAD_CW_POS_X (n i : Nat) : Fld := ⟨(Reg.HEAD_CW_POS n i), 0, 13⟩
def Fld.HEAD_CW_SIZE_H (n i : Nat) : Fld := ⟨(Reg.HEAD_CW_SIZE n i), 16, 13⟩
def Fld.HEAD_CW_SIZE_W (n i : Nat) : Fld := ⟨(Reg.HEAD_CW_SIZE n i), 0, 13⟩
def Fld.HEAD_CW_EXPECT_EXPECT (n i : Nat) : Fld := ⟨(Reg.HEAD_CW_EXPECT n i), 0, 32⟩
def Fld.HEAD_CW_RESULT_RESULT (n i : Nat) : Fld := ⟨(Reg.HEAD_CW_RESULT n i), 0, 32⟩
def Fld.HEAD_DP_CTRL_TRAIN (n : Nat) : Fld := ⟨(Reg.HEAD_DP_CTRL n), 31, 1⟩
def Fld.HEAD_DP_CTRL_AUTO_RETRAIN (n : Nat) : Fld := ⟨(Reg.HEAD_DP_CTRL n), 30, 1⟩
def Fld.HEAD_DP_CTRL_SSC (n : Nat) : Fld := ⟨(Reg.HEAD_DP_CTRL n), 29, 1⟩
def Fld.HEAD_DP_CTRL_LANES (n : Nat) : Fld := ⟨(Reg.HEAD_DP_CTRL n), 4, 2⟩
def Fld.HEAD_DP_CTRL_RATE (n : Nat) : Fld := ⟨(Reg.HEAD_DP_CTRL n), 0, 3⟩
def Fld.HEAD_DP_STATUS_HPD (n : Nat) : Fld := ⟨(Reg.HEAD_DP_STATUS n), 31, 1⟩
def Fld.HEAD_DP_STATUS_IRQ_HPD (n : Nat) : Fld := ⟨(Reg.HEAD_DP_STATUS n), 30, 1⟩
def Fld.HEAD_DP_STATUS_UNPLUG (n : Nat) : Fld := ⟨(Reg.HEAD_DP_STATUS n), 29, 1⟩
def Fld.HEAD_DP_STATUS_TRAIN_FAIL (n : Nat) : Fld := ⟨(Reg.HEAD_DP_STATUS n), 28, 1⟩
def Fld.HEAD_DP_STATUS_TRAIN_BUSY (n : Nat) : Fld := ⟨(Reg.HEAD_DP_STATUS n), 27, 1⟩
def Fld.HEAD_DP_STATUS_TRAINED (n : Nat) : Fld := ⟨(Reg.HEAD_DP_STATUS n), 26, 1⟩
def Fld.HEAD_DP_STATUS_PSR_CAP (n : Nat) : Fld := ⟨(Reg.HEAD_DP_STATUS n), 25, 1⟩
def Fld.HEAD_DP_STATUS_PSR2_CAP (n : Nat) : Fld := ⟨(Reg.HEAD_DP_STATUS n), 24, 1⟩
def Fld.HEAD_DP_STATUS_LANES_ACT (n : Nat) : Fld := ⟨(Reg.HEAD_DP_STATUS n), 4, 2⟩
def Fld.HEAD_DP_STATUS_RATE_ACT (n : Nat) : Fld := ⟨(Reg.HEAD_DP_STATUS n), 0, 3⟩
def Fld.HEAD_AUX_CTRL_GO (n : Nat) : Fld := ⟨(Reg.HEAD_AUX_CTRL n), 31, 1⟩
def Fld.HEAD_AUX_CTRL_CMD (n : Nat) : Fld := ⟨(Reg.HEAD_AUX_CTRL n), 24, 4⟩
def Fld.HEAD_AUX_CTRL_LEN (n : Nat) : Fld := ⟨(Reg.HEAD_AUX_CTRL n), 20, 4⟩
def Fld.HEAD_AUX_CTRL_ADDR (n : Nat) : Fld := ⟨(Reg.HEAD_AUX_CTRL n), 0, 20⟩
def Fld.HEAD_AUX_STATUS_BUSY (n : Nat) : Fld := ⟨(Reg.HEAD_AUX_STATUS n), 31, 1⟩
def Fld.HEAD_AUX_STATUS_DONE (n : Nat) : Fld := ⟨(Reg.HEAD_AUX_STATUS n), 30, 1⟩
def Fld.HEAD_AUX_STATUS_REPLY (n : Nat) : Fld := ⟨(Reg.HEAD_AUX_STATUS n), 28, 2⟩
def Fld.HEAD_AUX_STATUS_COUNT (n : Nat) : Fld := ⟨(Reg.HEAD_AUX_STATUS n), 0, 5⟩
def Fld.HEAD_AUX_DATA_DATA (n i : Nat) : Fld := ⟨(Reg.HEAD_AUX_DATA n i), 0, 32⟩
def Fld.HEAD_DSI_CTRL_PANEL_RST (n : Nat) : Fld := ⟨(Reg.HEAD_DSI_CTRL n), 31, 1⟩
def Fld.HEAD_DSI_CTRL_TE_SYNC (n : Nat) : Fld := ⟨(Reg.HEAD_DSI_CTRL n), 30, 1⟩
def Fld.HEAD_DSI_CTRL_TE_POL (n : Nat) : Fld := ⟨(Reg.HEAD_DSI_CTRL n), 29, 1⟩
def Fld.HEAD_DSI_CTRL_TE_DELAY (n : Nat) : Fld := ⟨(Reg.HEAD_DSI_CTRL n), 16, 8⟩
def Fld.HEAD_DSI_CTRL_LANE_RATE (n : Nat) : Fld := ⟨(Reg.HEAD_DSI_CTRL n), 0, 12⟩
def Fld.HEAD_DSI_CMD_GO (n : Nat) : Fld := ⟨(Reg.HEAD_DSI_CMD n), 31, 1⟩
def Fld.HEAD_DSI_CMD_LP (n : Nat) : Fld := ⟨(Reg.HEAD_DSI_CMD n), 30, 1⟩
def Fld.HEAD_DSI_CMD_DT (n : Nat) : Fld := ⟨(Reg.HEAD_DSI_CMD n), 24, 6⟩
def Fld.HEAD_DSI_CMD_LEN (n : Nat) : Fld := ⟨(Reg.HEAD_DSI_CMD n), 16, 7⟩
def Fld.HEAD_DSI_CMD_STATUS_BUSY (n : Nat) : Fld := ⟨(Reg.HEAD_DSI_CMD_STATUS n), 31, 1⟩
def Fld.HEAD_DSI_CMD_STATUS_DONE (n : Nat) : Fld := ⟨(Reg.HEAD_DSI_CMD_STATUS n), 30, 1⟩
def Fld.HEAD_DSI_CMD_STATUS_ERR (n : Nat) : Fld := ⟨(Reg.HEAD_DSI_CMD_STATUS n), 29, 1⟩
def Fld.HEAD_DSI_CMD_STATUS_RD_LEN (n : Nat) : Fld := ⟨(Reg.HEAD_DSI_CMD_STATUS n), 16, 7⟩
def Fld.HEAD_DSI_CMD_STATUS_ERR_REPORT (n : Nat) : Fld := ⟨(Reg.HEAD_DSI_CMD_STATUS n), 0, 16⟩
def Fld.HEAD_DSI_DATA_DATA (n i : Nat) : Fld := ⟨(Reg.HEAD_DSI_DATA n i), 0, 32⟩
def Fld.ENCSCHED_CTRL_EN : Fld := ⟨Reg.ENCSCHED_CTRL, 0, 1⟩
def Fld.ENCSCHED_STATUS_CFG_REJECT : Fld := ⟨Reg.ENCSCHED_STATUS, 31, 1⟩
def Fld.ENCSCHED_STATUS_LOAD : Fld := ⟨Reg.ENCSCHED_STATUS, 0, 8⟩
def Fld.ENCSCHED_STREAM_INDEX_INDEX (mst : Nat) : Fld := ⟨(Reg.ENCSCHED_STREAM_INDEX mst), 0, 5⟩
def Fld.ENCSCHED_STREAM_CTRL_EN (e : Nat) : Fld := ⟨(Reg.ENCSCHED_STREAM_CTRL e), 31, 1⟩
def Fld.ENCSCHED_STREAM_CTRL_ERR_EVT (e : Nat) : Fld := ⟨(Reg.ENCSCHED_STREAM_CTRL e), 30, 1⟩
def Fld.ENCSCHED_STREAM_CTRL_CODEC (e : Nat) : Fld := ⟨(Reg.ENCSCHED_STREAM_CTRL e), 28, 2⟩
def Fld.ENCSCHED_STREAM_CTRL_SRC_KIND (e : Nat) : Fld := ⟨(Reg.ENCSCHED_STREAM_CTRL e), 27, 1⟩
def Fld.ENCSCHED_STREAM_CTRL_MAX_CELLS (e : Nat) : Fld := ⟨(Reg.ENCSCHED_STREAM_CTRL e), 24, 3⟩
def Fld.ENCSCHED_STREAM_CTRL_SCALE (e : Nat) : Fld := ⟨(Reg.ENCSCHED_STREAM_CTRL e), 22, 2⟩
def Fld.ENCSCHED_STREAM_CTRL_CT_DOM (e : Nat) : Fld := ⟨(Reg.ENCSCHED_STREAM_CTRL e), 20, 1⟩
def Fld.ENCSCHED_STREAM_CTRL_DIV (e : Nat) : Fld := ⟨(Reg.ENCSCHED_STREAM_CTRL e), 16, 4⟩
def Fld.ENCSCHED_STREAM_CTRL_SESSION (e : Nat) : Fld := ⟨(Reg.ENCSCHED_STREAM_CTRL e), 0, 12⟩
def Fld.ENCSCHED_STREAM_SRC_SRC (e : Nat) : Fld := ⟨(Reg.ENCSCHED_STREAM_SRC e), 0, 11⟩
def Fld.ENCSCHED_STREAM_CROP_POS_CROP_Y (e : Nat) : Fld := ⟨(Reg.ENCSCHED_STREAM_CROP_POS e), 16, 13⟩
def Fld.ENCSCHED_STREAM_CROP_POS_CROP_X (e : Nat) : Fld := ⟨(Reg.ENCSCHED_STREAM_CROP_POS e), 0, 13⟩
def Fld.ENCSCHED_STREAM_CROP_SIZE_CROP_H (e : Nat) : Fld := ⟨(Reg.ENCSCHED_STREAM_CROP_SIZE e), 16, 14⟩
def Fld.ENCSCHED_STREAM_CROP_SIZE_CROP_W (e : Nat) : Fld := ⟨(Reg.ENCSCHED_STREAM_CROP_SIZE e), 0, 14⟩
def Fld.ENCSCHED_STREAM_GOP_LEVEL (e : Nat) : Fld := ⟨(Reg.ENCSCHED_STREAM_GOP e), 24, 8⟩
def Fld.ENCSCHED_STREAM_GOP_SRC_SLOTS (e : Nat) : Fld := ⟨(Reg.ENCSCHED_STREAM_GOP e), 16, 2⟩
def Fld.ENCSCHED_STREAM_GOP_SLOTS4 (e : Nat) : Fld := ⟨(Reg.ENCSCHED_STREAM_GOP e), 15, 1⟩
def Fld.ENCSCHED_STREAM_GOP_SLICE_ROWS (e : Nat) : Fld := ⟨(Reg.ENCSCHED_STREAM_GOP e), 8, 7⟩
def Fld.ENCSCHED_STREAM_IDR_IDR_INTERVAL (e : Nat) : Fld := ⟨(Reg.ENCSCHED_STREAM_IDR e), 0, 16⟩
def Fld.ENCSCHED_STREAM_RC_MODE (e : Nat) : Fld := ⟨(Reg.ENCSCHED_STREAM_RC e), 31, 1⟩
def Fld.ENCSCHED_STREAM_RC_QP_MAX (e : Nat) : Fld := ⟨(Reg.ENCSCHED_STREAM_RC e), 24, 6⟩
def Fld.ENCSCHED_STREAM_RC_QP_MIN (e : Nat) : Fld := ⟨(Reg.ENCSCHED_STREAM_RC e), 16, 6⟩
def Fld.ENCSCHED_STREAM_RC_QP_I (e : Nat) : Fld := ⟨(Reg.ENCSCHED_STREAM_RC e), 8, 6⟩
def Fld.ENCSCHED_STREAM_RC_QP_P (e : Nat) : Fld := ⟨(Reg.ENCSCHED_STREAM_RC e), 0, 6⟩
def Fld.ENCSCHED_STREAM_RATE_CAP (e : Nat) : Fld := ⟨(Reg.ENCSCHED_STREAM_RATE e), 28, 4⟩
def Fld.ENCSCHED_STREAM_RATE_BITRATE (e : Nat) : Fld := ⟨(Reg.ENCSCHED_STREAM_RATE e), 0, 24⟩
def Fld.ENCSCHED_STREAM_CPB_CPB_SIZE (e : Nat) : Fld := ⟨(Reg.ENCSCHED_STREAM_CPB e), 0, 24⟩
def Fld.ENCSCHED_STREAM_BUF_BASE (e : Nat) : Fld := ⟨(Reg.ENCSCHED_STREAM_BUF e), 8, 24⟩
def Fld.ENCSCHED_STREAM_BUF_SIZE (e : Nat) : Fld := ⟨(Reg.ENCSCHED_STREAM_BUF e), 0, 8⟩
def Fld.ENCSCHED_STREAM_TX_MTU (e : Nat) : Fld := ⟨(Reg.ENCSCHED_STREAM_TX e), 16, 14⟩
def Fld.ENCSCHED_STREAM_TX_DSCP (e : Nat) : Fld := ⟨(Reg.ENCSCHED_STREAM_TX e), 10, 6⟩
def Fld.ENCSCHED_STREAM_TX_TTL (e : Nat) : Fld := ⟨(Reg.ENCSCHED_STREAM_TX e), 0, 8⟩
def Fld.ENCSCHED_STREAM_PACE_SEQ_INIT (e : Nat) : Fld := ⟨(Reg.ENCSCHED_STREAM_PACE e), 16, 16⟩
def Fld.ENCSCHED_STREAM_PACE_PACE (e : Nat) : Fld := ⟨(Reg.ENCSCHED_STREAM_PACE e), 0, 16⟩
def Fld.ENCSCHED_STREAM_DMAC_HI_SPORT (e : Nat) : Fld := ⟨(Reg.ENCSCHED_STREAM_DMAC_HI e), 16, 16⟩
def Fld.ENCSCHED_STREAM_DMAC_HI_DMAC_HI (e : Nat) : Fld := ⟨(Reg.ENCSCHED_STREAM_DMAC_HI e), 0, 16⟩
def Fld.ENCSCHED_STREAM_DMAC_LO_DMAC_LO (e : Nat) : Fld := ⟨(Reg.ENCSCHED_STREAM_DMAC_LO e), 0, 32⟩
def Fld.ENCSCHED_STREAM_CMD_FORCE_IDR (e : Nat) : Fld := ⟨(Reg.ENCSCHED_STREAM_CMD e), 0, 1⟩
def Fld.ENCSCHED_STREAM_STATUS_DRAINED (e : Nat) : Fld := ⟨(Reg.ENCSCHED_STREAM_STATUS e), 31, 1⟩
def Fld.ENCSCHED_STREAM_STATUS_BIND_CONFLICT (e : Nat) : Fld := ⟨(Reg.ENCSCHED_STREAM_STATUS e), 30, 1⟩
def Fld.ENCSCHED_STREAM_STATUS_BUDGET_SHORT (e : Nat) : Fld := ⟨(Reg.ENCSCHED_STREAM_STATUS e), 29, 1⟩
def Fld.ENCSCHED_STREAM_STATUS_SRC_IDLE (e : Nat) : Fld := ⟨(Reg.ENCSCHED_STREAM_STATUS e), 28, 1⟩
def Fld.ENCSCHED_STREAM_STATUS_STATE (e : Nat) : Fld := ⟨(Reg.ENCSCHED_STREAM_STATUS e), 24, 3⟩
def Fld.ENCSCHED_STREAM_STATUS_QP_LAST (e : Nat) : Fld := ⟨(Reg.ENCSCHED_STREAM_STATUS e), 8, 8⟩
def Fld.ENCSCHED_STREAM_STATUS_LAST_ERR (e : Nat) : Fld := ⟨(Reg.ENCSCHED_STREAM_STATUS e), 0, 8⟩
def Fld.ENCSCHED_STREAM_LAST_BITS_BITS (e : Nat) : Fld := ⟨(Reg.ENCSCHED_STREAM_LAST_BITS e), 0, 32⟩
def Fld.ENCSCHED_STREAM_TARGET_T (e : Nat) : Fld := ⟨(Reg.ENCSCHED_STREAM_TARGET e), 0, 32⟩
def Fld.ENCSCHED_STREAM_CNT_COUNT (e i : Nat) : Fld := ⟨(Reg.ENCSCHED_STREAM_CNT e i), 0, 32⟩
def Fld.ENC_CTRL_EN (n : Nat) : Fld := ⟨(Reg.ENC_CTRL n), 0, 1⟩
def Fld.ENC_STATUS_STATE (n : Nat) : Fld := ⟨(Reg.ENC_STATUS n), 30, 2⟩
def Fld.ENC_STATUS_STREAM (n : Nat) : Fld := ⟨(Reg.ENC_STATUS n), 16, 5⟩
def Fld.ENC_BUSY_PERMILLE (n : Nat) : Fld := ⟨(Reg.ENC_BUSY n), 0, 10⟩
def Fld.ENC_CNT_SLICE_COUNT (n : Nat) : Fld := ⟨(Reg.ENC_CNT_SLICE n), 0, 32⟩
def Fld.ENC_CNT_SWITCH_COUNT (n : Nat) : Fld := ⟨(Reg.ENC_CNT_SWITCH n), 0, 32⟩
def Fld.TIME_STATUS_CFG_REJECT : Fld := ⟨Reg.TIME_STATUS, 31, 1⟩
def Fld.TIME_STATUS_STEPPED : Fld := ⟨Reg.TIME_STATUS, 30, 1⟩
def Fld.TIME_STATUS_STATE_B : Fld := ⟨Reg.TIME_STATUS, 4, 3⟩
def Fld.TIME_STATUS_STATE_A : Fld := ⟨Reg.TIME_STATUS, 0, 3⟩
def Fld.TIME_INCR_INCR : Fld := ⟨Reg.TIME_INCR, 0, 32⟩
def Fld.TIME_SNAP_CTRL_GO : Fld := ⟨Reg.TIME_SNAP_CTRL, 0, 1⟩
def Fld.TIME_SNAP_SEC_LO_SEC_LO (i : Nat) : Fld := ⟨(Reg.TIME_SNAP_SEC_LO i), 0, 32⟩
def Fld.TIME_SNAP_HI_FRAC (i : Nat) : Fld := ⟨(Reg.TIME_SNAP_HI i), 16, 16⟩
def Fld.TIME_SNAP_HI_SEC_HI (i : Nat) : Fld := ⟨(Reg.TIME_SNAP_HI i), 0, 16⟩
def Fld.TIME_SNAP_NS_NS (i : Nat) : Fld := ⟨(Reg.TIME_SNAP_NS i), 0, 30⟩
def Fld.TIME_STEP_INFO_VALID : Fld := ⟨Reg.TIME_STEP_INFO, 31, 1⟩
def Fld.TIME_STEP_INFO_TARGET : Fld := ⟨Reg.TIME_STEP_INFO, 28, 2⟩
def Fld.TIME_STEP_INFO_CAUSE : Fld := ⟨Reg.TIME_STEP_INFO, 24, 4⟩
def Fld.TIME_STEP_SIZE_LO_SIZE_LO : Fld := ⟨Reg.TIME_STEP_SIZE_LO, 0, 32⟩
def Fld.TIME_STEP_SIZE_HI_SIZE_HI : Fld := ⟨Reg.TIME_STEP_SIZE_HI, 0, 32⟩
def Fld.TIME_DOM_CFG_EN (i : Nat) : Fld := ⟨(Reg.TIME_DOM_CFG i), 31, 1⟩
def Fld.TIME_DOM_CFG_SRC (i : Nat) : Fld := ⟨(Reg.TIME_DOM_CFG i), 30, 1⟩
def Fld.TIME_DOM_CFG_STEP_EN (i : Nat) : Fld := ⟨(Reg.TIME_DOM_CFG i), 29, 1⟩
def Fld.TIME_DOM_CFG_TIMEOUT (i : Nat) : Fld := ⟨(Reg.TIME_DOM_CFG i), 16, 8⟩
def Fld.TIME_DOM_CFG_HOLD_MAX (i : Nat) : Fld := ⟨(Reg.TIME_DOM_CFG i), 0, 16⟩
def Fld.TIME_DOM_LOCK_LOCK_CNT (i : Nat) : Fld := ⟨(Reg.TIME_DOM_LOCK i), 24, 8⟩
def Fld.TIME_DOM_LOCK_LOCK_THRESH (i : Nat) : Fld := ⟨(Reg.TIME_DOM_LOCK i), 0, 24⟩
def Fld.TIME_DOM_LIMITS_OUTLIER (i : Nat) : Fld := ⟨(Reg.TIME_DOM_LIMITS i), 16, 16⟩
def Fld.TIME_DOM_LIMITS_STEP_MIN (i : Nat) : Fld := ⟨(Reg.TIME_DOM_LIMITS i), 0, 16⟩
def Fld.TIME_DOM_BW_TRACK_BW (i : Nat) : Fld := ⟨(Reg.TIME_DOM_BW i), 0, 10⟩
def Fld.TIME_DOM_ERR_SEC_LO_SEC_LO (i : Nat) : Fld := ⟨(Reg.TIME_DOM_ERR_SEC_LO i), 0, 32⟩
def Fld.TIME_DOM_ERR_HI_FRAC (i : Nat) : Fld := ⟨(Reg.TIME_DOM_ERR_HI i), 16, 16⟩
def Fld.TIME_DOM_ERR_HI_SEC_HI (i : Nat) : Fld := ⟨(Reg.TIME_DOM_ERR_HI i), 0, 16⟩
def Fld.TIME_DOM_ERR_NS_NS (i : Nat) : Fld := ⟨(Reg.TIME_DOM_ERR_NS i), 0, 30⟩
def Fld.TIME_DOM_RATE_RATE (i : Nat) : Fld := ⟨(Reg.TIME_DOM_RATE i), 0, 32⟩
def Fld.TIME_DOM_OFS_SEC_LO_SEC_LO (i : Nat) : Fld := ⟨(Reg.TIME_DOM_OFS_SEC_LO i), 0, 32⟩
def Fld.TIME_DOM_OFS_HI_FRAC (i : Nat) : Fld := ⟨(Reg.TIME_DOM_OFS_HI i), 16, 16⟩
def Fld.TIME_DOM_OFS_HI_SEC_HI (i : Nat) : Fld := ⟨(Reg.TIME_DOM_OFS_HI i), 0, 16⟩
def Fld.TIME_DOM_OFS_NS_NS (i : Nat) : Fld := ⟨(Reg.TIME_DOM_OFS_NS i), 0, 30⟩
def Fld.TIME_DOM_LAST_ERR_ERR (i : Nat) : Fld := ⟨(Reg.TIME_DOM_LAST_ERR i), 0, 32⟩
def Fld.TIME_DOM_CNT_ACCEPTED (i : Nat) : Fld := ⟨(Reg.TIME_DOM_CNT i), 16, 16⟩
def Fld.TIME_DOM_CNT_REJECTED (i : Nat) : Fld := ⟨(Reg.TIME_DOM_CNT i), 0, 16⟩
def Fld.TIME_PORT_RX_ADJ_ADJ (i : Nat) : Fld := ⟨(Reg.TIME_PORT_RX_ADJ i), 0, 32⟩
def Fld.TIME_PORT_TX_ADJ_ADJ (i : Nat) : Fld := ⟨(Reg.TIME_PORT_TX_ADJ i), 0, 32⟩
def Fld.TIME_CHAIN_ASYM_ADJ : Fld := ⟨Reg.TIME_CHAIN_ASYM, 0, 32⟩
def Fld.TIME_PPS_IN_CTRL_NEW : Fld := ⟨Reg.TIME_PPS_IN_CTRL, 31, 1⟩
def Fld.TIME_PPS_IN_CTRL_POL : Fld := ⟨Reg.TIME_PPS_IN_CTRL, 1, 1⟩
def Fld.TIME_PPS_IN_CTRL_EN : Fld := ⟨Reg.TIME_PPS_IN_CTRL, 0, 1⟩
def Fld.TIME_PPS_IN_SEC_LO_SEC_LO : Fld := ⟨Reg.TIME_PPS_IN_SEC_LO, 0, 32⟩
def Fld.TIME_PPS_IN_HI_FRAC : Fld := ⟨Reg.TIME_PPS_IN_HI, 16, 16⟩
def Fld.TIME_PPS_IN_HI_SEC_HI : Fld := ⟨Reg.TIME_PPS_IN_HI, 0, 16⟩
def Fld.TIME_PPS_IN_NS_NS : Fld := ⟨Reg.TIME_PPS_IN_NS, 0, 30⟩
def Fld.TIME_FRAME_OUT_CFG_EN (i : Nat) : Fld := ⟨(Reg.TIME_FRAME_OUT_CFG i), 31, 1⟩
def Fld.TIME_FRAME_OUT_CFG_MODE (i : Nat) : Fld := ⟨(Reg.TIME_FRAME_OUT_CFG i), 30, 1⟩
def Fld.TIME_FRAME_OUT_CFG_DOM (i : Nat) : Fld := ⟨(Reg.TIME_FRAME_OUT_CFG i), 28, 2⟩
def Fld.TIME_FRAME_OUT_CFG_HEAD (i : Nat) : Fld := ⟨(Reg.TIME_FRAME_OUT_CFG i), 20, 5⟩
def Fld.TIME_FRAME_OUT_CFG_WIDTH (i : Nat) : Fld := ⟨(Reg.TIME_FRAME_OUT_CFG i), 0, 20⟩
def Fld.TIME_FRAME_OUT_FRATE_FR_NUM (i : Nat) : Fld := ⟨(Reg.TIME_FRAME_OUT_FRATE i), 12, 20⟩
def Fld.TIME_FRAME_OUT_FRATE_FR_DEN (i : Nat) : Fld := ⟨(Reg.TIME_FRAME_OUT_FRATE i), 0, 12⟩
def Fld.TIME_FRAME_OUT_PHASE_PHASE (i : Nat) : Fld := ⟨(Reg.TIME_FRAME_OUT_PHASE i), 0, 30⟩
def Fld.TIME_PPS_OUT_CFG_EN : Fld := ⟨Reg.TIME_PPS_OUT_CFG, 31, 1⟩
def Fld.TIME_PPS_OUT_CFG_DOM : Fld := ⟨Reg.TIME_PPS_OUT_CFG, 28, 2⟩
def Fld.TIME_PPS_OUT_CFG_WIDTH : Fld := ⟨Reg.TIME_PPS_OUT_CFG, 0, 20⟩
def Fld.TIME_PPS_OUT_PHASE_PHASE : Fld := ⟨Reg.TIME_PPS_OUT_PHASE, 0, 30⟩
def Fld.TIME_REFOUT_CFG_EN : Fld := ⟨Reg.TIME_REFOUT_CFG, 31, 1⟩
def Fld.TIME_REFOUT_FREQ_FREQ : Fld := ⟨Reg.TIME_REFOUT_FREQ, 0, 28⟩
def Fld.DPLL_CTRL_EN : Fld := ⟨Reg.DPLL_CTRL, 31, 1⟩
def Fld.DPLL_CTRL_MODE : Fld := ⟨Reg.DPLL_CTRL, 30, 1⟩
def Fld.DPLL_CTRL_REVERT : Fld := ⟨Reg.DPLL_CTRL, 29, 1⟩
def Fld.DPLL_CTRL_STEP_EN : Fld := ⟨Reg.DPLL_CTRL, 28, 1⟩
def Fld.DPLL_CTRL_SEL : Fld := ⟨Reg.DPLL_CTRL, 0, 4⟩
def Fld.DPLL_STATUS_CFG_REJECT : Fld := ⟨Reg.DPLL_STATUS, 31, 1⟩
def Fld.DPLL_STATUS_SWITCHED : Fld := ⟨Reg.DPLL_STATUS, 30, 1⟩
def Fld.DPLL_STATUS_STATE : Fld := ⟨Reg.DPLL_STATUS, 24, 3⟩
def Fld.DPLL_STATUS_ACTIVE : Fld := ⟨Reg.DPLL_STATUS, 16, 4⟩
def Fld.DPLL_STATUS_VALID : Fld := ⟨Reg.DPLL_STATUS, 0, 10⟩
def Fld.DPLL_PRIO0_ENTRIES : Fld := ⟨Reg.DPLL_PRIO0, 0, 32⟩
def Fld.DPLL_PRIO1_ENTRIES : Fld := ⟨Reg.DPLL_PRIO1, 0, 8⟩
def Fld.DPLL_BW_TRACK_BW : Fld := ⟨Reg.DPLL_BW, 0, 10⟩
def Fld.DPLL_SLOPE_SLOPE : Fld := ⟨Reg.DPLL_SLOPE, 0, 17⟩
def Fld.DPLL_LOCK_LOCK_CNT : Fld := ⟨Reg.DPLL_LOCK, 24, 8⟩
def Fld.DPLL_LOCK_LOCK_THRESH : Fld := ⟨Reg.DPLL_LOCK, 0, 24⟩
def Fld.DPLL_HOLD_HOLD_MAX : Fld := ⟨Reg.DPLL_HOLD, 16, 16⟩
def Fld.DPLL_HOLD_HOLD_AVG : Fld := ⟨Reg.DPLL_HOLD, 0, 16⟩
def Fld.DPLL_QUAL_INTOL : Fld := ⟨Reg.DPLL_QUAL, 24, 8⟩
def Fld.DPLL_QUAL_STEP_MIN : Fld := ⟨Reg.DPLL_QUAL, 16, 8⟩
def Fld.DPLL_QUAL_QUAL_TIME : Fld := ⟨Reg.DPLL_QUAL, 0, 16⟩
def Fld.DPLL_FREQ_MANUAL_F : Fld := ⟨Reg.DPLL_FREQ_MANUAL, 0, 32⟩
def Fld.DPLL_FREQ_F : Fld := ⟨Reg.DPLL_FREQ, 0, 32⟩
def Fld.DPLL_PHASE_ERR_E : Fld := ⟨Reg.DPLL_PHASE_ERR, 0, 32⟩
def Fld.DPLL_PHASE_CTRL_MODE : Fld := ⟨Reg.DPLL_PHASE_CTRL, 4, 1⟩
def Fld.DPLL_PHASE_CTRL_TARGET : Fld := ⟨Reg.DPLL_PHASE_CTRL, 0, 2⟩
def Fld.DPLL_PHASE_STEP_S : Fld := ⟨Reg.DPLL_PHASE_STEP, 0, 32⟩
def Fld.DPLL_PHASE_REMAIN_R : Fld := ⟨Reg.DPLL_PHASE_REMAIN, 0, 32⟩
def Fld.DPLL_PHASE_APPLIED_TOTAL (i : Nat) : Fld := ⟨(Reg.DPLL_PHASE_APPLIED i), 0, 32⟩
def Fld.DPLL_IN_CFG_ALLOW (i : Nat) : Fld := ⟨(Reg.DPLL_IN_CFG i), 31, 1⟩
def Fld.DPLL_IN_CFG_PHASE_MODE (i : Nat) : Fld := ⟨(Reg.DPLL_IN_CFG i), 30, 1⟩
def Fld.DPLL_IN_CFG_LVDS (i : Nat) : Fld := ⟨(Reg.DPLL_IN_CFG i), 29, 1⟩
def Fld.DPLL_IN_CFG_EDGE (i : Nat) : Fld := ⟨(Reg.DPLL_IN_CFG i), 28, 1⟩
def Fld.DPLL_IN_CFG_DEN (i : Nat) : Fld := ⟨(Reg.DPLL_IN_CFG i), 0, 12⟩
def Fld.DPLL_IN_FREQ_NUM_NUM (i : Nat) : Fld := ⟨(Reg.DPLL_IN_FREQ_NUM i), 0, 28⟩
def Fld.DPLL_IN_PHASE_PHASE (i : Nat) : Fld := ⟨(Reg.DPLL_IN_PHASE i), 0, 30⟩
def Fld.DPLL_IN_STATUS_VALID (i : Nat) : Fld := ⟨(Reg.DPLL_IN_STATUS i), 31, 1⟩
def Fld.DPLL_IN_STATUS_QUALIFIED (i : Nat) : Fld := ⟨(Reg.DPLL_IN_STATUS i), 30, 1⟩
def Fld.DPLL_IN_STATUS_FOFS (i : Nat) : Fld := ⟨(Reg.DPLL_IN_STATUS i), 0, 16⟩
def Fld.DRAMC_CTRL_RETRAIN_PERIOD : Fld := ⟨Reg.DRAMC_CTRL, 8, 8⟩
def Fld.DRAMC_CTRL_RETRAIN_EN : Fld := ⟨Reg.DRAMC_CTRL, 1, 1⟩
def Fld.DRAMC_CTRL_SREF_EN : Fld := ⟨Reg.DRAMC_CTRL, 0, 1⟩
def Fld.DRAMC_STATUS_CFG_REJECT : Fld := ⟨Reg.DRAMC_STATUS, 31, 1⟩
def Fld.DRAMC_STATUS_TRAIN_FAIL : Fld := ⟨Reg.DRAMC_STATUS, 30, 1⟩
def Fld.DRAMC_STATUS_FROZEN : Fld := ⟨Reg.DRAMC_STATUS, 29, 1⟩
def Fld.DRAMC_STATUS_SREF : Fld := ⟨Reg.DRAMC_STATUS, 28, 1⟩
def Fld.DRAMC_STATUS_FC_BUSY : Fld := ⟨Reg.DRAMC_STATUS, 27, 1⟩
def Fld.DRAMC_STATUS_PANIC : Fld := ⟨Reg.DRAMC_STATUS, 26, 1⟩
def Fld.DRAMC_STATUS_HOT : Fld := ⟨Reg.DRAMC_STATUS, 25, 1⟩
def Fld.DRAMC_STATUS_TSET : Fld := ⟨Reg.DRAMC_STATUS, 24, 1⟩
def Fld.DRAMC_STATUS_OP : Fld := ⟨Reg.DRAMC_STATUS, 22, 2⟩
def Fld.DRAMC_FC_CTRL_GO : Fld := ⟨Reg.DRAMC_FC_CTRL, 31, 1⟩
def Fld.DRAMC_FC_CTRL_TARGET : Fld := ⟨Reg.DRAMC_FC_CTRL, 24, 2⟩
def Fld.DRAMC_FC_CTRL_WAIT : Fld := ⟨Reg.DRAMC_FC_CTRL, 0, 16⟩
def Fld.DRAMC_FC_STATUS_DONE : Fld := ⟨Reg.DRAMC_FC_STATUS, 31, 1⟩
def Fld.DRAMC_FC_STATUS_RESULT : Fld := ⟨Reg.DRAMC_FC_STATUS, 28, 3⟩
def Fld.DRAMC_FC_STATUS_BLACKOUT : Fld := ⟨Reg.DRAMC_FC_STATUS, 0, 16⟩
def Fld.DRAMC_QOS_RT_W : Fld := ⟨Reg.DRAMC_QOS, 24, 8⟩
def Fld.DRAMC_QOS_MEDIA_W : Fld := ⟨Reg.DRAMC_QOS, 16, 8⟩
def Fld.DRAMC_QOS_CTRL_W : Fld := ⟨Reg.DRAMC_QOS, 8, 8⟩
def Fld.DRAMC_QOS_BULK_W : Fld := ⟨Reg.DRAMC_QOS, 0, 8⟩
def Fld.DRAMC_REFRESH_FORCED : Fld := ⟨Reg.DRAMC_REFRESH, 16, 16⟩
def Fld.DRAMC_REFRESH_DEBT : Fld := ⟨Reg.DRAMC_REFRESH, 0, 4⟩
def Fld.DRAMC_TOL_MIN_TOL : Fld := ⟨Reg.DRAMC_TOL_MIN, 0, 32⟩
def Fld.DRAMC_FREEZE_INFO_VALID : Fld := ⟨Reg.DRAMC_FREEZE_INFO, 31, 1⟩
def Fld.DRAMC_FREEZE_INFO_KIND : Fld := ⟨Reg.DRAMC_FREEZE_INFO, 30, 1⟩
def Fld.DRAMC_FREEZE_INFO_CHANNEL : Fld := ⟨Reg.DRAMC_FREEZE_INFO, 24, 4⟩
def Fld.DRAMC_FREEZE_INFO_MASTER : Fld := ⟨Reg.DRAMC_FREEZE_INFO, 16, 8⟩
def Fld.DRAMC_FREEZE_INFO_CMD : Fld := ⟨Reg.DRAMC_FREEZE_INFO, 12, 4⟩
def Fld.DRAMC_FREEZE_ADDR_LO_ADDR_LO : Fld := ⟨Reg.DRAMC_FREEZE_ADDR_LO, 0, 32⟩
def Fld.DRAMC_FREEZE_ADDR_HI_ADDR_HI : Fld := ⟨Reg.DRAMC_FREEZE_ADDR_HI, 0, 8⟩
def Fld.DRAMC_FREEZE_SYND_WORD : Fld := ⟨Reg.DRAMC_FREEZE_SYND, 16, 3⟩
def Fld.DRAMC_FREEZE_SYND_SYND : Fld := ⟨Reg.DRAMC_FREEZE_SYND, 0, 8⟩
def Fld.DRAMC_FREEZE_CTRL_CONFIRM : Fld := ⟨Reg.DRAMC_FREEZE_CTRL, 16, 16⟩
def Fld.DRAMC_FREEZE_CTRL_RELEASE : Fld := ⟨Reg.DRAMC_FREEZE_CTRL, 0, 1⟩
def Fld.DRAMC_FREEZE_DROPPED_COUNT : Fld := ⟨Reg.DRAMC_FREEZE_DROPPED, 0, 32⟩
def Fld.DRAMC_DIAG_CTRL_GO : Fld := ⟨Reg.DRAMC_DIAG_CTRL, 31, 1⟩
def Fld.DRAMC_DIAG_CTRL_BUSY : Fld := ⟨Reg.DRAMC_DIAG_CTRL, 30, 1⟩
def Fld.DRAMC_DIAG_CTRL_OP : Fld := ⟨Reg.DRAMC_DIAG_CTRL, 29, 1⟩
def Fld.DRAMC_DIAG_ADDR_LO_ADDR_LO : Fld := ⟨Reg.DRAMC_DIAG_ADDR_LO, 6, 26⟩
def Fld.DRAMC_DIAG_ADDR_HI_ADDR_HI : Fld := ⟨Reg.DRAMC_DIAG_ADDR_HI, 0, 8⟩
def Fld.DRAMC_DIAG_DATA_DATA (i : Nat) : Fld := ⟨(Reg.DRAMC_DIAG_DATA i), 0, 32⟩
def Fld.DRAMC_DIAG_CHECK_CHECK (i : Nat) : Fld := ⟨(Reg.DRAMC_DIAG_CHECK i), 0, 32⟩
def Fld.DRAMC_CH_TRAIN_FAIL (n i : Nat) : Fld := ⟨(Reg.DRAMC_CH_TRAIN n i), 31, 1⟩
def Fld.DRAMC_CH_TRAIN_FAIL_KIND (n i : Nat) : Fld := ⟨(Reg.DRAMC_CH_TRAIN n i), 29, 2⟩
def Fld.DRAMC_CH_TRAIN_FAIL_BYTE (n i : Nat) : Fld := ⟨(Reg.DRAMC_CH_TRAIN n i), 24, 2⟩
def Fld.DRAMC_CH_TRAIN_OP_TRAINED (n i : Nat) : Fld := ⟨(Reg.DRAMC_CH_TRAIN n i), 16, 4⟩
def Fld.DRAMC_CH_TRAIN_MARGIN (n i : Nat) : Fld := ⟨(Reg.DRAMC_CH_TRAIN n i), 0, 7⟩
def Fld.DRAMC_CH_RETRAIN_CNT_COUNT (n i : Nat) : Fld := ⟨(Reg.DRAMC_CH_RETRAIN_CNT n i), 0, 32⟩
def Fld.FSTORE_STATUS_UNWRITTEN_READ : Fld := ⟨Reg.FSTORE_STATUS, 31, 1⟩
def Fld.FSTORE_STATUS_UNCORR : Fld := ⟨Reg.FSTORE_STATUS, 30, 1⟩
def Fld.FSTORE_STATUS_CMD_REJECT : Fld := ⟨Reg.FSTORE_STATUS, 29, 1⟩
def Fld.FSTORE_STATUS_UNWRITE_BUSY : Fld := ⟨Reg.FSTORE_STATUS, 28, 1⟩
def Fld.FSTORE_UNW_INFO_VALID : Fld := ⟨Reg.FSTORE_UNW_INFO, 31, 1⟩
def Fld.FSTORE_UNW_INFO_MASTER : Fld := ⟨Reg.FSTORE_UNW_INFO, 16, 8⟩
def Fld.FSTORE_UNW_ADDR_LINE : Fld := ⟨Reg.FSTORE_UNW_ADDR, 6, 21⟩
def Fld.FSTORE_UNW_COUNT_COUNT : Fld := ⟨Reg.FSTORE_UNW_COUNT, 0, 32⟩
def Fld.FSTORE_UNC_INFO_VALID : Fld := ⟨Reg.FSTORE_UNC_INFO, 31, 1⟩
def Fld.FSTORE_UNC_INFO_MASTER : Fld := ⟨Reg.FSTORE_UNC_INFO, 16, 8⟩
def Fld.FSTORE_UNC_ADDR_LINE : Fld := ⟨Reg.FSTORE_UNC_ADDR, 6, 21⟩
def Fld.FSTORE_UNC_COUNT_COUNT : Fld := ⟨Reg.FSTORE_UNC_COUNT, 0, 32⟩
def Fld.FSTORE_UNWRITE_START_START : Fld := ⟨Reg.FSTORE_UNWRITE_START, 6, 21⟩
def Fld.FSTORE_UNWRITE_LEN_GO : Fld := ⟨Reg.FSTORE_UNWRITE_LEN, 31, 1⟩
def Fld.FSTORE_UNWRITE_LEN_LEN : Fld := ⟨Reg.FSTORE_UNWRITE_LEN, 6, 21⟩
def Fld.REPAIR_CTRL_DRAM_PERIOD : Fld := ⟨Reg.REPAIR_CTRL, 16, 16⟩
def Fld.REPAIR_CTRL_FS_PERIOD : Fld := ⟨Reg.REPAIR_CTRL, 0, 16⟩
def Fld.REPAIR_STATUS_MAINT_DUE : Fld := ⟨Reg.REPAIR_STATUS, 31, 1⟩
def Fld.REPAIR_STATUS_SCRUB_LATE : Fld := ⟨Reg.REPAIR_STATUS, 30, 1⟩
def Fld.REPAIR_STATUS_PEND_OVERFLOW : Fld := ⟨Reg.REPAIR_STATUS, 29, 1⟩
def Fld.REPAIR_STATUS_REPAIR_BUSY : Fld := ⟨Reg.REPAIR_STATUS, 28, 1⟩
def Fld.REPAIR_STATUS_RESERVE_FREE : Fld := ⟨Reg.REPAIR_STATUS, 16, 7⟩
def Fld.REPAIR_STATUS_RETIRED : Fld := ⟨Reg.REPAIR_STATUS, 0, 11⟩
def Fld.REPAIR_SPARE_LEFT : Fld := ⟨Reg.REPAIR_SPARE, 16, 11⟩
def Fld.REPAIR_SPARE_MIN_LEFT : Fld := ⟨Reg.REPAIR_SPARE, 0, 4⟩
def Fld.REPAIR_DRAM_CE_COUNT : Fld := ⟨Reg.REPAIR_DRAM_CE, 0, 32⟩
def Fld.REPAIR_FS_CE_COUNT : Fld := ⟨Reg.REPAIR_FS_CE, 0, 32⟩
def Fld.REPAIR_HARD_DRAM_HARD : Fld := ⟨Reg.REPAIR_HARD, 16, 16⟩
def Fld.REPAIR_HARD_FS_HARD : Fld := ⟨Reg.REPAIR_HARD, 0, 16⟩
def Fld.REPAIR_RETIRED_WR_COUNT : Fld := ⟨Reg.REPAIR_RETIRED_WR, 0, 32⟩
def Fld.REPAIR_CE_INFO_VALID : Fld := ⟨Reg.REPAIR_CE_INFO, 31, 1⟩
def Fld.REPAIR_CE_INFO_MEM : Fld := ⟨Reg.REPAIR_CE_INFO, 30, 1⟩
def Fld.REPAIR_CE_INFO_HARD : Fld := ⟨Reg.REPAIR_CE_INFO, 29, 1⟩
def Fld.REPAIR_CE_INFO_SYND : Fld := ⟨Reg.REPAIR_CE_INFO, 16, 7⟩
def Fld.REPAIR_CE_INFO_MASTER : Fld := ⟨Reg.REPAIR_CE_INFO, 0, 8⟩
def Fld.REPAIR_CE_ADDR_LO_ADDR_LO : Fld := ⟨Reg.REPAIR_CE_ADDR_LO, 0, 32⟩
def Fld.REPAIR_CE_ADDR_HI_ADDR_HI : Fld := ⟨Reg.REPAIR_CE_ADDR_HI, 0, 8⟩
def Fld.REPAIR_OFFLINE_VALID : Fld := ⟨Reg.REPAIR_OFFLINE, 31, 1⟩
def Fld.REPAIR_OFFLINE_OVERFLOW : Fld := ⟨Reg.REPAIR_OFFLINE, 30, 1⟩
def Fld.REPAIR_OFFLINE_CAUSE : Fld := ⟨Reg.REPAIR_OFFLINE, 29, 1⟩
def Fld.REPAIR_OFFLINE_PAGE : Fld := ⟨Reg.REPAIR_OFFLINE, 0, 23⟩
def Fld.REPAIR_INJ_CTRL_ARM : Fld := ⟨Reg.REPAIR_INJ_CTRL, 31, 1⟩
def Fld.REPAIR_INJ_CTRL_TARGET : Fld := ⟨Reg.REPAIR_INJ_CTRL, 29, 2⟩
def Fld.REPAIR_INJ_CTRL_DOUBLE : Fld := ⟨Reg.REPAIR_INJ_CTRL, 23, 1⟩
def Fld.REPAIR_INJ_CTRL_BIT0 : Fld := ⟨Reg.REPAIR_INJ_CTRL, 16, 7⟩
def Fld.REPAIR_INJ_CTRL_BIT1 : Fld := ⟨Reg.REPAIR_INJ_CTRL, 8, 7⟩
def Fld.REPAIR_INJ_ADDR_LO_ADDR_LO : Fld := ⟨Reg.REPAIR_INJ_ADDR_LO, 2, 30⟩
def Fld.REPAIR_INJ_ADDR_HI_ADDR_HI : Fld := ⟨Reg.REPAIR_INJ_ADDR_HI, 0, 8⟩
def Fld.REPAIR_INJ_STATUS_DONE : Fld := ⟨Reg.REPAIR_INJ_STATUS, 31, 1⟩
def Fld.REPAIR_INJ_STATUS_RESULT : Fld := ⟨Reg.REPAIR_INJ_STATUS, 28, 3⟩
def Fld.REPAIR_INJ_STATUS_SYND : Fld := ⟨Reg.REPAIR_INJ_STATUS, 0, 8⟩
def Fld.REPAIR_MACRO_INDEX_MACRO : Fld := ⟨Reg.REPAIR_MACRO_INDEX, 0, 7⟩
def Fld.REPAIR_MACRO_STATUS_FUSED (e : Nat) : Fld := ⟨(Reg.REPAIR_MACRO_STATUS e), 8, 4⟩
def Fld.REPAIR_MACRO_STATUS_LEFT (e : Nat) : Fld := ⟨(Reg.REPAIR_MACRO_STATUS e), 0, 4⟩
def Fld.REPAIR_GMAP_STATE (i : Nat) : Fld := ⟨(Reg.REPAIR_GMAP i), 30, 2⟩
def Fld.REPAIR_GMAP_PHYS (i : Nat) : Fld := ⟨(Reg.REPAIR_GMAP i), 0, 11⟩
def Fld.VAULT_STATUS_WRITE_DROPPED : Fld := ⟨Reg.VAULT_STATUS, 31, 1⟩
def Fld.VAULT_STATUS_DISAGREE : Fld := ⟨Reg.VAULT_STATUS, 30, 1⟩
def Fld.VAULT_STATUS_INJ_REFUSED : Fld := ⟨Reg.VAULT_STATUS, 29, 1⟩
def Fld.VAULT_STATUS_FIRST_WORD : Fld := ⟨Reg.VAULT_STATUS, 0, 8⟩
def Fld.VAULT_DISAGREE_COUNT_COUNT : Fld := ⟨Reg.VAULT_DISAGREE_COUNT, 0, 32⟩
def Fld.VAULT_INJ_GO : Fld := ⟨Reg.VAULT_INJ, 31, 1⟩
def Fld.VAULT_INJ_COPY : Fld := ⟨Reg.VAULT_INJ, 24, 2⟩
def Fld.VAULT_INJ_WORD : Fld := ⟨Reg.VAULT_INJ, 16, 8⟩
def Fld.VAULT_INJ_BIT : Fld := ⟨Reg.VAULT_INJ, 0, 5⟩
def Fld.VAULT_RAW_INDEX_WORD : Fld := ⟨Reg.VAULT_RAW_INDEX, 0, 8⟩
def Fld.VAULT_RAW_A_VALUE (e : Nat) : Fld := ⟨(Reg.VAULT_RAW_A e), 0, 32⟩
def Fld.VAULT_RAW_B_VALUE (e : Nat) : Fld := ⟨(Reg.VAULT_RAW_B e), 0, 32⟩
def Fld.VAULT_RAW_C_VALUE (e : Nat) : Fld := ⟨(Reg.VAULT_RAW_C e), 0, 32⟩
def Fld.VAULT_WORD_VALUE (i : Nat) : Fld := ⟨(Reg.VAULT_WORD i), 0, 32⟩
def Fld.PROT_BOOT_LOCK_LOCK : Fld := ⟨Reg.PROT_BOOT_LOCK, 0, 1⟩
def Fld.PROT_DEBUG_OPEN_OPEN : Fld := ⟨Reg.PROT_DEBUG_OPEN, 0, 1⟩
def Fld.PROT_FENCE_DONE : Fld := ⟨Reg.PROT_FENCE, 0, 1⟩
def Fld.PROT_STATUS_DEBUG_ACTIVE : Fld := ⟨Reg.PROT_STATUS, 2, 1⟩
def Fld.PROT_STATUS_DEBUG_FUSE : Fld := ⟨Reg.PROT_STATUS, 1, 1⟩
def Fld.PROT_STATUS_LOCKED : Fld := ⟨Reg.PROT_STATUS, 0, 1⟩
def Fld.PROT_VIOL_INFO_VALID : Fld := ⟨Reg.PROT_VIOL_INFO, 31, 1⟩
def Fld.PROT_VIOL_INFO_KIND : Fld := ⟨Reg.PROT_VIOL_INFO, 28, 3⟩
def Fld.PROT_VIOL_INFO_TARGET : Fld := ⟨Reg.PROT_VIOL_INFO, 16, 9⟩
def Fld.PROT_VIOL_INFO_MASTER : Fld := ⟨Reg.PROT_VIOL_INFO, 0, 8⟩
def Fld.PROT_VIOL_ADDR_LO_ADDR_LO : Fld := ⟨Reg.PROT_VIOL_ADDR_LO, 0, 32⟩
def Fld.PROT_VIOL_ADDR_HI_ADDR_HI : Fld := ⟨Reg.PROT_VIOL_ADDR_HI, 0, 8⟩
def Fld.PROT_VIOL_COUNT_COUNT : Fld := ⟨Reg.PROT_VIOL_COUNT, 0, 32⟩
def Fld.PROT_MEM_DEFAULT_RULE : Fld := ⟨Reg.PROT_MEM_DEFAULT, 0, 32⟩
def Fld.PROT_SLOT_RULE_RULE (i : Nat) : Fld := ⟨(Reg.PROT_SLOT_RULE i), 0, 32⟩
def Fld.PROT_MREG_BASE_EN (i : Nat) : Fld := ⟨(Reg.PROT_MREG_BASE i), 31, 1⟩
def Fld.PROT_MREG_BASE_BASE (i : Nat) : Fld := ⟨(Reg.PROT_MREG_BASE i), 0, 24⟩
def Fld.PROT_MREG_LIMIT_LIMIT (i : Nat) : Fld := ⟨(Reg.PROT_MREG_LIMIT i), 0, 24⟩
def Fld.PROT_MREG_RULE_RULE (i : Nat) : Fld := ⟨(Reg.PROT_MREG_RULE i), 0, 32⟩
def Fld.PAIR_CTRL_EN : Fld := ⟨Reg.PAIR_CTRL, 31, 1⟩
def Fld.PAIR_CTRL_SIDE : Fld := ⟨Reg.PAIR_CTRL, 30, 1⟩
def Fld.PAIR_CTRL_MIRROR : Fld := ⟨Reg.PAIR_CTRL, 29, 1⟩
def Fld.PAIR_CTRL_BALLOT_LAG : Fld := ⟨Reg.PAIR_CTRL, 16, 4⟩
def Fld.PAIR_STATUS_CFG_REJECT : Fld := ⟨Reg.PAIR_STATUS, 31, 1⟩
def Fld.PAIR_STATUS_NO_REFEREE : Fld := ⟨Reg.PAIR_STATUS, 30, 1⟩
def Fld.PAIR_STATUS_SPLIT : Fld := ⟨Reg.PAIR_STATUS, 29, 1⟩
def Fld.PAIR_STATUS_MIRROR_REFUSED : Fld := ⟨Reg.PAIR_STATUS, 28, 1⟩
def Fld.PAIR_STATUS_CMD_REJECT : Fld := ⟨Reg.PAIR_STATUS, 27, 1⟩
def Fld.PAIR_STATUS_REF_FAIL : Fld := ⟨Reg.PAIR_STATUS, 26, 1⟩
def Fld.PAIR_STATUS_PARTNER_REF_FAIL : Fld := ⟨Reg.PAIR_STATUS, 25, 1⟩
def Fld.PAIR_STATUS_SELF_FAULTY : Fld := ⟨Reg.PAIR_STATUS, 24, 1⟩
def Fld.PAIR_STATUS_PARTNER_FAULTY : Fld := ⟨Reg.PAIR_STATUS, 23, 1⟩
def Fld.PAIR_STATUS_SYNCED : Fld := ⟨Reg.PAIR_STATUS, 22, 1⟩
def Fld.PAIR_STATUS_PROTECTED : Fld := ⟨Reg.PAIR_STATUS, 21, 1⟩
def Fld.PAIR_STATUS_LINK_UP : Fld := ⟨Reg.PAIR_STATUS, 20, 1⟩
def Fld.PAIR_STATUS_PARTNER_PG : Fld := ⟨Reg.PAIR_STATUS, 19, 1⟩
def Fld.PAIR_STATUS_POSS_LOW : Fld := ⟨Reg.PAIR_STATUS, 18, 1⟩
def Fld.PAIR_STATUS_ELIGIBLE : Fld := ⟨Reg.PAIR_STATUS, 17, 1⟩
def Fld.PAIR_STATUS_ROLE : Fld := ⟨Reg.PAIR_STATUS, 0, 2⟩
def Fld.PAIR_CMD_CONFIRM : Fld := ⟨Reg.PAIR_CMD, 16, 16⟩
def Fld.PAIR_CMD_CLEAR_FAULT : Fld := ⟨Reg.PAIR_CMD, 2, 1⟩
def Fld.PAIR_CMD_HANDOVER : Fld := ⟨Reg.PAIR_CMD, 1, 1⟩
def Fld.PAIR_CMD_WDOG_KICK : Fld := ⟨Reg.PAIR_CMD, 0, 1⟩
def Fld.PAIR_LAST_CAUSE_GRID : Fld := ⟨Reg.PAIR_LAST_CAUSE, 16, 16⟩
def Fld.PAIR_LAST_CAUSE_DIR : Fld := ⟨Reg.PAIR_LAST_CAUSE, 8, 1⟩
def Fld.PAIR_LAST_CAUSE_CAUSE : Fld := ⟨Reg.PAIR_LAST_CAUSE, 0, 8⟩
def Fld.PAIR_SYNC_UNRES_LIMIT : Fld := ⟨Reg.PAIR_SYNC, 24, 8⟩
def Fld.PAIR_SYNC_SYNC_FRAMES : Fld := ⟨Reg.PAIR_SYNC, 16, 8⟩
def Fld.PAIR_SYNC_WDOG_TIME : Fld := ⟨Reg.PAIR_SYNC, 0, 16⟩
def Fld.PAIR_HEAD_MASK_HEADS : Fld := ⟨Reg.PAIR_HEAD_MASK, 0, 20⟩
def Fld.PAIR_MISMATCH_INFO_VALID : Fld := ⟨Reg.PAIR_MISMATCH_INFO, 31, 1⟩
def Fld.PAIR_MISMATCH_INFO_HEAD : Fld := ⟨Reg.PAIR_MISMATCH_INFO, 24, 5⟩
def Fld.PAIR_MISMATCH_INFO_SRC : Fld := ⟨Reg.PAIR_MISMATCH_INFO, 16, 5⟩
def Fld.PAIR_MISMATCH_INFO_GRID : Fld := ⟨Reg.PAIR_MISMATCH_INFO, 0, 16⟩
def Fld.PAIR_CNT_UNRESOLVED_COUNT : Fld := ⟨Reg.PAIR_CNT_UNRESOLVED, 0, 32⟩
def Fld.PAIR_CNT_EXCUSED_COUNT : Fld := ⟨Reg.PAIR_CNT_EXCUSED, 0, 32⟩
def Fld.PAIR_CNT_BALLOT_MISS_COUNT : Fld := ⟨Reg.PAIR_CNT_BALLOT_MISS, 0, 32⟩
def Fld.PAIR_CNT_BLOCKED_COUNT : Fld := ⟨Reg.PAIR_CNT_BLOCKED, 0, 32⟩
def Fld.PAIR_CNT_MIRROR_REFUSED_COUNT : Fld := ⟨Reg.PAIR_CNT_MIRROR_REFUSED, 0, 32⟩
def Fld.PAIR_MWIN_BASE_EN (i : Nat) : Fld := ⟨(Reg.PAIR_MWIN_BASE i), 31, 1⟩
def Fld.PAIR_MWIN_BASE_BASE (i : Nat) : Fld := ⟨(Reg.PAIR_MWIN_BASE i), 0, 24⟩
def Fld.PAIR_MWIN_LIMIT_LIMIT (i : Nat) : Fld := ⟨(Reg.PAIR_MWIN_LIMIT i), 0, 24⟩
def Fld.TOUCH_CTRL_EN : Fld := ⟨Reg.TOUCH_CTRL, 31, 1⟩
def Fld.TOUCH_CTRL_MODE : Fld := ⟨Reg.TOUCH_CTRL, 30, 1⟩
def Fld.TOUCH_CTRL_ROWS : Fld := ⟨Reg.TOUCH_CTRL, 16, 6⟩
def Fld.TOUCH_CTRL_COLS : Fld := ⟨Reg.TOUCH_CTRL, 8, 6⟩
def Fld.TOUCH_STATUS_CFG_REJECT : Fld := ⟨Reg.TOUCH_STATUS, 31, 1⟩
def Fld.TOUCH_STATUS_TIMING_REJECT : Fld := ⟨Reg.TOUCH_STATUS, 30, 1⟩
def Fld.TOUCH_STATUS_TEST_BUSY : Fld := ⟨Reg.TOUCH_STATUS, 29, 1⟩
def Fld.TOUCH_STATUS_SCANNING : Fld := ⟨Reg.TOUCH_STATUS, 28, 1⟩
def Fld.TOUCH_STATUS_HOP : Fld := ⟨Reg.TOUCH_STATUS, 0, 3⟩
def Fld.TOUCH_SCAN_SCAN_PERIOD : Fld := ⟨Reg.TOUCH_SCAN, 16, 16⟩
def Fld.TOUCH_SCAN_BURST : Fld := ⟨Reg.TOUCH_SCAN, 0, 8⟩
def Fld.TOUCH_HOP_CTRL_NOISE_HI : Fld := ⟨Reg.TOUCH_HOP_CTRL, 16, 16⟩
def Fld.TOUCH_HOP_CTRL_HOP_EN : Fld := ⟨Reg.TOUCH_HOP_CTRL, 0, 8⟩
def Fld.TOUCH_HOP_NOISE (i : Nat) : Fld := ⟨(Reg.TOUCH_HOP i), 16, 16⟩
def Fld.TOUCH_HOP_FREQ (i : Nat) : Fld := ⟨(Reg.TOUCH_HOP i), 0, 10⟩
def Fld.TOUCH_TRACK_TRACK_BAND : Fld := ⟨Reg.TOUCH_TRACK, 16, 16⟩
def Fld.TOUCH_TRACK_TRACK_DIV : Fld := ⟨Reg.TOUCH_TRACK, 0, 8⟩
def Fld.TOUCH_RECAL_MAX_ON : Fld := ⟨Reg.TOUCH_RECAL, 16, 16⟩
def Fld.TOUCH_RECAL_NEG_RECAL : Fld := ⟨Reg.TOUCH_RECAL, 0, 16⟩
def Fld.TOUCH_DEB_DEB_ON : Fld := ⟨Reg.TOUCH_DEB, 4, 4⟩
def Fld.TOUCH_DEB_DEB_OFF : Fld := ⟨Reg.TOUCH_DEB, 0, 4⟩
def Fld.TOUCH_TEST_CTRL_GO : Fld := ⟨Reg.TOUCH_TEST_CTRL, 31, 1⟩
def Fld.TOUCH_TEST_CTRL_KIND : Fld := ⟨Reg.TOUCH_TEST_CTRL, 28, 2⟩
def Fld.TOUCH_TEST_CTRL_TEST_PERIOD : Fld := ⟨Reg.TOUCH_TEST_CTRL, 8, 16⟩
def Fld.TOUCH_TEST_STATUS_DONE : Fld := ⟨Reg.TOUCH_TEST_STATUS, 31, 1⟩
def Fld.TOUCH_TEST_STATUS_RESULT : Fld := ⟨Reg.TOUCH_TEST_STATUS, 28, 3⟩
def Fld.TOUCH_OPEN_MAP0_CH : Fld := ⟨Reg.TOUCH_OPEN_MAP0, 0, 32⟩
def Fld.TOUCH_OPEN_MAP1_CH : Fld := ⟨Reg.TOUCH_OPEN_MAP1, 0, 16⟩
def Fld.TOUCH_SHORT_MAP0_CH : Fld := ⟨Reg.TOUCH_SHORT_MAP0, 0, 32⟩
def Fld.TOUCH_SHORT_MAP1_CH : Fld := ⟨Reg.TOUCH_SHORT_MAP1, 0, 16⟩
def Fld.TOUCH_REF_MAP_COL : Fld := ⟨Reg.TOUCH_REF_MAP, 0, 24⟩
def Fld.TOUCH_WAKE_MASK0_CH : Fld := ⟨Reg.TOUCH_WAKE_MASK0, 0, 32⟩
def Fld.TOUCH_WAKE_MASK1_CH : Fld := ⟨Reg.TOUCH_WAKE_MASK1, 0, 16⟩
def Fld.TOUCH_WAKE_CFG_WAKE_TH : Fld := ⟨Reg.TOUCH_WAKE_CFG, 16, 16⟩
def Fld.TOUCH_WAKE_CFG_WAKE_PERIOD : Fld := ⟨Reg.TOUCH_WAKE_CFG, 0, 8⟩
def Fld.TOUCH_CMD_REBASE_ALL : Fld := ⟨Reg.TOUCH_CMD, 1, 1⟩
def Fld.TOUCH_CMD_REBASE : Fld := ⟨Reg.TOUCH_CMD, 0, 1⟩
def Fld.TOUCH_CHANGE_VALID : Fld := ⟨Reg.TOUCH_CHANGE, 31, 1⟩
def Fld.TOUCH_CHANGE_OVERFLOW : Fld := ⟨Reg.TOUCH_CHANGE, 30, 1⟩
def Fld.TOUCH_CHANGE_STATE : Fld := ⟨Reg.TOUCH_CHANGE, 24, 2⟩
def Fld.TOUCH_CHANGE_ELEM : Fld := ⟨Reg.TOUCH_CHANGE, 0, 10⟩
def Fld.TOUCH_PRESSED_BITS (i : Nat) : Fld := ⟨(Reg.TOUCH_PRESSED i), 0, 32⟩
def Fld.TOUCH_ELEM_INDEX_INDEX (mst : Nat) : Fld := ⟨(Reg.TOUCH_ELEM_INDEX mst), 0, 10⟩
def Fld.TOUCH_ELEM_CFG_EN (e : Nat) : Fld := ⟨(Reg.TOUCH_ELEM_CFG e), 31, 1⟩
def Fld.TOUCH_ELEM_CFG_HOLD_OK (e : Nat) : Fld := ⟨(Reg.TOUCH_ELEM_CFG e), 30, 1⟩
def Fld.TOUCH_ELEM_CFG_AKS (e : Nat) : Fld := ⟨(Reg.TOUCH_ELEM_CFG e), 27, 3⟩
def Fld.TOUCH_ELEM_CFG_TOUCH_TH (e : Nat) : Fld := ⟨(Reg.TOUCH_ELEM_CFG e), 12, 12⟩
def Fld.TOUCH_ELEM_CFG_RELEASE_TH (e : Nat) : Fld := ⟨(Reg.TOUCH_ELEM_CFG e), 0, 12⟩
def Fld.TOUCH_ELEM_DATA_SIGNAL (e : Nat) : Fld := ⟨(Reg.TOUCH_ELEM_DATA e), 16, 16⟩
def Fld.TOUCH_ELEM_DATA_BASELINE (e : Nat) : Fld := ⟨(Reg.TOUCH_ELEM_DATA e), 0, 16⟩
def Fld.TOUCH_ELEM_STATUS_STATE (e : Nat) : Fld := ⟨(Reg.TOUCH_ELEM_STATUS e), 30, 2⟩
def Fld.TOUCH_ELEM_STATUS_STUCK (e : Nat) : Fld := ⟨(Reg.TOUCH_ELEM_STATUS e), 29, 1⟩
def Fld.TOUCH_ELEM_STATUS_DELTA (e : Nat) : Fld := ⟨(Reg.TOUCH_ELEM_STATUS e), 0, 16⟩
def Fld.DEFL_CTRL_EN : Fld := ⟨Reg.DEFL_CTRL, 0, 1⟩
def Fld.DEFL_STATUS_RUNNING : Fld := ⟨Reg.DEFL_STATUS, 16, 3⟩
def Fld.DEFL_STATUS_PENDING : Fld := ⟨Reg.DEFL_STATUS, 0, 16⟩
def Fld.DEFL_SUBMIT_QUEUE : Fld := ⟨Reg.DEFL_SUBMIT, 0, 4⟩
def Fld.DEFL_TICKET_TICKET (mst : Nat) : Fld := ⟨(Reg.DEFL_TICKET mst), 0, 32⟩
def Fld.DEFL_STAGE_WORD (mst i : Nat) : Fld := ⟨(Reg.DEFL_STAGE mst i), 0, 32⟩
def Fld.DEFL_Q_STATUS_EN (i : Nat) : Fld := ⟨(Reg.DEFL_Q_STATUS i), 31, 1⟩
def Fld.DEFL_Q_STATUS_DEPTH (i : Nat) : Fld := ⟨(Reg.DEFL_Q_STATUS i), 16, 5⟩
def Fld.DEFL_Q_STATUS_DONE_SEQ (i : Nat) : Fld := ⟨(Reg.DEFL_Q_STATUS i), 0, 16⟩
def Fld.DEFL_CNT_JOBS_COUNT : Fld := ⟨Reg.DEFL_CNT_JOBS, 0, 32⟩
def Fld.DEFL_CNT_ERR_COUNT : Fld := ⟨Reg.DEFL_CNT_ERR, 0, 32⟩
def Fld.DEFL_CNT_SUSPEND_COUNT : Fld := ⟨Reg.DEFL_CNT_SUSPEND, 0, 32⟩
def Fld.CHECK_STATUS_CFG_REJECT : Fld := ⟨Reg.CHECK_STATUS, 31, 1⟩
def Fld.CHECK_STATUS_BUSY : Fld := ⟨Reg.CHECK_STATUS, 0, 8⟩
def Fld.CHECK_SUBMIT_UNIT : Fld := ⟨Reg.CHECK_SUBMIT, 0, 3⟩
def Fld.CHECK_TICKET_TICKET (mst : Nat) : Fld := ⟨(Reg.CHECK_TICKET mst), 0, 32⟩
def Fld.CHECK_STAGE_WORD (mst i : Nat) : Fld := ⟨(Reg.CHECK_STAGE mst i), 0, 32⟩
def Fld.CHECK_U_CFG_PRESET (i : Nat) : Fld := ⟨(Reg.CHECK_U_CFG i), 29, 3⟩
def Fld.CHECK_U_CFG_REFIN (i : Nat) : Fld := ⟨(Reg.CHECK_U_CFG i), 28, 1⟩
def Fld.CHECK_U_CFG_REFOUT (i : Nat) : Fld := ⟨(Reg.CHECK_U_CFG i), 27, 1⟩
def Fld.CHECK_U_CFG_WIDTH (i : Nat) : Fld := ⟨(Reg.CHECK_U_CFG i), 16, 6⟩
def Fld.CHECK_U_CFG_ALIVE_W (i : Nat) : Fld := ⟨(Reg.CHECK_U_CFG i), 8, 5⟩
def Fld.CHECK_U_CFG_MAX_DELTA (i : Nat) : Fld := ⟨(Reg.CHECK_U_CFG i), 0, 8⟩
def Fld.CHECK_U_POLY_POLY (i : Nat) : Fld := ⟨(Reg.CHECK_U_POLY i), 0, 32⟩
def Fld.CHECK_U_INIT_INIT (i : Nat) : Fld := ⟨(Reg.CHECK_U_INIT i), 0, 32⟩
def Fld.CHECK_U_XOROUT_XOROUT (i : Nat) : Fld := ⟨(Reg.CHECK_U_XOROUT i), 0, 32⟩
def Fld.CHECK_U_VALUE_VALUE (i : Nat) : Fld := ⟨(Reg.CHECK_U_VALUE i), 0, 32⟩
def Fld.CHECK_U_RESULT_RESULT (i : Nat) : Fld := ⟨(Reg.CHECK_U_RESULT i), 0, 32⟩
def Fld.CHECK_U_DATA_DATA (i : Nat) : Fld := ⟨(Reg.CHECK_U_DATA i), 0, 32⟩
def Fld.CHECK_U_DATA8_DATA (i : Nat) : Fld := ⟨(Reg.CHECK_U_DATA8 i), 0, 8⟩
def Fld.CHECK_U_CTRL_RESYNC (i : Nat) : Fld := ⟨(Reg.CHECK_U_CTRL i), 1, 1⟩
def Fld.CHECK_U_CTRL_LOAD_INIT (i : Nat) : Fld := ⟨(Reg.CHECK_U_CTRL i), 0, 1⟩
def Fld.CHECK_U_ALIVE_VALID (i : Nat) : Fld := ⟨(Reg.CHECK_U_ALIVE i), 31, 1⟩
def Fld.CHECK_U_ALIVE_LAST (i : Nat) : Fld := ⟨(Reg.CHECK_U_ALIVE i), 0, 16⟩
def Fld.CHECK_U_LAST_CODE (i : Nat) : Fld := ⟨(Reg.CHECK_U_LAST i), 24, 8⟩
def Fld.CHECK_U_LAST_SEQ (i : Nat) : Fld := ⟨(Reg.CHECK_U_LAST i), 0, 16⟩
def Fld.CHECK_U_CNT_FAIL_COUNT (i : Nat) : Fld := ⟨(Reg.CHECK_U_CNT_FAIL i), 0, 32⟩
def Fld.CHECK_U_QUEUE_DEPTH (i : Nat) : Fld := ⟨(Reg.CHECK_U_QUEUE i), 0, 4⟩
def Fld.EVT_DOORBELL_RING : Fld := ⟨Reg.EVT_DOORBELL, 0, 15⟩
def Fld.EVT_SEQ_FAULT_STATUS_FAULT : Fld := ⟨Reg.EVT_SEQ_FAULT_STATUS, 0, 24⟩
def Fld.EVT_PIN_CFG_POL (i : Nat) : Fld := ⟨(Reg.EVT_PIN_CFG i), 31, 1⟩
def Fld.EVT_PIN_CFG_WIDTH (i : Nat) : Fld := ⟨(Reg.EVT_PIN_CFG i), 0, 16⟩
def Fld.EVT_ALARM_MASK_MASK (i : Nat) : Fld := ⟨(Reg.EVT_ALARM_MASK i), 0, 32⟩
def Fld.EVT_ALARM_LATCH_LATCH (i : Nat) : Fld := ⟨(Reg.EVT_ALARM_LATCH i), 0, 32⟩
def Fld.EVT_LATCH_RAISED (i : Nat) : Fld := ⟨(Reg.EVT_LATCH i), 0, 32⟩
def Fld.EVT_CNT_RAISED (i : Nat) : Fld := ⟨(Reg.EVT_CNT i), 16, 16⟩
def Fld.EVT_CNT_MERGED (i : Nat) : Fld := ⟨(Reg.EVT_CNT i), 0, 16⟩
def Fld.EVT_ROUTE_MSIX_EN (i : Nat) : Fld := ⟨(Reg.EVT_ROUTE i), 31, 1⟩
def Fld.EVT_ROUTE_VECTOR (i : Nat) : Fld := ⟨(Reg.EVT_ROUTE i), 24, 6⟩
def Fld.EVT_ROUTE_PIN_EN (i : Nat) : Fld := ⟨(Reg.EVT_ROUTE i), 23, 1⟩
def Fld.EVT_ROUTE_PIN (i : Nat) : Fld := ⟨(Reg.EVT_ROUTE i), 20, 2⟩
def Fld.EVT_ROUTE_CHAIN (i : Nat) : Fld := ⟨(Reg.EVT_ROUTE i), 19, 1⟩
def Fld.EVT_SEQLINE_EN (i j : Nat) : Fld := ⟨(Reg.EVT_SEQLINE i j), 31, 1⟩
def Fld.EVT_SEQLINE_SRC (i j : Nat) : Fld := ⟨(Reg.EVT_SEQLINE i j), 0, 8⟩
def Fld.MON_STATUS_ALARM : Fld := ⟨Reg.MON_STATUS, 0, 32⟩
def Fld.MON_CH_CFG_EN (i : Nat) : Fld := ⟨(Reg.MON_CH_CFG i), 31, 1⟩
def Fld.MON_CH_CFG_SRC (i : Nat) : Fld := ⟨(Reg.MON_CH_CFG i), 24, 5⟩
def Fld.MON_CH_CFG_MODE (i : Nat) : Fld := ⟨(Reg.MON_CH_CFG i), 23, 1⟩
def Fld.MON_CH_CFG_SHIFT (i : Nat) : Fld := ⟨(Reg.MON_CH_CFG i), 16, 5⟩
def Fld.MON_CH_CFG_SEL (i : Nat) : Fld := ⟨(Reg.MON_CH_CFG i), 0, 12⟩
def Fld.MON_CH_BASE_BASE (i : Nat) : Fld := ⟨(Reg.MON_CH_BASE i), 0, 32⟩
def Fld.MON_CH_CTRL_FREEZE (i : Nat) : Fld := ⟨(Reg.MON_CH_CTRL i), 1, 1⟩
def Fld.MON_CH_CTRL_CLEAR (i : Nat) : Fld := ⟨(Reg.MON_CH_CTRL i), 0, 1⟩
def Fld.MON_CH_MIN_MIN (i : Nat) : Fld := ⟨(Reg.MON_CH_MIN i), 0, 32⟩
def Fld.MON_CH_MAX_MAX (i : Nat) : Fld := ⟨(Reg.MON_CH_MAX i), 0, 32⟩
def Fld.MON_CH_COUNT_COUNT (i : Nat) : Fld := ⟨(Reg.MON_CH_COUNT i), 0, 32⟩
def Fld.MON_CH_ALARM_EN (i : Nat) : Fld := ⟨(Reg.MON_CH_ALARM i), 31, 1⟩
def Fld.MON_CH_ALARM_THRESH (i : Nat) : Fld := ⟨(Reg.MON_CH_ALARM i), 0, 31⟩
def Fld.MON_CH_LAST_LAST (i : Nat) : Fld := ⟨(Reg.MON_CH_LAST i), 0, 32⟩
def Fld.MON_CH_BIN_COUNT (i j : Nat) : Fld := ⟨(Reg.MON_CH_BIN i j), 0, 32⟩

end Sys2Proof.Machine
end

