-- ==== Sys2Proof/Machine/RegTable.lean ====
section
/-! DEFINITION. The register tables of spec/02 to spec/17 as data: where each register lies, and
for each field its bits, its access type (R7), its change class (R8) and its reset value (R9). A
field the tables do not list is reserved (R6); an offset no row covers is reserved (R5). -/

namespace Sys2Proof.Machine

def regRowsSYS0 : List RegDesc :=
  [-- SYS_PWR_CTRL
   ⟨0x0, 1, 0x100, [], .none, false,
    [⟨16, 16, .wo, .live, .const 0⟩,
     ⟨4, 1, .rw, .live, .const 0⟩,
     ⟨0, 2, .rw, .live, .const 0⟩]⟩,
   -- SYS_PWR_STATUS
   ⟨0x0, 1, 0x104, [], .none, false,
    [⟨21, 1, .w1c, .live, .const 0⟩,
     ⟨20, 1, .w1c, .live, .const 0⟩,
     ⟨16, 2, .ro, .live, .const 0⟩,
     ⟨12, 2, .ro, .live, .const 0⟩,
     ⟨9, 1, .w1c, .live, .const 0⟩,
     ⟨8, 1, .ro, .live, .const 0⟩,
     ⟨0, 2, .ro, .live, .const 0⟩]⟩,
   -- SYS_IDLE_DELAY
   ⟨0x0, 1, 0x108, [], .none, false,
    [⟨0, 20, .rw, .live, .const 0x3E8⟩]⟩,
   -- SYS_RESET_CAUSE
   ⟨0x0, 1, 0x10C, [], .none, false,
    [⟨8, 1, .ro, .live, .const 0⟩,
     ⟨0, 4, .ro, .live, .const 1⟩]⟩,
   -- SYS_SOFT_RESET
   ⟨0x0, 1, 0x110, [], .none, false,
    [⟨16, 16, .wo, .live, .const 0⟩,
     ⟨0, 1, .wo, .live, .const 0⟩]⟩,
   -- SYS_CFG_REJECT_INFO
   ⟨0x0, 1, 0x200, [], .none, false,
    [⟨31, 1, .w1c, .live, .const 0⟩,
     ⟨16, 14, .ro, .live, .const 0⟩,
     ⟨8, 8, .ro, .live, .const 0⟩,
     ⟨0, 8, .ro, .live, .const 0⟩]⟩,
   -- SYS_CFG_REJECT_COUNT
   ⟨0x0, 1, 0x204, [], .none, false,
    [⟨0, 16, .rw, .live, .const 0⟩]⟩]

/-- The registers of SYS. -/
def regRowsSYS : List RegDesc := regRowsSYS0

def regRowsPCIE0 : List RegDesc :=
  [-- PCIE_AP
   ⟨0xE, 1, 0x100, [(4, 0x4)], .none, false,
    [⟨31, 1, .rw, .live, .only 0 1⟩,
     ⟨24, 6, .rw, .live, .const 0⟩,
     ⟨0, 20, .rw, .live, .only 0 0x10000⟩]⟩]

/-- The registers of PCIE. -/
def regRowsPCIE : List RegDesc := regRowsPCIE0

def regRowsCHAIN0 : List RegDesc :=
  [-- CHAIN_STATUS
   ⟨0xF, 1, 0x0, [], .none, false,
    [⟨24, 8, .ro, .live, .const 0⟩,
     ⟨17, 7, .ro, .live, .const 0⟩,
     ⟨16, 1, .ro, .live, .const 0⟩,
     ⟨8, 6, .ro, .live, .const 0⟩,
     ⟨7, 1, .ro, .live, .const 0⟩,
     ⟨6, 1, .w1c, .live, .const 0⟩,
     ⟨5, 1, .ro, .live, .const 0⟩,
     ⟨4, 1, .ro, .live, .const 0⟩,
     ⟨1, 1, .ro, .live, .const 0⟩,
     ⟨0, 1, .ro, .live, .const 0⟩]⟩,
   -- CHAIN_ENUM_CTRL
   ⟨0xF, 1, 0x4, [], .none, false,
    [⟨0, 1, .wo, .live, .const 0⟩]⟩,
   -- CHAIN_HOST_ERR
   ⟨0xF, 1, 0x8, [], .none, false,
    [⟨24, 8, .w1cCount, .live, .const 0⟩,
     ⟨16, 8, .w1cCount, .live, .const 0⟩,
     ⟨8, 8, .w1cCount, .live, .const 0⟩,
     ⟨0, 8, .w1cCount, .live, .const 0⟩]⟩,
   -- CHAIN_UNIT_ID
   ⟨0xF, 1, 0x10, [], .none, false,
    [⟨0, 32, .ro, .live, .fuse 0⟩]⟩]

/-- The registers of CHAIN. -/
def regRowsCHAIN : List RegDesc := regRowsCHAIN0

def regRowsBOOT0 : List RegDesc :=
  [-- BOOT_STATUS
   ⟨0x5, 1, 0x0, [], .none, false,
    [⟨16, 5, .ro, .live, .const 0⟩,
     ⟨12, 2, .ro, .live, .const 0⟩,
     ⟨8, 3, .ro, .live, .const 0⟩,
     ⟨0, 8, .ro, .live, .const 0⟩]⟩,
   -- BOOT_HOST_LOAD
   ⟨0x5, 1, 0x4, [], .none, false,
    [⟨31, 1, .wo, .live, .const 0⟩,
     ⟨0, 24, .wo, .live, .const 0⟩]⟩]

/-- The registers of BOOT. -/
def regRowsBOOT : List RegDesc := regRowsBOOT0

def regRowsSEQ0 : List RegDesc :=
  [-- SEQ_CTRL
   ⟨0xA0, 24, 0x0, [], .none, false,
    [⟨8, 1, .rw, .live, .const 0⟩,
     ⟨3, 1, .wo, .live, .const 0⟩,
     ⟨2, 1, .wo, .live, .const 0⟩,
     ⟨1, 1, .wo, .live, .const 0⟩,
     ⟨0, 1, .wo, .live, .const 0⟩]⟩,
   -- SEQ_STATUS
   ⟨0xA0, 24, 0x4, [], .none, false,
    [⟨16, 1, .w1c, .live, .const 0⟩,
     ⟨8, 3, .ro, .live, .const 0⟩,
     ⟨0, 3, .ro, .live, .only 23 1⟩]⟩,
   -- SEQ_PC
   ⟨0xA0, 24, 0x8, [], .none, false,
    [⟨15, 3, .ro, .live, .const 0⟩,
     ⟨2, 13, .rw, .held, .const 0⟩]⟩,
   -- SEQ_CAUSE
   ⟨0xA0, 24, 0xC, [], .none, false,
    [⟨0, 8, .ro, .live, .const 0⟩]⟩,
   -- SEQ_FAULT_INFO
   ⟨0xA0, 24, 0x14, [], .none, false,
    [⟨0, 32, .ro, .live, .const 0⟩]⟩,
   -- SEQ_WAIT_LIMIT
   ⟨0xA0, 24, 0x18, [], .none, false,
    [⟨0, 20, .rw, .held, .const 0⟩]⟩,
   -- SEQ_EVT_PEND
   ⟨0xA0, 24, 0x1C, [], .none, false,
    [⟨0, 32, .w1c, .live, .const 0⟩]⟩,
   -- SEQ_WIN
   ⟨0xA0, 24, 0x20, [], .none, false,
    [⟨24, 8, .ro, .live, .lin 0xA0 1⟩,
     ⟨16, 8, .ro, .live, .lin 0xA0 1⟩,
     ⟨8, 8, .ro, .live, .lin 0xA0 1⟩,
     ⟨0, 8, .ro, .live, .lin 0xA0 1⟩]⟩,
   -- SEQ_CYCLES
   ⟨0xA0, 24, 0x24, [], .none, false,
    [⟨0, 32, .ro, .live, .const 0⟩]⟩,
   -- SEQ_DBG_SEL
   ⟨0xA0, 24, 0x28, [], .none, false,
    [⟨0, 5, .rw, .live, .const 0⟩]⟩,
   -- SEQ_DBG_DATA
   ⟨0xA0, 24, 0x2C, [], .none, false,
    [⟨0, 32, .rw, .held, .const 0⟩]⟩,
   -- SEQ_BKPT
   ⟨0xA0, 24, 0x30, [(2, 0x4)], .none, false,
    [⟨31, 1, .rw, .held, .const 0⟩,
     ⟨2, 13, .rw, .held, .const 0⟩]⟩]

def regRowsSEQ1 : List RegDesc :=
  [-- SEQ_ECC
   ⟨0xA0, 24, 0x38, [], .none, false,
    [⟨16, 16, .rw, .live, .const 0⟩,
     ⟨0, 16, .rw, .live, .const 0⟩]⟩]

/-- The registers of SEQ. -/
def regRowsSEQ : List RegDesc := regRowsSEQ0 ++ regRowsSEQ1

def regRowsETH0 : List RegDesc :=
  [-- ETH_CTRL
   ⟨0x10, 4, 0x0, [], .none, false,
    [⟨5, 1, .rw, .live, .const 1⟩,
     ⟨2, 2, .rw, .held, .const 0⟩,
     ⟨1, 1, .rw, .held, .const 0⟩,
     ⟨0, 1, .rw, .live, .const 0⟩]⟩,
   -- ETH_STATUS
   ⟨0x10, 4, 0x4, [], .none, false,
    [⟨8, 1, .w1c, .live, .const 0⟩,
     ⟨4, 1, .ro, .live, .const 0⟩,
     ⟨3, 1, .ro, .live, .const 0⟩,
     ⟨2, 1, .ro, .live, .const 0⟩,
     ⟨1, 1, .ro, .live, .const 0⟩,
     ⟨0, 1, .ro, .live, .const 0⟩]⟩,
   -- ETH_MAC_HI
   ⟨0x10, 4, 0x8, [], .none, false,
    [⟨0, 16, .rw, .held, .macHi⟩]⟩,
   -- ETH_MAC_LO
   ⟨0x10, 4, 0xC, [], .none, false,
    [⟨0, 32, .rw, .held, .macLo⟩]⟩,
   -- ETH_RX_DROP
   ⟨0x10, 4, 0x20, [], .none, false,
    [⟨24, 8, .w1cCount, .live, .const 0⟩,
     ⟨16, 8, .w1cCount, .live, .const 0⟩,
     ⟨8, 8, .w1cCount, .live, .const 0⟩,
     ⟨0, 8, .w1cCount, .live, .const 0⟩]⟩]

/-- The registers of ETH. -/
def regRowsETH : List RegDesc := regRowsETH0

def regRowsINGEST0 : List RegDesc :=
  [-- INGEST_CTRL
   ⟨0x14, 1, 0x0, [], .none, false,
    [⟨0, 20, .rw, .live, .const 0x3E8⟩]⟩,
   -- INGEST_STATUS
   ⟨0x14, 1, 0x4, [], .none, false,
    [⟨0, 1, .w1c, .live, .const 0⟩]⟩,
   -- INGEST_SESS_INDEX
   ⟨0x14, 1, 0x8, [], .none, true,
    [⟨0, 12, .rw, .live, .const 0⟩]⟩,
   -- INGEST_HQ_BASE_LO
   ⟨0x14, 1, 0x200, [(6, 0x10)], .none, false,
    [⟨12, 20, .rw, .held, .const 0⟩,
     ⟨4, 4, .rw, .held, .const 4⟩,
     ⟨0, 1, .rw, .live, .const 0⟩]⟩,
   -- INGEST_HQ_BASE_HI
   ⟨0x14, 1, 0x204, [(6, 0x10)], .none, false,
    [⟨0, 32, .rw, .held, .const 0⟩]⟩,
   -- INGEST_HQ_PTR
   ⟨0x14, 1, 0x208, [(5, 0x10)], .none, false,
    [⟨16, 16, .ro, .live, .const 0⟩,
     ⟨0, 16, .rw, .live, .const 0⟩]⟩,
   -- INGEST_HQ5_PTR
   ⟨0x14, 1, 0x258, [], .none, false,
    [⟨16, 16, .rw, .live, .const 0⟩,
     ⟨0, 16, .ro, .live, .const 0⟩]⟩,
   -- INGEST_HQ_DROP
   ⟨0x14, 1, 0x20C, [(6, 0x10)], .none, false,
    [⟨0, 32, .rw, .live, .const 0⟩]⟩,
   -- INGEST_SESS_CTRL
   ⟨0x14, 1, 0x1000, [], .sess, false,
    [⟨31, 1, .rw, .live, .const 0⟩,
     ⟨30, 1, .rw, .live, .const 0⟩,
     ⟨29, 1, .rw, .held, .const 0⟩,
     ⟨21, 8, .rw, .held, .const 0⟩,
     ⟨19, 2, .rw, .held, .const 0⟩,
     ⟨17, 2, .rw, .held, .const 0⟩,
     ⟨16, 1, .rw, .held, .const 0⟩,
     ⟨15, 1, .rw, .held, .const 0⟩,
     ⟨14, 1, .rw, .held, .const 0⟩,
     ⟨13, 1, .rw, .held, .const 0⟩,
     ⟨12, 1, .rw, .held, .const 0⟩,
     ⟨11, 1, .rw, .held, .const 0⟩,
     ⟨4, 7, .rw, .held, .const 0⟩,
     ⟨0, 4, .rw, .held, .const 0⟩]⟩,
   -- INGEST_SESS_MATCH
   ⟨0x14, 1, 0x1004, [], .sess, false,
    [⟨31, 1, .rw, .held, .const 0⟩,
     ⟨16, 12, .rw, .held, .const 0⟩,
     ⟨0, 16, .rw, .held, .const 0⟩]⟩,
   -- INGEST_SESS_SSRC
   ⟨0x14, 1, 0x1008, [], .sess, false,
    [⟨0, 32, .rw, .held, .const 0⟩]⟩,
   -- INGEST_SESS_TIMING
   ⟨0x14, 1, 0x100C, [], .sess, false,
    [⟨16, 16, .rw, .live, .const 0⟩,
     ⟨8, 8, .rw, .live, .const 0⟩]⟩]

def regRowsINGEST1 : List RegDesc :=
  [-- INGEST_SESS_DST
   ⟨0x14, 1, 0x1010, [(4, 0x4)], .sess, false,
    [⟨0, 32, .rw, .held, .const 0⟩]⟩,
   -- INGEST_SESS_SRC
   ⟨0x14, 1, 0x1020, [(4, 0x4)], .sess, false,
    [⟨0, 32, .rw, .held, .const 0⟩]⟩,
   -- INGEST_SESS_BUF
   ⟨0x14, 1, 0x1030, [], .sess, false,
    [⟨8, 24, .rw, .held, .const 0⟩,
     ⟨0, 8, .rw, .held, .const 0⟩]⟩,
   -- INGEST_SESS_RELAY
   ⟨0x14, 1, 0x1034, [], .sess, false,
    [⟨24, 6, .rw, .held, .const 0⟩,
     ⟨0, 12, .rw, .held, .const 0⟩]⟩,
   -- INGEST_SESS_ALLOW
   ⟨0x14, 1, 0x1038, [], .sess, false,
    [⟨0, 24, .rw, .live, .const 0⟩]⟩,
   -- INGEST_SESS_RTP_OFFSET
   ⟨0x14, 1, 0x103C, [], .sess, false,
    [⟨0, 32, .rw, .held, .const 0⟩]⟩,
   -- INGEST_SESS_MAP_RTP
   ⟨0x14, 1, 0x1040, [], .sess, false,
    [⟨0, 32, .rw, .live, .const 0⟩]⟩,
   -- INGEST_SESS_MAP_SEC
   ⟨0x14, 1, 0x1044, [], .sess, false,
    [⟨0, 32, .rw, .live, .const 0⟩]⟩,
   -- INGEST_SESS_MAP_NS
   ⟨0x14, 1, 0x1048, [], .sess, false,
    [⟨31, 1, .rw, .live, .const 0⟩,
     ⟨0, 30, .rw, .live, .const 0⟩]⟩,
   -- INGEST_SESS_STATUS
   ⟨0x14, 1, 0x1050, [], .sess, false,
    [⟨31, 1, .ro, .live, .const 1⟩,
     ⟨30, 1, .ro, .live, .const 0⟩,
     ⟨29, 1, .w1c, .live, .const 0⟩,
     ⟨28, 1, .ro, .live, .const 0⟩,
     ⟨8, 16, .ro, .live, .const 0⟩,
     ⟨0, 8, .ro, .live, .const 0⟩]⟩,
   -- INGEST_SESS_CNT
   ⟨0x14, 1, 0x1060, [(8, 0x4)], .sess, false,
    [⟨0, 32, .rw, .live, .const 0⟩]⟩]

/-- The registers of INGEST. -/
def regRowsINGEST : List RegDesc := regRowsINGEST0 ++ regRowsINGEST1

def regRowsDECSCHED0 : List RegDesc :=
  [-- DECSCHED_CTRL
   ⟨0x1B, 1, 0x0, [], .none, false,
    [⟨2, 1, .rw, .live, .const 1⟩,
     ⟨1, 1, .rw, .live, .const 1⟩,
     ⟨0, 1, .rw, .live, .const 0⟩]⟩,
   -- DECSCHED_STATUS
   ⟨0x1B, 1, 0x4, [], .none, false,
    [⟨31, 1, .w1c, .live, .const 0⟩,
     ⟨30, 1, .w1c, .live, .const 0⟩,
     ⟨24, 1, .ro, .live, .const 0⟩,
     ⟨16, 8, .ro, .live, .const 0⟩,
     ⟨0, 16, .ro, .live, .const 0⟩]⟩,
   -- DECSCHED_CTX_BASE
   ⟨0x1B, 1, 0x20, [], .none, false,
    [⟨12, 20, .rw, .held, .const 0⟩]⟩,
   -- DECSCHED_SHED_CTRL
   ⟨0x1B, 1, 0x24, [], .none, false,
    [⟨8, 8, .rw, .live, .const 0xC8⟩,
     ⟨0, 8, .rw, .live, .const 0x64⟩]⟩,
   -- DECSCHED_RETIRE
   ⟨0x1B, 1, 0x28, [], .none, false,
    [⟨31, 1, .ro, .live, .const 0⟩,
     ⟨30, 1, .ro, .live, .const 0⟩,
     ⟨0, 14, .ro, .live, .const 0⟩]⟩,
   -- DECSCHED_STREAM_INDEX
   ⟨0x1B, 1, 0x100, [], .none, true,
    [⟨0, 11, .rw, .live, .const 0⟩]⟩,
   -- DECSCHED_STREAM_CTRL
   ⟨0x1B, 1, 0x104, [], .stream, false,
    [⟨31, 1, .rw, .live, .const 0⟩,
     ⟨30, 1, .rw, .live, .const 0⟩,
     ⟨27, 3, .rw, .live, .const 0⟩,
     ⟨23, 4, .rw, .held, .const 0⟩,
     ⟨17, 6, .rw, .held, .const 0⟩,
     ⟨0, 12, .rw, .held, .const 0⟩]⟩,
   -- DECSCHED_STREAM_GEOM
   ⟨0x1B, 1, 0x108, [], .stream, false,
    [⟨24, 8, .rw, .held, .const 0⟩,
     ⟨16, 8, .rw, .held, .const 0⟩]⟩,
   -- DECSCHED_STREAM_DESC
   ⟨0x1B, 1, 0x10C, [], .stream, false,
    [⟨24, 8, .rw, .held, .const 0⟩,
     ⟨0, 14, .rw, .held, .const 0⟩]⟩,
   -- DECSCHED_STREAM_IDLE_DL
   ⟨0x1B, 1, 0x110, [], .stream, false,
    [⟨0, 24, .rw, .live, .const 0⟩]⟩,
   -- DECSCHED_STREAM_STATUS
   ⟨0x1B, 1, 0x114, [], .stream, false,
    [⟨31, 1, .ro, .live, .const 1⟩,
     ⟨30, 1, .w1c, .live, .const 0⟩,
     ⟨29, 1, .ro, .live, .const 0⟩,
     ⟨28, 1, .ro, .live, .const 0⟩,
     ⟨16, 3, .ro, .live, .const 0⟩,
     ⟨0, 8, .ro, .live, .const 0⟩]⟩,
   -- DECSCHED_STREAM_LAST
   ⟨0x1B, 1, 0x118, [], .stream, false,
    [⟨0, 14, .ro, .live, .const 0x3FFF⟩]⟩]

def regRowsDECSCHED1 : List RegDesc :=
  [-- DECSCHED_STREAM_CNT
   ⟨0x1B, 1, 0x120, [(8, 0x4)], .stream, false,
    [⟨0, 32, .rw, .live, .const 0⟩]⟩,
   -- DECSCHED_DESC_INDEX
   ⟨0x1B, 1, 0x200, [], .none, true,
    [⟨0, 14, .rw, .live, .const 0⟩]⟩,
   -- DECSCHED_DESC_ADDR_LO
   ⟨0x1B, 1, 0x204, [], .desc, false,
    [⟨12, 20, .rw, .held, .const 0⟩]⟩,
   -- DECSCHED_DESC_ADDR_HI
   ⟨0x1B, 1, 0x208, [], .desc, false,
    [⟨0, 8, .rw, .held, .const 0⟩]⟩,
   -- DECSCHED_DESC_STATE
   ⟨0x1B, 1, 0x20C, [], .desc, false,
    [⟨30, 2, .ro, .live, .const 0⟩,
     ⟨20, 10, .ro, .live, .const 0⟩,
     ⟨19, 1, .ro, .live, .const 0⟩,
     ⟨18, 1, .ro, .live, .const 0⟩,
     ⟨17, 1, .ro, .live, .const 0⟩,
     ⟨16, 1, .ro, .live, .const 0⟩,
     ⟨15, 1, .ro, .live, .const 0⟩,
     ⟨14, 1, .ro, .live, .const 0⟩,
     ⟨13, 1, .ro, .live, .const 0⟩,
     ⟨0, 11, .ro, .live, .const 0⟩]⟩,
   -- DECSCHED_DESC_CAPT_SEC
   ⟨0x1B, 1, 0x210, [], .desc, false,
    [⟨0, 32, .ro, .live, .const 0⟩]⟩,
   -- DECSCHED_DESC_CAPT_NS
   ⟨0x1B, 1, 0x214, [], .desc, false,
    [⟨0, 30, .ro, .live, .const 0⟩]⟩,
   -- DECSCHED_DESC_SIZE
   ⟨0x1B, 1, 0x218, [], .desc, false,
    [⟨16, 16, .ro, .live, .const 0⟩,
     ⟨0, 16, .ro, .live, .const 0⟩]⟩,
   -- DECSCHED_DESC_SIG
   ⟨0x1B, 1, 0x21C, [], .desc, false,
    [⟨0, 32, .ro, .live, .const 0⟩]⟩,
   -- DECSCHED_DESC_LIVE
   ⟨0x1B, 1, 0x220, [], .desc, false,
    [⟨16, 16, .ro, .live, .const 0⟩,
     ⟨15, 1, .ro, .live, .const 0⟩,
     ⟨14, 1, .ro, .live, .const 0⟩,
     ⟨13, 1, .ro, .live, .const 0⟩,
     ⟨12, 1, .ro, .live, .const 0⟩,
     ⟨0, 5, .ro, .live, .const 0⟩]⟩,
   -- DECSCHED_DESC_CMD
   ⟨0x1B, 1, 0x224, [], .desc, false,
    [⟨2, 1, .wo, .live, .const 0⟩,
     ⟨1, 1, .wo, .live, .const 0⟩,
     ⟨0, 1, .wo, .live, .const 0⟩]⟩]

/-- The registers of DECSCHED. -/
def regRowsDECSCHED : List RegDesc := regRowsDECSCHED0 ++ regRowsDECSCHED1

def regRowsDEC0 : List RegDesc :=
  [-- DEC_CTRL
   ⟨0x20, 64, 0x0, [], .none, false,
    [⟨0, 1, .rw, .live, .const 1⟩]⟩,
   -- DEC_STATUS
   ⟨0x20, 64, 0x4, [], .none, false,
    [⟨30, 2, .ro, .live, .const 0⟩,
     ⟨16, 11, .ro, .live, .const 0⟩,
     ⟨8, 8, .ro, .live, .const 0⟩]⟩,
   -- DEC_QUEUE_WORK
   ⟨0x20, 64, 0x8, [], .none, false,
    [⟨0, 20, .ro, .live, .const 0⟩]⟩,
   -- DEC_BUSY
   ⟨0x20, 64, 0xC, [], .none, false,
    [⟨0, 10, .ro, .live, .const 0⟩]⟩,
   -- DEC_CNT_PART
   ⟨0x20, 64, 0x20, [], .none, false,
    [⟨0, 32, .rw, .live, .const 0⟩]⟩,
   -- DEC_CNT_STEAL
   ⟨0x20, 64, 0x24, [], .none, false,
    [⟨0, 32, .rw, .live, .const 0⟩]⟩,
   -- DEC_CNT_SWITCH
   ⟨0x20, 64, 0x28, [], .none, false,
    [⟨0, 32, .rw, .live, .const 0⟩]⟩,
   -- DEC_CNT_TIMEOUT
   ⟨0x20, 64, 0x2C, [], .none, false,
    [⟨0, 32, .rw, .live, .const 0⟩]⟩]

/-- The registers of DEC. -/
def regRowsDEC : List RegDesc := regRowsDEC0

def regRowsFRESH0 : List RegDesc :=
  [-- FRESH_STATUS
   ⟨0x19, 1, 0x0, [], .none, false,
    [⟨3, 1, .ro, .live, .const 1⟩,
     ⟨1, 1, .ro, .live, .const 1⟩,
     ⟨0, 1, .ro, .live, .const 1⟩]⟩,
   -- FRESH_COMMIT
   ⟨0x19, 1, 0x10, [], .none, false,
    [⟨0, 20, .wo, .live, .const 0⟩]⟩,
   -- FRESH_LAST_CHANGE
   ⟨0x19, 1, 0x20, [], .none, false,
    [⟨31, 1, .w1c, .live, .const 0⟩,
     ⟨16, 9, .ro, .live, .const 0⟩,
     ⟨8, 3, .ro, .live, .const 0⟩,
     ⟨0, 3, .ro, .live, .const 0⟩]⟩,
   -- FRESH_CHANGE_COUNT
   ⟨0x19, 1, 0x24, [], .none, false,
    [⟨0, 32, .rw, .live, .const 0⟩]⟩,
   -- FRESH_LAYER_INDEX
   ⟨0x19, 1, 0x100, [], .none, true,
    [⟨0, 9, .rw, .live, .const 0⟩]⟩,
   -- FRESH_LAYER_WARN
   ⟨0x19, 1, 0x104, [], .layer, false,
    [⟨0, 24, .rw, .shadow, .const 0x186A0⟩]⟩,
   -- FRESH_LAYER_LIMIT
   ⟨0x19, 1, 0x108, [], .layer, false,
    [⟨0, 24, .rw, .shadow, .const 0x3D090⟩]⟩,
   -- FRESH_LAYER_CFG
   ⟨0x19, 1, 0x10C, [], .layer, false,
    [⟨31, 1, .rw, .shadow, .const 1⟩,
     ⟨30, 1, .rw, .shadow, .const 0⟩,
     ⟨29, 1, .rw, .shadow, .const 0⟩,
     ⟨0, 2, .rw, .shadow, .const 0⟩]⟩,
   -- FRESH_LAYER_HATCH
   ⟨0x19, 1, 0x110, [], .layer, false,
    [⟨20, 10, .rw, .shadow, .const 0x3FF⟩,
     ⟨10, 10, .rw, .shadow, .const 0x200⟩,
     ⟨0, 10, .rw, .shadow, .const 0⟩]⟩,
   -- FRESH_LAYER_STATUS
   ⟨0x19, 1, 0x114, [], .layer, false,
    [⟨24, 2, .ro, .live, .const 0⟩,
     ⟨23, 1, .w1c, .live, .const 0⟩,
     ⟨22, 1, .ro, .live, .const 0⟩,
     ⟨21, 1, .ro, .live, .const 0⟩,
     ⟨20, 1, .ro, .live, .const 0⟩,
     ⟨19, 1, .ro, .live, .const 0⟩,
     ⟨18, 1, .ro, .live, .const 0⟩,
     ⟨8, 3, .ro, .live, .const 5⟩,
     ⟨4, 3, .ro, .live, .const 5⟩,
     ⟨0, 3, .ro, .live, .const 5⟩]⟩,
   -- FRESH_LAYER_CAUSE
   ⟨0x19, 1, 0x118, [], .layer, false,
    [⟨9, 1, .ro, .live, .const 1⟩,
     ⟨8, 1, .ro, .live, .const 0⟩,
     ⟨7, 1, .ro, .live, .const 0⟩,
     ⟨6, 1, .ro, .live, .const 0⟩,
     ⟨5, 1, .ro, .live, .const 0⟩,
     ⟨4, 1, .ro, .live, .const 0⟩,
     ⟨3, 1, .ro, .live, .const 0⟩,
     ⟨2, 1, .ro, .live, .const 0⟩,
     ⟨1, 1, .ro, .live, .const 0⟩,
     ⟨0, 1, .ro, .live, .const 0⟩]⟩,
   -- FRESH_LAYER_AGE_FIRST
   ⟨0x19, 1, 0x11C, [], .layer, false,
    [⟨0, 32, .ro, .live, .const 0⟩]⟩]

def regRowsFRESH1 : List RegDesc :=
  [-- FRESH_LAYER_AGE_LAST
   ⟨0x19, 1, 0x120, [], .layer, false,
    [⟨0, 32, .ro, .live, .const 0⟩]⟩,
   -- FRESH_LAYER_CNT_HATCH
   ⟨0x19, 1, 0x124, [], .layer, false,
    [⟨0, 32, .rw, .live, .const 0⟩]⟩,
   -- FRESH_STREAM_INDEX
   ⟨0x19, 1, 0x200, [], .none, true,
    [⟨0, 11, .rw, .live, .const 0⟩]⟩,
   -- FRESH_STREAM_FREEZE
   ⟨0x19, 1, 0x204, [], .fstream, false,
    [⟨16, 1, .rw, .live, .const 0⟩,
     ⟨8, 8, .rw, .live, .const 0x1E⟩,
     ⟨0, 8, .rw, .live, .const 3⟩]⟩,
   -- FRESH_STREAM_STATUS
   ⟨0x19, 1, 0x208, [], .fstream, false,
    [⟨31, 1, .ro, .live, .const 0⟩,
     ⟨30, 1, .ro, .live, .const 0⟩,
     ⟨8, 8, .ro, .live, .const 0⟩,
     ⟨0, 8, .ro, .live, .const 0⟩]⟩]

/-- The registers of FRESH. -/
def regRowsFRESH : List RegDesc := regRowsFRESH0 ++ regRowsFRESH1

def regRowsLAYERPOOL0 : List RegDesc :=
  [-- LAYERPOOL_STATUS
   ⟨0x1D, 1, 0x0, [], .none, false,
    [⟨31, 1, .w1c, .live, .const 0⟩,
     ⟨30, 1, .w1c, .live, .const 0⟩,
     ⟨0, 9, .ro, .live, .const 0x180⟩]⟩,
   -- LAYERPOOL_COMMIT
   ⟨0x1D, 1, 0x10, [], .none, false,
    [⟨0, 20, .wo, .live, .const 0⟩]⟩,
   -- LAYERPOOL_GEOM_REJECT
   ⟨0x1D, 1, 0x20, [], .none, false,
    [⟨0, 20, .w1c, .live, .const 0⟩]⟩,
   -- LAYERPOOL_GEOM_CAUSE
   ⟨0x1D, 1, 0x24, [], .none, false,
    [⟨31, 1, .w1c, .live, .const 0⟩,
     ⟨16, 5, .ro, .live, .const 0⟩,
     ⟨4, 9, .ro, .live, .const 0⟩,
     ⟨0, 4, .ro, .live, .const 0⟩]⟩,
   -- LAYERPOOL_CSC_A
   ⟨0x1D, 1, 0x800, [(64, 0x20), (3, 0x8)], .none, false,
    [⟨16, 16, .rw, .held, .const 0⟩,
     ⟨0, 16, .rw, .held, .const 0⟩]⟩,
   -- LAYERPOOL_CSC_B
   ⟨0x1D, 1, 0x804, [(64, 0x20), (3, 0x8)], .none, false,
    [⟨16, 16, .rw, .held, .const 0⟩,
     ⟨0, 13, .rw, .held, .const 0⟩]⟩,
   -- LAYER_OWN
   ⟨0x1D, 1, 0x1000, [(384, 0x40)], .none, false,
    [⟨31, 1, .rw, .held, .const 0⟩,
     ⟨0, 5, .rw, .held, .const 0⟩]⟩,
   -- LAYER_CTRL
   ⟨0x1D, 1, 0x1004, [(384, 0x40)], .none, false,
    [⟨31, 1, .rw, .shadow, .const 0⟩,
     ⟨28, 2, .rw, .shadow, .const 0⟩,
     ⟨27, 1, .rw, .shadow, .const 0⟩,
     ⟨26, 1, .rw, .shadow, .const 0⟩,
     ⟨24, 2, .rw, .shadow, .const 0⟩,
     ⟨16, 5, .rw, .shadow, .const 0⟩,
     ⟨0, 11, .rw, .shadow, .const 0⟩]⟩,
   -- LAYER_DST_POS
   ⟨0x1D, 1, 0x1008, [(384, 0x40)], .none, false,
    [⟨16, 16, .rw, .shadow, .const 0⟩,
     ⟨0, 16, .rw, .shadow, .const 0⟩]⟩,
   -- LAYER_DST_SIZE
   ⟨0x1D, 1, 0x100C, [(384, 0x40)], .none, false,
    [⟨16, 16, .rw, .shadow, .const 0⟩,
     ⟨0, 16, .rw, .shadow, .const 0⟩]⟩,
   -- LAYER_SRC_POS
   ⟨0x1D, 1, 0x1010, [(384, 0x40)], .none, false,
    [⟨16, 16, .rw, .shadow, .const 0⟩,
     ⟨0, 16, .rw, .shadow, .const 0⟩]⟩,
   -- LAYER_SRC_SIZE
   ⟨0x1D, 1, 0x1014, [(384, 0x40)], .none, false,
    [⟨16, 16, .rw, .shadow, .const 0⟩,
     ⟨0, 16, .rw, .shadow, .const 0⟩]⟩]

def regRowsLAYERPOOL1 : List RegDesc :=
  [-- LAYER_FMT
   ⟨0x1D, 1, 0x1018, [(384, 0x40)], .none, false,
    [⟨28, 4, .rw, .shadow, .const 0⟩,
     ⟨24, 4, .rw, .shadow, .const 0xF⟩,
     ⟨16, 6, .rw, .shadow, .const 0⟩,
     ⟨0, 16, .rw, .shadow, .const 0⟩]⟩,
   -- LAYER_ADDR0
   ⟨0x1D, 1, 0x101C, [(384, 0x40)], .none, false,
    [⟨6, 26, .rw, .shadow, .const 0⟩]⟩,
   -- LAYER_ADDR1
   ⟨0x1D, 1, 0x1020, [(384, 0x40)], .none, false,
    [⟨6, 26, .rw, .shadow, .const 0⟩]⟩,
   -- LAYER_ADDR_HI
   ⟨0x1D, 1, 0x1024, [(384, 0x40)], .none, false,
    [⟨8, 8, .rw, .shadow, .const 0⟩,
     ⟨0, 8, .rw, .shadow, .const 0⟩]⟩,
   -- LAYER_ALPHA
   ⟨0x1D, 1, 0x1028, [(384, 0x40)], .none, false,
    [⟨16, 10, .rw, .shadow, .const 0x3FF⟩,
     ⟨0, 5, .rw, .shadow, .const 0x10⟩]⟩,
   -- LAYER_SOLID
   ⟨0x1D, 1, 0x102C, [(384, 0x40)], .none, false,
    [⟨20, 10, .rw, .shadow, .const 0⟩,
     ⟨10, 10, .rw, .shadow, .const 0⟩,
     ⟨0, 10, .rw, .shadow, .const 0⟩]⟩,
   -- LAYER_STATUS
   ⟨0x1D, 1, 0x1030, [(384, 0x40)], .none, false,
    [⟨31, 1, .ro, .live, .const 0⟩,
     ⟨30, 1, .ro, .live, .const 0⟩,
     ⟨29, 1, .ro, .live, .const 0⟩,
     ⟨28, 1, .ro, .live, .const 0⟩,
     ⟨26, 1, .ro, .live, .const 0⟩,
     ⟨16, 10, .ro, .live, .const 0⟩,
     ⟨0, 14, .ro, .live, .const 0x3FFF⟩]⟩,
   -- LAYER_CNT_NOT_READY
   ⟨0x1D, 1, 0x1034, [(384, 0x40)], .none, false,
    [⟨0, 32, .rw, .live, .const 0⟩]⟩]

/-- The registers of LAYERPOOL. -/
def regRowsLAYERPOOL : List RegDesc := regRowsLAYERPOOL0 ++ regRowsLAYERPOOL1

def regRowsLEASE0 : List RegDesc :=
  [-- LEASE_STATUS
   ⟨0x1A, 1, 0x0, [], .none, false,
    [⟨31, 1, .w1c, .live, .const 0⟩,
     ⟨0, 11, .ro, .live, .const 0⟩]⟩,
   -- LEASE_VIOL_ADDR_LO
   ⟨0x1A, 1, 0x20, [], .none, false,
    [⟨0, 32, .ro, .live, .const 0⟩]⟩,
   -- LEASE_VIOL_ADDR_HI
   ⟨0x1A, 1, 0x24, [], .none, false,
    [⟨0, 8, .ro, .live, .const 0⟩]⟩,
   -- LEASE_VIOL_INFO
   ⟨0x1A, 1, 0x28, [], .none, false,
    [⟨31, 1, .w1c, .live, .const 0⟩,
     ⟨16, 8, .ro, .live, .const 0⟩,
     ⟨10, 5, .ro, .live, .const 0⟩,
     ⟨0, 10, .ro, .live, .const 0⟩]⟩,
   -- LEASE_VIOL_COUNT
   ⟨0x1A, 1, 0x2C, [], .none, false,
    [⟨0, 32, .rw, .live, .const 0⟩]⟩,
   -- LEASE_ENDED
   ⟨0x1A, 1, 0x30, [], .none, false,
    [⟨31, 1, .ro, .live, .const 0⟩,
     ⟨30, 1, .ro, .live, .const 0⟩,
     ⟨20, 5, .ro, .live, .const 0⟩,
     ⟨19, 1, .ro, .live, .const 0⟩,
     ⟨0, 9, .ro, .live, .const 0⟩]⟩,
   -- LEASE_ENTRY_INDEX
   ⟨0x1A, 1, 0x100, [], .none, true,
    [⟨0, 10, .rw, .live, .const 0⟩]⟩,
   -- LEASE_ENTRY_START
   ⟨0x1A, 1, 0x104, [], .entry, false,
    [⟨0, 32, .ro, .live, .const 0⟩]⟩,
   -- LEASE_ENTRY_END
   ⟨0x1A, 1, 0x108, [], .entry, false,
    [⟨0, 32, .ro, .live, .const 0⟩]⟩,
   -- LEASE_ENTRY_HI
   ⟨0x1A, 1, 0x10C, [], .entry, false,
    [⟨8, 8, .ro, .live, .const 0⟩,
     ⟨0, 8, .ro, .live, .const 0⟩]⟩,
   -- LEASE_ENTRY_INFO
   ⟨0x1A, 1, 0x110, [], .entry, false,
    [⟨31, 1, .ro, .live, .const 0⟩,
     ⟨20, 5, .ro, .live, .const 0⟩,
     ⟨19, 1, .ro, .live, .const 0⟩,
     ⟨0, 9, .ro, .live, .const 0⟩]⟩]

/-- The registers of LEASE. -/
def regRowsLEASE : List RegDesc := regRowsLEASE0

def regRowsHEAD0 : List RegDesc :=
  [-- HEAD_CTRL
   ⟨0x80, 20, 0x0, [], .none, false,
    [⟨31, 1, .rw, .live, .const 0⟩,
     ⟨30, 1, .rw, .live, .const 0⟩,
     ⟨1, 1, .rw, .shadow, .const 0⟩,
     ⟨0, 1, .rw, .shadow, .const 0⟩]⟩,
   -- HEAD_STATUS
   ⟨0x80, 20, 0x4, [], .none, false,
    [⟨31, 1, .w1c, .live, .const 0⟩,
     ⟨30, 1, .w1c, .live, .const 0⟩,
     ⟨29, 1, .w1c, .live, .const 0⟩,
     ⟨28, 1, .w1c, .live, .const 0⟩,
     ⟨27, 1, .w1c, .live, .const 0⟩,
     ⟨20, 4, .ro, .live, .const 0⟩,
     ⟨7, 1, .ro, .live, .const 0⟩,
     ⟨6, 1, .ro, .live, .const 0⟩,
     ⟨5, 1, .ro, .live, .const 0⟩,
     ⟨4, 1, .ro, .live, .const 0⟩,
     ⟨2, 2, .ro, .live, .const 0⟩,
     ⟨1, 1, .ro, .live, .const 0⟩,
     ⟨0, 1, .ro, .live, .const 0⟩]⟩,
   -- HEAD_LATCH
   ⟨0x80, 20, 0x8, [], .none, false,
    [⟨16, 4, .rw, .live, .const 2⟩,
     ⟨0, 13, .rw, .held, .const 0x1FFF⟩]⟩,
   -- HEAD_LINE_MATCH
   ⟨0x80, 20, 0xC, [], .none, false,
    [⟨0, 13, .rw, .live, .const 0⟩]⟩,
   -- HEAD_COMMIT
   ⟨0x80, 20, 0x10, [], .none, false,
    [⟨16, 16, .wo, .live, .const 0⟩,
     ⟨0, 1, .wo, .live, .const 0⟩]⟩,
   -- HEAD_LATCHED
   ⟨0x80, 20, 0x14, [], .none, false,
    [⟨16, 16, .ro, .live, .const 0⟩]⟩,
   -- HEAD_POSITION
   ⟨0x80, 20, 0x18, [], .none, false,
    [⟨16, 16, .ro, .live, .const 0⟩,
     ⟨0, 13, .ro, .live, .const 0⟩]⟩,
   -- HEAD_HTIME_A
   ⟨0x80, 20, 0x20, [], .none, false,
    [⟨16, 14, .rw, .held, .const 0⟩,
     ⟨0, 14, .rw, .held, .const 0⟩]⟩,
   -- HEAD_HTIME_B
   ⟨0x80, 20, 0x24, [], .none, false,
    [⟨16, 14, .rw, .held, .const 0⟩,
     ⟨0, 14, .rw, .held, .const 0⟩]⟩,
   -- HEAD_VTIME_A
   ⟨0x80, 20, 0x28, [], .none, false,
    [⟨16, 13, .rw, .held, .const 0⟩,
     ⟨0, 13, .rw, .held, .const 0⟩]⟩,
   -- HEAD_VTIME_B
   ⟨0x80, 20, 0x2C, [], .none, false,
    [⟨16, 13, .rw, .held, .const 0⟩,
     ⟨0, 13, .rw, .held, .const 0⟩]⟩,
   -- HEAD_FRATE
   ⟨0x80, 20, 0x30, [], .none, false,
    [⟨12, 20, .rw, .held, .const 0⟩,
     ⟨0, 12, .rw, .held, .const 0⟩]⟩]

def regRowsHEAD1 : List RegDesc :=
  [-- HEAD_OUT_FMT
   ⟨0x80, 20, 0x34, [], .none, false,
    [⟨5, 1, .rw, .held, .const 0⟩,
     ⟨4, 1, .rw, .held, .const 0⟩,
     ⟨3, 1, .rw, .held, .const 0⟩,
     ⟨0, 3, .rw, .held, .const 1⟩]⟩,
   -- HEAD_LOCK_CTRL
   ⟨0x80, 20, 0x40, [], .none, false,
    [⟨30, 2, .rw, .held, .const 0⟩,
     ⟨16, 8, .rw, .live, .const 8⟩,
     ⟨0, 9, .rw, .live, .const 0x64⟩]⟩,
   -- HEAD_LOCK_PHASE
   ⟨0x80, 20, 0x44, [], .none, false,
    [⟨0, 30, .rw, .held, .const 0⟩]⟩,
   -- HEAD_LOCK_ERR
   ⟨0x80, 20, 0x48, [], .none, false,
    [⟨0, 32, .ro, .live, .const 0⟩]⟩,
   -- HEAD_PIPE_DELAY
   ⟨0x80, 20, 0x4C, [], .none, false,
    [⟨0, 16, .ro, .live, .const 0⟩]⟩,
   -- HEAD_BG
   ⟨0x80, 20, 0x50, [], .none, false,
    [⟨20, 10, .rw, .shadow, .const 0⟩,
     ⟨10, 10, .rw, .shadow, .const 0⟩,
     ⟨0, 10, .rw, .shadow, .const 0⟩]⟩,
   -- HEAD_OCSC_PRESET
   ⟨0x80, 20, 0x54, [], .none, false,
    [⟨0, 4, .rw, .shadow, .const 1⟩]⟩,
   -- HEAD_OCSC_A
   ⟨0x80, 20, 0x60, [(3, 0x8)], .none, false,
    [⟨16, 16, .rw, .shadow, .const 0⟩,
     ⟨0, 16, .rw, .shadow, .const 0⟩]⟩,
   -- HEAD_OCSC_B
   ⟨0x80, 20, 0x64, [(3, 0x8)], .none, false,
    [⟨16, 16, .rw, .shadow, .const 0⟩,
     ⟨0, 13, .rw, .shadow, .const 0⟩]⟩,
   -- HEAD_FS_ADDR
   ⟨0x80, 20, 0x80, [], .none, false,
    [⟨31, 1, .rw, .held, .const 0⟩,
     ⟨6, 21, .rw, .held, .const 0⟩]⟩,
   -- HEAD_SLATE_ADDR
   ⟨0x80, 20, 0x84, [], .none, false,
    [⟨31, 1, .rw, .held, .const 0⟩,
     ⟨6, 21, .rw, .held, .const 0⟩]⟩,
   -- HEAD_SLATE_SIZE
   ⟨0x80, 20, 0x88, [], .none, false,
    [⟨16, 13, .rw, .held, .const 0⟩,
     ⟨0, 13, .rw, .held, .const 0⟩]⟩]

def regRowsHEAD2 : List RegDesc :=
  [-- HEAD_TOL
   ⟨0x80, 20, 0x90, [], .none, false,
    [⟨0, 32, .ro, .live, .const 0xFFFFFFFF⟩]⟩,
   -- HEAD_FETCH
   ⟨0x80, 20, 0x94, [], .none, false,
    [⟨8, 5, .rw, .live, .const 4⟩,
     ⟨0, 4, .rw, .live, .const 4⟩]⟩,
   -- HEAD_UNDERRUN_CNT
   ⟨0x80, 20, 0xA0, [], .none, false,
    [⟨0, 32, .rw, .live, .const 0⟩]⟩,
   -- HEAD_UNDERRUN_FIRST
   ⟨0x80, 20, 0xA4, [], .none, false,
    [⟨31, 1, .w1c, .live, .const 0⟩,
     ⟨16, 13, .ro, .live, .const 0⟩,
     ⟨0, 13, .ro, .live, .const 0⟩]⟩,
   -- HEAD_PUSH
   ⟨0x80, 20, 0xB0, [], .none, false,
    [⟨16, 2, .rw, .shadow, .const 1⟩,
     ⟨8, 8, .rw, .shadow, .const 0x3C⟩,
     ⟨0, 4, .rw, .shadow, .const 2⟩]⟩,
   -- HEAD_PUSH_STATUS
   ⟨0x80, 20, 0xB4, [], .none, false,
    [⟨30, 2, .ro, .live, .const 0⟩,
     ⟨16, 13, .ro, .live, .const 0x1FFF⟩,
     ⟨0, 13, .ro, .live, .const 0x1FFF⟩]⟩,
   -- HEAD_FRAME_CRC
   ⟨0x80, 20, 0xC0, [], .none, false,
    [⟨0, 32, .ro, .live, .const 0⟩]⟩,
   -- HEAD_CW_STATUS
   ⟨0x80, 20, 0xC4, [], .none, false,
    [⟨16, 16, .w1c, .live, .const 0⟩,
     ⟨0, 16, .ro, .live, .const 0⟩]⟩,
   -- HEAD_CW_POS
   ⟨0x80, 20, 0x100, [(16, 0x10)], .none, false,
    [⟨30, 2, .rw, .shadow, .const 0⟩,
     ⟨16, 13, .rw, .shadow, .const 0⟩,
     ⟨0, 13, .rw, .shadow, .const 0⟩]⟩,
   -- HEAD_CW_SIZE
   ⟨0x80, 20, 0x104, [(16, 0x10)], .none, false,
    [⟨16, 13, .rw, .shadow, .const 0⟩,
     ⟨0, 13, .rw, .shadow, .const 0⟩]⟩,
   -- HEAD_CW_EXPECT
   ⟨0x80, 20, 0x108, [(16, 0x10)], .none, false,
    [⟨0, 32, .rw, .shadow, .const 0⟩]⟩,
   -- HEAD_CW_RESULT
   ⟨0x80, 20, 0x10C, [(16, 0x10)], .none, false,
    [⟨0, 32, .ro, .live, .const 0⟩]⟩]

def regRowsHEAD3 : List RegDesc :=
  [-- HEAD_DP_CTRL
   ⟨0x80, 16, 0x200, [], .none, false,
    [⟨31, 1, .wo, .live, .const 0⟩,
     ⟨30, 1, .rw, .live, .const 1⟩,
     ⟨29, 1, .rw, .held, .const 0⟩,
     ⟨4, 2, .rw, .held, .const 2⟩,
     ⟨0, 3, .rw, .held, .const 3⟩]⟩,
   -- HEAD_DP_STATUS
   ⟨0x80, 16, 0x204, [], .none, false,
    [⟨31, 1, .ro, .live, .const 0⟩,
     ⟨30, 1, .w1c, .live, .const 0⟩,
     ⟨29, 1, .w1c, .live, .const 0⟩,
     ⟨28, 1, .w1c, .live, .const 0⟩,
     ⟨27, 1, .ro, .live, .const 0⟩,
     ⟨26, 1, .ro, .live, .const 0⟩,
     ⟨25, 1, .ro, .live, .const 0⟩,
     ⟨24, 1, .ro, .live, .const 0⟩,
     ⟨4, 2, .ro, .live, .const 0⟩,
     ⟨0, 3, .ro, .live, .const 0⟩]⟩,
   -- HEAD_AUX_CTRL
   ⟨0x80, 16, 0x208, [], .none, false,
    [⟨31, 1, .wo, .live, .const 0⟩,
     ⟨24, 4, .rw, .live, .const 0⟩,
     ⟨20, 4, .rw, .live, .const 0⟩,
     ⟨0, 20, .rw, .live, .const 0⟩]⟩,
   -- HEAD_AUX_STATUS
   ⟨0x80, 16, 0x20C, [], .none, false,
    [⟨31, 1, .ro, .live, .const 0⟩,
     ⟨30, 1, .w1c, .live, .const 0⟩,
     ⟨28, 2, .ro, .live, .const 0⟩,
     ⟨0, 5, .ro, .live, .const 0⟩]⟩,
   -- HEAD_AUX_DATA
   ⟨0x80, 16, 0x210, [(4, 0x4)], .none, false,
    [⟨0, 32, .rw, .live, .const 0⟩]⟩,
   -- HEAD_DSI_CTRL
   ⟨0x90, 4, 0x200, [], .none, false,
    [⟨31, 1, .rw, .live, .const 1⟩,
     ⟨30, 1, .rw, .held, .const 0⟩,
     ⟨29, 1, .rw, .held, .const 0⟩,
     ⟨16, 8, .rw, .held, .const 0⟩,
     ⟨0, 12, .rw, .held, .const 0x1F4⟩]⟩,
   -- HEAD_DSI_CMD
   ⟨0x90, 4, 0x208, [], .none, false,
    [⟨31, 1, .wo, .live, .const 0⟩,
     ⟨30, 1, .rw, .live, .const 1⟩,
     ⟨24, 6, .rw, .live, .const 0⟩,
     ⟨16, 7, .rw, .live, .const 0⟩]⟩,
   -- HEAD_DSI_CMD_STATUS
   ⟨0x90, 4, 0x20C, [], .none, false,
    [⟨31, 1, .ro, .live, .const 0⟩,
     ⟨30, 1, .w1c, .live, .const 0⟩,
     ⟨29, 1, .w1c, .live, .const 0⟩,
     ⟨16, 7, .ro, .live, .const 0⟩,
     ⟨0, 16, .ro, .live, .const 0⟩]⟩,
   -- HEAD_DSI_DATA
   ⟨0x90, 4, 0x210, [(16, 0x4)], .none, false,
    [⟨0, 32, .rw, .live, .const 0⟩]⟩]

/-- The registers of HEAD. -/
def regRowsHEAD : List RegDesc := regRowsHEAD0 ++ regRowsHEAD1 ++ regRowsHEAD2 ++ regRowsHEAD3

def regRowsENCSCHED0 : List RegDesc :=
  [-- ENCSCHED_CTRL
   ⟨0x1C, 1, 0x0, [], .none, false,
    [⟨0, 1, .rw, .live, .const 0⟩]⟩,
   -- ENCSCHED_STATUS
   ⟨0x1C, 1, 0x4, [], .none, false,
    [⟨31, 1, .w1c, .live, .const 0⟩,
     ⟨0, 8, .ro, .live, .const 0⟩]⟩,
   -- ENCSCHED_STREAM_INDEX
   ⟨0x1C, 1, 0x100, [], .none, true,
    [⟨0, 5, .rw, .live, .const 0⟩]⟩,
   -- ENCSCHED_STREAM_CTRL
   ⟨0x1C, 1, 0x104, [], .enc, false,
    [⟨31, 1, .rw, .live, .const 0⟩,
     ⟨30, 1, .rw, .live, .const 0⟩,
     ⟨28, 2, .rw, .held, .const 0⟩,
     ⟨27, 1, .rw, .held, .const 0⟩,
     ⟨24, 3, .rw, .held, .const 1⟩,
     ⟨22, 2, .rw, .held, .const 0⟩,
     ⟨20, 1, .rw, .held, .const 0⟩,
     ⟨16, 4, .rw, .held, .const 1⟩,
     ⟨0, 12, .rw, .held, .const 0⟩]⟩,
   -- ENCSCHED_STREAM_SRC
   ⟨0x1C, 1, 0x108, [], .enc, false,
    [⟨0, 11, .rw, .held, .const 0⟩]⟩,
   -- ENCSCHED_STREAM_CROP_POS
   ⟨0x1C, 1, 0x10C, [], .enc, false,
    [⟨16, 13, .rw, .held, .const 0⟩,
     ⟨0, 13, .rw, .held, .const 0⟩]⟩,
   -- ENCSCHED_STREAM_CROP_SIZE
   ⟨0x1C, 1, 0x110, [], .enc, false,
    [⟨16, 14, .rw, .held, .const 0⟩,
     ⟨0, 14, .rw, .held, .const 0⟩]⟩,
   -- ENCSCHED_STREAM_GOP
   ⟨0x1C, 1, 0x114, [], .enc, false,
    [⟨24, 8, .rw, .held, .const 0⟩,
     ⟨16, 2, .rw, .held, .const 2⟩,
     ⟨15, 1, .rw, .held, .const 0⟩,
     ⟨8, 7, .rw, .held, .const 2⟩]⟩,
   -- ENCSCHED_STREAM_IDR
   ⟨0x1C, 1, 0x148, [], .enc, false,
    [⟨0, 16, .rw, .live, .const 0x3C⟩]⟩,
   -- ENCSCHED_STREAM_RC
   ⟨0x1C, 1, 0x118, [], .enc, false,
    [⟨31, 1, .rw, .held, .const 1⟩,
     ⟨24, 6, .rw, .live, .const 0x33⟩,
     ⟨16, 6, .rw, .live, .const 0xA⟩,
     ⟨8, 6, .rw, .live, .const 0x1C⟩,
     ⟨0, 6, .rw, .live, .const 0x1E⟩]⟩,
   -- ENCSCHED_STREAM_RATE
   ⟨0x1C, 1, 0x11C, [], .enc, false,
    [⟨28, 4, .rw, .live, .const 8⟩,
     ⟨0, 24, .rw, .live, .const 0xFA0⟩]⟩,
   -- ENCSCHED_STREAM_CPB
   ⟨0x1C, 1, 0x120, [], .enc, false,
    [⟨0, 24, .rw, .held, .const 0x1F4⟩]⟩]

def regRowsENCSCHED1 : List RegDesc :=
  [-- ENCSCHED_STREAM_BUF
   ⟨0x1C, 1, 0x124, [], .enc, false,
    [⟨8, 24, .rw, .held, .const 0⟩,
     ⟨0, 8, .rw, .held, .const 0⟩]⟩,
   -- ENCSCHED_STREAM_TX
   ⟨0x1C, 1, 0x128, [], .enc, false,
    [⟨16, 14, .rw, .held, .const 0x5DC⟩,
     ⟨10, 6, .rw, .held, .const 0⟩,
     ⟨0, 8, .rw, .held, .const 0x40⟩]⟩,
   -- ENCSCHED_STREAM_PACE
   ⟨0x1C, 1, 0x12C, [], .enc, false,
    [⟨16, 16, .rw, .held, .const 0⟩,
     ⟨0, 16, .rw, .live, .const 0⟩]⟩,
   -- ENCSCHED_STREAM_DMAC_HI
   ⟨0x1C, 1, 0x130, [], .enc, false,
    [⟨16, 16, .rw, .held, .const 0⟩,
     ⟨0, 16, .rw, .held, .const 0⟩]⟩,
   -- ENCSCHED_STREAM_DMAC_LO
   ⟨0x1C, 1, 0x134, [], .enc, false,
    [⟨0, 32, .rw, .held, .const 0⟩]⟩,
   -- ENCSCHED_STREAM_CMD
   ⟨0x1C, 1, 0x138, [], .enc, false,
    [⟨0, 1, .wo, .live, .const 0⟩]⟩,
   -- ENCSCHED_STREAM_STATUS
   ⟨0x1C, 1, 0x13C, [], .enc, false,
    [⟨31, 1, .ro, .live, .const 1⟩,
     ⟨30, 1, .w1c, .live, .const 0⟩,
     ⟨29, 1, .ro, .live, .const 0⟩,
     ⟨28, 1, .ro, .live, .const 0⟩,
     ⟨24, 3, .ro, .live, .const 0⟩,
     ⟨8, 8, .ro, .live, .const 0⟩,
     ⟨0, 8, .ro, .live, .const 0⟩]⟩,
   -- ENCSCHED_STREAM_LAST_BITS
   ⟨0x1C, 1, 0x140, [], .enc, false,
    [⟨0, 32, .ro, .live, .const 0⟩]⟩,
   -- ENCSCHED_STREAM_TARGET
   ⟨0x1C, 1, 0x144, [], .enc, false,
    [⟨0, 32, .ro, .live, .const 0⟩]⟩,
   -- ENCSCHED_STREAM_CNT
   ⟨0x1C, 1, 0x160, [(8, 0x4)], .enc, false,
    [⟨0, 32, .rw, .live, .const 0⟩]⟩]

/-- The registers of ENCSCHED. -/
def regRowsENCSCHED : List RegDesc := regRowsENCSCHED0 ++ regRowsENCSCHED1

def regRowsENC0 : List RegDesc :=
  [-- ENC_CTRL
   ⟨0x60, 16, 0x0, [], .none, false,
    [⟨0, 1, .rw, .live, .const 1⟩]⟩,
   -- ENC_STATUS
   ⟨0x60, 16, 0x4, [], .none, false,
    [⟨30, 2, .ro, .live, .const 0⟩,
     ⟨16, 5, .ro, .live, .const 0⟩]⟩,
   -- ENC_BUSY
   ⟨0x60, 16, 0x8, [], .none, false,
    [⟨0, 10, .ro, .live, .const 0⟩]⟩,
   -- ENC_CNT_SLICE
   ⟨0x60, 16, 0x20, [], .none, false,
    [⟨0, 32, .rw, .live, .const 0⟩]⟩,
   -- ENC_CNT_SWITCH
   ⟨0x60, 16, 0x24, [], .none, false,
    [⟨0, 32, .rw, .live, .const 0⟩]⟩]

/-- The registers of ENC. -/
def regRowsENC : List RegDesc := regRowsENC0

def regRowsTIME0 : List RegDesc :=
  [-- TIME_STATUS
   ⟨0xC, 1, 0x0, [], .none, false,
    [⟨31, 1, .w1c, .live, .const 0⟩,
     ⟨30, 1, .w1c, .live, .const 0⟩,
     ⟨4, 3, .ro, .live, .const 0⟩,
     ⟨0, 3, .ro, .live, .const 0⟩]⟩,
   -- TIME_INCR
   ⟨0xC, 1, 0x4, [], .none, false,
    [⟨0, 32, .ro, .live, .const 0x40000000⟩]⟩,
   -- TIME_SNAP_CTRL
   ⟨0xC, 1, 0x8, [], .none, false,
    [⟨0, 1, .wo, .live, .const 0⟩]⟩,
   -- TIME_SNAP_SEC_LO
   ⟨0xC, 1, 0x20, [(3, 0x10)], .none, false,
    [⟨0, 32, .ro, .live, .const 0⟩]⟩,
   -- TIME_SNAP_HI
   ⟨0xC, 1, 0x24, [(3, 0x10)], .none, false,
    [⟨16, 16, .ro, .live, .const 0⟩,
     ⟨0, 16, .ro, .live, .const 0⟩]⟩,
   -- TIME_SNAP_NS
   ⟨0xC, 1, 0x28, [(3, 0x10)], .none, false,
    [⟨0, 30, .ro, .live, .const 0⟩]⟩,
   -- TIME_STEP_INFO
   ⟨0xC, 1, 0x60, [], .none, false,
    [⟨31, 1, .w1c, .live, .const 0⟩,
     ⟨28, 2, .ro, .live, .const 0⟩,
     ⟨24, 4, .ro, .live, .const 0⟩]⟩,
   -- TIME_STEP_SIZE_LO
   ⟨0xC, 1, 0x64, [], .none, false,
    [⟨0, 32, .ro, .live, .const 0⟩]⟩,
   -- TIME_STEP_SIZE_HI
   ⟨0xC, 1, 0x68, [], .none, false,
    [⟨0, 32, .ro, .live, .const 0⟩]⟩,
   -- TIME_DOM_CFG
   ⟨0xC, 1, 0x100, [(2, 0x40)], .none, false,
    [⟨31, 1, .rw, .live, .const 0⟩,
     ⟨30, 1, .rw, .held, .const 0⟩,
     ⟨29, 1, .rw, .live, .const 1⟩,
     ⟨16, 8, .rw, .live, .const 0x1E⟩,
     ⟨0, 16, .rw, .live, .const 0x258⟩]⟩,
   -- TIME_DOM_LOCK
   ⟨0xC, 1, 0x104, [(2, 0x40)], .none, false,
    [⟨24, 8, .rw, .live, .const 0x10⟩,
     ⟨0, 24, .rw, .live, .const 0x3E8⟩]⟩,
   -- TIME_DOM_LIMITS
   ⟨0xC, 1, 0x108, [(2, 0x40)], .none, false,
    [⟨16, 16, .rw, .live, .const 0xA⟩,
     ⟨0, 16, .rw, .live, .const 1⟩]⟩]

def regRowsTIME1 : List RegDesc :=
  [-- TIME_DOM_BW
   ⟨0xC, 1, 0x10C, [(2, 0x40)], .none, false,
    [⟨0, 10, .rw, .live, .const 0xA⟩]⟩,
   -- TIME_DOM_ERR_SEC_LO
   ⟨0xC, 1, 0x110, [(2, 0x40)], .none, false,
    [⟨0, 32, .rw, .live, .const 0⟩]⟩,
   -- TIME_DOM_ERR_HI
   ⟨0xC, 1, 0x114, [(2, 0x40)], .none, false,
    [⟨16, 16, .rw, .live, .const 0⟩,
     ⟨0, 16, .rw, .live, .const 0⟩]⟩,
   -- TIME_DOM_ERR_NS
   ⟨0xC, 1, 0x118, [(2, 0x40)], .none, false,
    [⟨0, 30, .rw, .live, .const 0⟩]⟩,
   -- TIME_DOM_RATE
   ⟨0xC, 1, 0x11C, [(2, 0x40)], .none, false,
    [⟨0, 32, .ro, .live, .const 0⟩]⟩,
   -- TIME_DOM_OFS_SEC_LO
   ⟨0xC, 1, 0x120, [(2, 0x40)], .none, false,
    [⟨0, 32, .ro, .live, .const 0⟩]⟩,
   -- TIME_DOM_OFS_HI
   ⟨0xC, 1, 0x124, [(2, 0x40)], .none, false,
    [⟨16, 16, .ro, .live, .const 0⟩,
     ⟨0, 16, .ro, .live, .const 0⟩]⟩,
   -- TIME_DOM_OFS_NS
   ⟨0xC, 1, 0x128, [(2, 0x40)], .none, false,
    [⟨0, 30, .ro, .live, .const 0⟩]⟩,
   -- TIME_DOM_LAST_ERR
   ⟨0xC, 1, 0x12C, [(2, 0x40)], .none, false,
    [⟨0, 32, .ro, .live, .const 0⟩]⟩,
   -- TIME_DOM_CNT
   ⟨0xC, 1, 0x130, [(2, 0x40)], .none, false,
    [⟨16, 16, .rw, .live, .const 0⟩,
     ⟨0, 16, .rw, .live, .const 0⟩]⟩,
   -- TIME_PORT_RX_ADJ
   ⟨0xC, 1, 0x200, [(4, 0x8)], .none, false,
    [⟨0, 32, .rw, .live, .const 0⟩]⟩,
   -- TIME_PORT_TX_ADJ
   ⟨0xC, 1, 0x204, [(4, 0x8)], .none, false,
    [⟨0, 32, .rw, .live, .const 0⟩]⟩]

def regRowsTIME2 : List RegDesc :=
  [-- TIME_CHAIN_ASYM
   ⟨0xC, 1, 0x220, [], .none, false,
    [⟨0, 32, .rw, .live, .const 0⟩]⟩,
   -- TIME_PPS_IN_CTRL
   ⟨0xC, 1, 0x240, [], .none, false,
    [⟨31, 1, .w1c, .live, .const 0⟩,
     ⟨1, 1, .rw, .live, .const 0⟩,
     ⟨0, 1, .rw, .live, .const 0⟩]⟩,
   -- TIME_PPS_IN_SEC_LO
   ⟨0xC, 1, 0x244, [], .none, false,
    [⟨0, 32, .ro, .live, .const 0⟩]⟩,
   -- TIME_PPS_IN_HI
   ⟨0xC, 1, 0x248, [], .none, false,
    [⟨16, 16, .ro, .live, .const 0⟩,
     ⟨0, 16, .ro, .live, .const 0⟩]⟩,
   -- TIME_PPS_IN_NS
   ⟨0xC, 1, 0x24C, [], .none, false,
    [⟨0, 30, .ro, .live, .const 0⟩]⟩,
   -- TIME_FRAME_OUT_CFG
   ⟨0xC, 1, 0x300, [(4, 0x10)], .none, false,
    [⟨31, 1, .rw, .live, .const 0⟩,
     ⟨30, 1, .rw, .held, .const 0⟩,
     ⟨28, 2, .rw, .held, .const 1⟩,
     ⟨20, 5, .rw, .held, .const 0⟩,
     ⟨0, 20, .rw, .held, .const 0x3E8⟩]⟩,
   -- TIME_FRAME_OUT_FRATE
   ⟨0xC, 1, 0x304, [(4, 0x10)], .none, false,
    [⟨12, 20, .rw, .held, .const 0⟩,
     ⟨0, 12, .rw, .held, .const 0⟩]⟩,
   -- TIME_FRAME_OUT_PHASE
   ⟨0xC, 1, 0x308, [(4, 0x10)], .none, false,
    [⟨0, 30, .rw, .held, .const 0⟩]⟩,
   -- TIME_PPS_OUT_CFG
   ⟨0xC, 1, 0x340, [], .none, false,
    [⟨31, 1, .rw, .live, .const 0⟩,
     ⟨28, 2, .rw, .held, .const 1⟩,
     ⟨0, 20, .rw, .held, .const 0x64⟩]⟩,
   -- TIME_PPS_OUT_PHASE
   ⟨0xC, 1, 0x344, [], .none, false,
    [⟨0, 30, .rw, .held, .const 0⟩]⟩,
   -- TIME_REFOUT_CFG
   ⟨0xC, 1, 0x350, [], .none, false,
    [⟨31, 1, .rw, .live, .const 0⟩]⟩,
   -- TIME_REFOUT_FREQ
   ⟨0xC, 1, 0x354, [], .none, false,
    [⟨0, 28, .rw, .held, .const 0x989680⟩]⟩]

/-- The registers of TIME. -/
def regRowsTIME : List RegDesc := regRowsTIME0 ++ regRowsTIME1 ++ regRowsTIME2

def regRowsDPLL0 : List RegDesc :=
  [-- DPLL_CTRL
   ⟨0xD, 1, 0x0, [], .none, false,
    [⟨31, 1, .rw, .live, .const 0⟩,
     ⟨30, 1, .rw, .live, .const 0⟩,
     ⟨29, 1, .rw, .live, .const 0⟩,
     ⟨28, 1, .rw, .live, .const 1⟩,
     ⟨0, 4, .rw, .live, .const 0xF⟩]⟩,
   -- DPLL_STATUS
   ⟨0xD, 1, 0x4, [], .none, false,
    [⟨31, 1, .w1c, .live, .const 0⟩,
     ⟨30, 1, .w1c, .live, .const 0⟩,
     ⟨24, 3, .ro, .live, .const 0⟩,
     ⟨16, 4, .ro, .live, .const 0xF⟩,
     ⟨0, 10, .ro, .live, .const 0⟩]⟩,
   -- DPLL_PRIO0
   ⟨0xD, 1, 0x8, [], .none, false,
    [⟨0, 32, .rw, .live, .const 0xFFFFFFFF⟩]⟩,
   -- DPLL_PRIO1
   ⟨0xD, 1, 0xC, [], .none, false,
    [⟨0, 8, .rw, .live, .const 0xFF⟩]⟩,
   -- DPLL_BW
   ⟨0xD, 1, 0x20, [], .none, false,
    [⟨0, 10, .rw, .live, .const 0xA⟩]⟩,
   -- DPLL_SLOPE
   ⟨0xD, 1, 0x24, [], .none, false,
    [⟨0, 17, .rw, .live, .const 0x3E8⟩]⟩,
   -- DPLL_LOCK
   ⟨0xD, 1, 0x28, [], .none, false,
    [⟨24, 8, .rw, .live, .const 0x10⟩,
     ⟨0, 24, .rw, .live, .const 0x3E8⟩]⟩,
   -- DPLL_HOLD
   ⟨0xD, 1, 0x2C, [], .none, false,
    [⟨16, 16, .rw, .live, .const 0x258⟩,
     ⟨0, 16, .rw, .live, .const 0x3C⟩]⟩,
   -- DPLL_QUAL
   ⟨0xD, 1, 0x30, [], .none, false,
    [⟨24, 8, .rw, .live, .const 0x64⟩,
     ⟨16, 8, .rw, .live, .const 1⟩,
     ⟨0, 16, .rw, .live, .const 0xC8⟩]⟩,
   -- DPLL_FREQ_MANUAL
   ⟨0xD, 1, 0x34, [], .none, false,
    [⟨0, 32, .rw, .live, .const 0⟩]⟩,
   -- DPLL_FREQ
   ⟨0xD, 1, 0x38, [], .none, false,
    [⟨0, 32, .ro, .live, .const 0⟩]⟩,
   -- DPLL_PHASE_ERR
   ⟨0xD, 1, 0x3C, [], .none, false,
    [⟨0, 32, .ro, .live, .const 0⟩]⟩]

def regRowsDPLL1 : List RegDesc :=
  [-- DPLL_PHASE_CTRL
   ⟨0xD, 1, 0x40, [], .none, false,
    [⟨4, 1, .rw, .live, .const 0⟩,
     ⟨0, 2, .rw, .live, .const 0⟩]⟩,
   -- DPLL_PHASE_STEP
   ⟨0xD, 1, 0x44, [], .none, false,
    [⟨0, 32, .wo, .live, .const 0⟩]⟩,
   -- DPLL_PHASE_REMAIN
   ⟨0xD, 1, 0x48, [], .none, false,
    [⟨0, 32, .ro, .live, .const 0⟩]⟩,
   -- DPLL_PHASE_APPLIED
   ⟨0xD, 1, 0x50, [(3, 0x4)], .none, false,
    [⟨0, 32, .ro, .live, .const 0⟩]⟩,
   -- DPLL_IN_CFG: the clock fields exist for inputs 2 to 4 only
   ⟨0xD, 1, 0x100, [(2, 0x10)], .none, false,
    [⟨31, 1, .rw, .live, .const 1⟩]⟩,
   ⟨0xD, 1, 0x120, [(3, 0x10)], .none, false,
    [⟨31, 1, .rw, .live, .const 1⟩,
     ⟨30, 1, .rw, .held, .only 0 1⟩,
     ⟨29, 1, .rw, .held, .const 0⟩,
     ⟨28, 1, .rw, .held, .const 0⟩,
     ⟨0, 12, .rw, .held, .const 1⟩]⟩,
   ⟨0xD, 1, 0x150, [(5, 0x10)], .none, false,
    [⟨31, 1, .rw, .live, .const 1⟩]⟩,
   -- DPLL_IN_FREQ_NUM
   ⟨0xD, 1, 0x124, [(3, 0x10)], .none, false,
    [⟨0, 28, .rw, .held, .const 0⟩]⟩,
   -- DPLL_IN_PHASE
   ⟨0xD, 1, 0x128, [(3, 0x10)], .none, false,
    [⟨0, 30, .rw, .live, .const 0⟩]⟩,
   -- DPLL_IN_STATUS
   ⟨0xD, 1, 0x10C, [(10, 0x10)], .none, false,
    [⟨31, 1, .ro, .live, .const 0⟩,
     ⟨30, 1, .ro, .live, .const 0⟩,
     ⟨0, 16, .ro, .live, .const 0⟩]⟩]

/-- The registers of DPLL. -/
def regRowsDPLL : List RegDesc := regRowsDPLL0 ++ regRowsDPLL1

def regRowsDRAMC0 : List RegDesc :=
  [-- DRAMC_CTRL
   ⟨0x6, 1, 0x0, [], .none, false,
    [⟨8, 8, .rw, .live, .const 0x64⟩,
     ⟨1, 1, .rw, .live, .const 1⟩,
     ⟨0, 1, .rw, .live, .const 1⟩]⟩,
   -- DRAMC_STATUS
   ⟨0x6, 1, 0x4, [], .none, false,
    [⟨31, 1, .w1c, .live, .const 0⟩,
     ⟨30, 1, .w1c, .live, .const 0⟩,
     ⟨29, 1, .ro, .live, .const 0⟩,
     ⟨28, 1, .ro, .live, .const 0⟩,
     ⟨27, 1, .ro, .live, .const 0⟩,
     ⟨26, 1, .ro, .live, .const 0⟩,
     ⟨25, 1, .ro, .live, .const 0⟩,
     ⟨24, 1, .ro, .live, .const 0⟩,
     ⟨22, 2, .ro, .live, .const 0⟩]⟩,
   -- DRAMC_FC_CTRL
   ⟨0x6, 1, 0x20, [], .none, false,
    [⟨31, 1, .wo, .live, .const 0⟩,
     ⟨24, 2, .rw, .held, .const 0⟩,
     ⟨0, 16, .rw, .live, .const 0x64⟩]⟩,
   -- DRAMC_FC_STATUS
   ⟨0x6, 1, 0x24, [], .none, false,
    [⟨31, 1, .w1c, .live, .const 0⟩,
     ⟨28, 3, .ro, .live, .const 0⟩,
     ⟨0, 16, .ro, .live, .const 0⟩]⟩,
   -- DRAMC_QOS
   ⟨0x6, 1, 0x30, [], .none, false,
    [⟨24, 8, .rw, .live, .const 8⟩,
     ⟨16, 8, .rw, .live, .const 6⟩,
     ⟨8, 8, .rw, .live, .const 1⟩,
     ⟨0, 8, .rw, .live, .const 1⟩]⟩,
   -- DRAMC_REFRESH
   ⟨0x6, 1, 0x34, [], .none, false,
    [⟨16, 16, .rw, .live, .const 0⟩,
     ⟨0, 4, .ro, .live, .const 0⟩]⟩,
   -- DRAMC_TOL_MIN
   ⟨0x6, 1, 0x38, [], .none, false,
    [⟨0, 32, .ro, .live, .const 0xFFFFFFFF⟩]⟩,
   -- DRAMC_FREEZE_INFO
   ⟨0x6, 1, 0x40, [], .none, false,
    [⟨31, 1, .ro, .live, .const 0⟩,
     ⟨30, 1, .ro, .live, .const 0⟩,
     ⟨24, 4, .ro, .live, .const 0⟩,
     ⟨16, 8, .ro, .live, .const 0⟩,
     ⟨12, 4, .ro, .live, .const 0⟩]⟩,
   -- DRAMC_FREEZE_ADDR_LO
   ⟨0x6, 1, 0x44, [], .none, false,
    [⟨0, 32, .ro, .live, .const 0⟩]⟩,
   -- DRAMC_FREEZE_ADDR_HI
   ⟨0x6, 1, 0x48, [], .none, false,
    [⟨0, 8, .ro, .live, .const 0⟩]⟩,
   -- DRAMC_FREEZE_SYND
   ⟨0x6, 1, 0x4C, [], .none, false,
    [⟨16, 3, .ro, .live, .const 0⟩,
     ⟨0, 8, .ro, .live, .const 0⟩]⟩,
   -- DRAMC_FREEZE_CTRL
   ⟨0x6, 1, 0x50, [], .none, false,
    [⟨16, 16, .wo, .live, .const 0⟩,
     ⟨0, 1, .wo, .live, .const 0⟩]⟩]

def regRowsDRAMC1 : List RegDesc :=
  [-- DRAMC_FREEZE_DROPPED
   ⟨0x6, 1, 0x54, [], .none, false,
    [⟨0, 32, .rw, .live, .const 0⟩]⟩,
   -- DRAMC_DIAG_CTRL
   ⟨0x6, 1, 0x60, [], .none, false,
    [⟨31, 1, .wo, .live, .const 0⟩,
     ⟨30, 1, .ro, .live, .const 0⟩,
     ⟨29, 1, .rw, .live, .const 0⟩]⟩,
   -- DRAMC_DIAG_ADDR_LO
   ⟨0x6, 1, 0x64, [], .none, false,
    [⟨6, 26, .rw, .live, .const 0⟩]⟩,
   -- DRAMC_DIAG_ADDR_HI
   ⟨0x6, 1, 0x68, [], .none, false,
    [⟨0, 8, .rw, .live, .const 0⟩]⟩,
   -- DRAMC_DIAG_DATA
   ⟨0x6, 1, 0x80, [(16, 0x4)], .none, false,
    [⟨0, 32, .rw, .live, .const 0⟩]⟩,
   -- DRAMC_DIAG_CHECK
   ⟨0x6, 1, 0xC0, [(2, 0x4)], .none, false,
    [⟨0, 32, .ro, .live, .const 0⟩]⟩,
   -- DRAMC_CH_TRAIN
   ⟨0x6, 4, 0x100, [(4, 0x4)], .none, false,
    [⟨31, 1, .w1c, .live, .const 0⟩,
     ⟨29, 2, .ro, .live, .const 0⟩,
     ⟨24, 2, .ro, .live, .const 0⟩,
     ⟨16, 4, .ro, .live, .const 0⟩,
     ⟨0, 7, .ro, .live, .const 0⟩]⟩,
   -- DRAMC_CH_RETRAIN_CNT
   ⟨0x6, 4, 0x110, [(4, 0x4)], .none, false,
    [⟨0, 32, .rw, .live, .const 0⟩]⟩]

/-- The registers of DRAMC. -/
def regRowsDRAMC : List RegDesc := regRowsDRAMC0 ++ regRowsDRAMC1

def regRowsFSTORE0 : List RegDesc :=
  [-- FSTORE_STATUS
   ⟨0xA, 1, 0x0, [], .none, false,
    [⟨31, 1, .w1c, .live, .const 0⟩,
     ⟨30, 1, .w1c, .live, .const 0⟩,
     ⟨29, 1, .w1c, .live, .const 0⟩,
     ⟨28, 1, .ro, .live, .const 0⟩]⟩,
   -- FSTORE_UNW_INFO
   ⟨0xA, 1, 0x20, [], .none, false,
    [⟨31, 1, .w1c, .live, .const 0⟩,
     ⟨16, 8, .ro, .live, .const 0⟩]⟩,
   -- FSTORE_UNW_ADDR
   ⟨0xA, 1, 0x24, [], .none, false,
    [⟨6, 21, .ro, .live, .const 0⟩]⟩,
   -- FSTORE_UNW_COUNT
   ⟨0xA, 1, 0x28, [], .none, false,
    [⟨0, 32, .rw, .live, .const 0⟩]⟩,
   -- FSTORE_UNC_INFO
   ⟨0xA, 1, 0x30, [], .none, false,
    [⟨31, 1, .w1c, .live, .const 0⟩,
     ⟨16, 8, .ro, .live, .const 0⟩]⟩,
   -- FSTORE_UNC_ADDR
   ⟨0xA, 1, 0x34, [], .none, false,
    [⟨6, 21, .ro, .live, .const 0⟩]⟩,
   -- FSTORE_UNC_COUNT
   ⟨0xA, 1, 0x38, [], .none, false,
    [⟨0, 32, .rw, .live, .const 0⟩]⟩,
   -- FSTORE_UNWRITE_START
   ⟨0xA, 1, 0x40, [], .none, false,
    [⟨6, 21, .rw, .live, .const 0⟩]⟩,
   -- FSTORE_UNWRITE_LEN
   ⟨0xA, 1, 0x44, [], .none, false,
    [⟨31, 1, .wo, .live, .const 0⟩,
     ⟨6, 21, .rw, .live, .const 0⟩]⟩]

/-- The registers of FSTORE. -/
def regRowsFSTORE : List RegDesc := regRowsFSTORE0

def regRowsREPAIR0 : List RegDesc :=
  [-- REPAIR_CTRL
   ⟨0xB, 1, 0x0, [], .none, false,
    [⟨16, 16, .rw, .live, .const 0xF0⟩,
     ⟨0, 16, .rw, .live, .const 0x3C⟩]⟩,
   -- REPAIR_STATUS
   ⟨0xB, 1, 0x4, [], .none, false,
    [⟨31, 1, .ro, .live, .const 0⟩,
     ⟨30, 1, .w1c, .live, .const 0⟩,
     ⟨29, 1, .w1c, .live, .const 0⟩,
     ⟨28, 1, .ro, .live, .const 0⟩,
     ⟨16, 7, .ro, .live, .const 0x40⟩,
     ⟨0, 11, .ro, .live, .const 0⟩]⟩,
   -- REPAIR_SPARE
   ⟨0xB, 1, 0x8, [], .none, false,
    [⟨16, 11, .ro, .live, .fuse 3⟩,
     ⟨0, 4, .ro, .live, .fuse 4⟩]⟩,
   -- REPAIR_DRAM_CE
   ⟨0xB, 1, 0x20, [], .none, false,
    [⟨0, 32, .rw, .live, .const 0⟩]⟩,
   -- REPAIR_FS_CE
   ⟨0xB, 1, 0x24, [], .none, false,
    [⟨0, 32, .rw, .live, .const 0⟩]⟩,
   -- REPAIR_HARD
   ⟨0xB, 1, 0x28, [], .none, false,
    [⟨16, 16, .rw, .live, .const 0⟩,
     ⟨0, 16, .rw, .live, .const 0⟩]⟩,
   -- REPAIR_RETIRED_WR
   ⟨0xB, 1, 0x2C, [], .none, false,
    [⟨0, 32, .rw, .live, .const 0⟩]⟩,
   -- REPAIR_CE_INFO
   ⟨0xB, 1, 0x30, [], .none, false,
    [⟨31, 1, .w1c, .live, .const 0⟩,
     ⟨30, 1, .ro, .live, .const 0⟩,
     ⟨29, 1, .ro, .live, .const 0⟩,
     ⟨16, 7, .ro, .live, .const 0⟩,
     ⟨0, 8, .ro, .live, .const 0⟩]⟩,
   -- REPAIR_CE_ADDR_LO
   ⟨0xB, 1, 0x34, [], .none, false,
    [⟨0, 32, .ro, .live, .const 0⟩]⟩,
   -- REPAIR_CE_ADDR_HI
   ⟨0xB, 1, 0x38, [], .none, false,
    [⟨0, 8, .ro, .live, .const 0⟩]⟩,
   -- REPAIR_OFFLINE
   ⟨0xB, 1, 0x40, [], .none, false,
    [⟨31, 1, .ro, .live, .const 0⟩,
     ⟨30, 1, .ro, .live, .const 0⟩,
     ⟨29, 1, .ro, .live, .const 0⟩,
     ⟨0, 23, .ro, .live, .const 0⟩]⟩,
   -- REPAIR_INJ_CTRL
   ⟨0xB, 1, 0x50, [], .none, false,
    [⟨31, 1, .rw, .live, .const 0⟩,
     ⟨29, 2, .rw, .live, .const 0⟩,
     ⟨23, 1, .rw, .live, .const 0⟩,
     ⟨16, 7, .rw, .live, .const 0⟩,
     ⟨8, 7, .rw, .live, .const 0⟩]⟩]

def regRowsREPAIR1 : List RegDesc :=
  [-- REPAIR_INJ_ADDR_LO
   ⟨0xB, 1, 0x54, [], .none, false,
    [⟨2, 30, .rw, .live, .const 0⟩]⟩,
   -- REPAIR_INJ_ADDR_HI
   ⟨0xB, 1, 0x58, [], .none, false,
    [⟨0, 8, .rw, .live, .const 0⟩]⟩,
   -- REPAIR_INJ_STATUS
   ⟨0xB, 1, 0x5C, [], .none, false,
    [⟨31, 1, .w1c, .live, .const 0⟩,
     ⟨28, 3, .ro, .live, .const 0⟩,
     ⟨0, 8, .ro, .live, .const 0⟩]⟩,
   -- REPAIR_MACRO_INDEX
   ⟨0xB, 1, 0x60, [], .none, false,
    [⟨0, 7, .rw, .live, .const 0⟩]⟩,
   -- REPAIR_MACRO_STATUS
   ⟨0xB, 1, 0x64, [], .bank, false,
    [⟨8, 4, .ro, .live, .fuse 5⟩,
     ⟨0, 4, .ro, .live, .fuse 6⟩]⟩,
   -- REPAIR_GMAP
   ⟨0xB, 1, 0x1000, [(1984, 0x4)], .none, false,
    [⟨30, 2, .ro, .live, .const 0⟩,
     ⟨0, 11, .ro, .live, .lin 0 1⟩]⟩]

/-- The registers of REPAIR. -/
def regRowsREPAIR : List RegDesc := regRowsREPAIR0 ++ regRowsREPAIR1

def regRowsVAULT0 : List RegDesc :=
  [-- VAULT_STATUS
   ⟨0x2, 1, 0x0, [], .none, false,
    [⟨31, 1, .w1c, .live, .const 0⟩,
     ⟨30, 1, .w1c, .live, .const 0⟩,
     ⟨29, 1, .w1c, .live, .const 0⟩,
     ⟨0, 8, .ro, .live, .const 0⟩]⟩,
   -- VAULT_DISAGREE_COUNT
   ⟨0x2, 1, 0x4, [], .none, false,
    [⟨0, 32, .rw, .live, .const 0⟩]⟩,
   -- VAULT_INJ
   ⟨0x2, 1, 0x8, [], .none, false,
    [⟨31, 1, .wo, .live, .const 0⟩,
     ⟨24, 2, .wo, .live, .const 0⟩,
     ⟨16, 8, .wo, .live, .const 0⟩,
     ⟨0, 5, .wo, .live, .const 0⟩]⟩,
   -- VAULT_RAW_INDEX
   ⟨0x2, 1, 0x20, [], .none, false,
    [⟨0, 8, .rw, .live, .const 0⟩]⟩,
   -- VAULT_RAW_A
   ⟨0x2, 1, 0x24, [], .raw, false,
    [⟨0, 32, .ro, .live, .const 0⟩]⟩,
   -- VAULT_RAW_B
   ⟨0x2, 1, 0x28, [], .raw, false,
    [⟨0, 32, .ro, .live, .const 0⟩]⟩,
   -- VAULT_RAW_C
   ⟨0x2, 1, 0x2C, [], .raw, false,
    [⟨0, 32, .ro, .live, .const 0⟩]⟩,
   -- VAULT_WORD
   ⟨0x2, 1, 0x1000, [(256, 0x4)], .none, false,
    [⟨0, 32, .rw, .live, .const 0⟩]⟩]

/-- The registers of VAULT. -/
def regRowsVAULT : List RegDesc := regRowsVAULT0

def regRowsPROT0 : List RegDesc :=
  [-- PROT_BOOT_LOCK
   ⟨0x1, 1, 0x0, [], .none, false,
    [⟨0, 1, .w1s, .live, .const 0⟩]⟩,
   -- PROT_DEBUG_OPEN
   ⟨0x1, 1, 0x4, [], .none, false,
    [⟨0, 1, .rw, .live, .const 0⟩]⟩,
   -- PROT_FENCE
   ⟨0x1, 1, 0x8, [], .none, false,
    [⟨0, 1, .ro, .live, .const 1⟩]⟩,
   -- PROT_STATUS
   ⟨0x1, 1, 0xC, [], .none, false,
    [⟨2, 1, .ro, .live, .const 0⟩,
     ⟨1, 1, .ro, .live, .const 1⟩,
     ⟨0, 1, .ro, .live, .const 0⟩]⟩,
   -- PROT_VIOL_INFO
   ⟨0x1, 1, 0x20, [], .none, false,
    [⟨31, 1, .w1c, .live, .const 0⟩,
     ⟨28, 3, .ro, .live, .const 0⟩,
     ⟨16, 9, .ro, .live, .const 0⟩,
     ⟨0, 8, .ro, .live, .const 0⟩]⟩,
   -- PROT_VIOL_ADDR_LO
   ⟨0x1, 1, 0x24, [], .none, false,
    [⟨0, 32, .ro, .live, .const 0⟩]⟩,
   -- PROT_VIOL_ADDR_HI
   ⟨0x1, 1, 0x28, [], .none, false,
    [⟨0, 8, .ro, .live, .const 0⟩]⟩,
   -- PROT_VIOL_COUNT
   ⟨0x1, 1, 0x2C, [], .none, false,
    [⟨0, 32, .rw, .live, .const 0⟩]⟩,
   -- PROT_MEM_DEFAULT
   ⟨0x1, 1, 0x40, [], .none, false,
    [⟨0, 32, .rw, .live, .const 0xFFFFFFFF⟩]⟩,
   -- PROT_SLOT_RULE
   ⟨0x1, 1, 0x1000, [(256, 0x4)], .none, false,
    [⟨0, 32, .rw, .live, .const 0xFFFFFFFF⟩]⟩,
   -- PROT_MREG_BASE
   ⟨0x1, 1, 0x100, [(16, 0x10)], .none, false,
    [⟨31, 1, .rw, .live, .const 0⟩,
     ⟨0, 24, .rw, .live, .const 0⟩]⟩,
   -- PROT_MREG_LIMIT
   ⟨0x1, 1, 0x104, [(16, 0x10)], .none, false,
    [⟨0, 24, .rw, .live, .const 0⟩]⟩]

def regRowsPROT1 : List RegDesc :=
  [-- PROT_MREG_RULE
   ⟨0x1, 1, 0x108, [(16, 0x10)], .none, false,
    [⟨0, 32, .rw, .live, .const 0xFFFFFFFF⟩]⟩]

/-- The registers of PROT. -/
def regRowsPROT : List RegDesc := regRowsPROT0 ++ regRowsPROT1

def regRowsPAIR0 : List RegDesc :=
  [-- PAIR_CTRL
   ⟨0x15, 1, 0x0, [], .none, false,
    [⟨31, 1, .rw, .live, .const 0⟩,
     ⟨30, 1, .rw, .held, .const 0⟩,
     ⟨29, 1, .rw, .held, .const 1⟩,
     ⟨16, 4, .rw, .held, .const 2⟩]⟩,
   -- PAIR_STATUS
   ⟨0x15, 1, 0x4, [], .none, false,
    [⟨31, 1, .w1c, .live, .const 0⟩,
     ⟨30, 1, .w1c, .live, .const 0⟩,
     ⟨29, 1, .w1c, .live, .const 0⟩,
     ⟨28, 1, .w1c, .live, .const 0⟩,
     ⟨27, 1, .w1c, .live, .const 0⟩,
     ⟨26, 1, .ro, .live, .const 0⟩,
     ⟨25, 1, .ro, .live, .const 0⟩,
     ⟨24, 1, .ro, .live, .const 0⟩,
     ⟨23, 1, .ro, .live, .const 0⟩,
     ⟨22, 1, .ro, .live, .const 0⟩,
     ⟨21, 1, .ro, .live, .const 0⟩,
     ⟨20, 1, .ro, .live, .const 0⟩,
     ⟨19, 1, .ro, .live, .const 0⟩,
     ⟨18, 1, .ro, .live, .const 0⟩,
     ⟨17, 1, .ro, .live, .const 0⟩,
     ⟨0, 2, .ro, .live, .const 0⟩]⟩,
   -- PAIR_CMD
   ⟨0x15, 1, 0x8, [], .none, false,
    [⟨16, 16, .wo, .live, .const 0⟩,
     ⟨2, 1, .wo, .live, .const 0⟩,
     ⟨1, 1, .wo, .live, .const 0⟩,
     ⟨0, 1, .wo, .live, .const 0⟩]⟩,
   -- PAIR_LAST_CAUSE
   ⟨0x15, 1, 0xC, [], .none, false,
    [⟨16, 16, .ro, .live, .const 0⟩,
     ⟨8, 1, .ro, .live, .const 0⟩,
     ⟨0, 8, .ro, .live, .const 0⟩]⟩,
   -- PAIR_SYNC
   ⟨0x15, 1, 0x20, [], .none, false,
    [⟨24, 8, .rw, .live, .const 8⟩,
     ⟨16, 8, .rw, .live, .const 0x78⟩,
     ⟨0, 16, .rw, .live, .const 0⟩]⟩,
   -- PAIR_HEAD_MASK
   ⟨0x15, 1, 0x24, [], .none, false,
    [⟨0, 20, .rw, .held, .const 0xFFFFF⟩]⟩,
   -- PAIR_MISMATCH_INFO
   ⟨0x15, 1, 0x28, [], .none, false,
    [⟨31, 1, .w1c, .live, .const 0⟩,
     ⟨24, 5, .ro, .live, .const 0⟩,
     ⟨16, 5, .ro, .live, .const 0⟩,
     ⟨0, 16, .ro, .live, .const 0⟩]⟩,
   -- PAIR_CNT_UNRESOLVED
   ⟨0x15, 1, 0x40, [], .none, false,
    [⟨0, 32, .rw, .live, .const 0⟩]⟩,
   -- PAIR_CNT_EXCUSED
   ⟨0x15, 1, 0x44, [], .none, false,
    [⟨0, 32, .rw, .live, .const 0⟩]⟩,
   -- PAIR_CNT_BALLOT_MISS
   ⟨0x15, 1, 0x48, [], .none, false,
    [⟨0, 32, .rw, .live, .const 0⟩]⟩,
   -- PAIR_CNT_BLOCKED
   ⟨0x15, 1, 0x4C, [], .none, false,
    [⟨0, 32, .rw, .live, .const 0⟩]⟩,
   -- PAIR_CNT_MIRROR_REFUSED
   ⟨0x15, 1, 0x50, [], .none, false,
    [⟨0, 32, .rw, .live, .const 0⟩]⟩]

def regRowsPAIR1 : List RegDesc :=
  [-- PAIR_MWIN_BASE
   ⟨0x15, 1, 0x100, [(4, 0x8)], .none, false,
    [⟨31, 1, .rw, .held, .const 0⟩,
     ⟨0, 24, .rw, .held, .const 0⟩]⟩,
   -- PAIR_MWIN_LIMIT
   ⟨0x15, 1, 0x104, [(4, 0x8)], .none, false,
    [⟨0, 24, .rw, .held, .const 0⟩]⟩]

/-- The registers of PAIR. -/
def regRowsPAIR : List RegDesc := regRowsPAIR0 ++ regRowsPAIR1

def regRowsTOUCH0 : List RegDesc :=
  [-- TOUCH_CTRL
   ⟨0x16, 1, 0x0, [], .none, false,
    [⟨31, 1, .rw, .live, .const 0⟩,
     ⟨30, 1, .rw, .held, .const 0⟩,
     ⟨16, 6, .rw, .held, .const 0⟩,
     ⟨8, 6, .rw, .held, .const 0⟩]⟩,
   -- TOUCH_STATUS
   ⟨0x16, 1, 0x4, [], .none, false,
    [⟨31, 1, .w1c, .live, .const 0⟩,
     ⟨30, 1, .w1c, .live, .const 0⟩,
     ⟨29, 1, .ro, .live, .const 0⟩,
     ⟨28, 1, .ro, .live, .const 0⟩,
     ⟨0, 3, .ro, .live, .const 0⟩]⟩,
   -- TOUCH_SCAN
   ⟨0x16, 1, 0x8, [], .none, false,
    [⟨16, 16, .rw, .held, .const 0x64⟩,
     ⟨0, 8, .rw, .held, .const 0x40⟩]⟩,
   -- TOUCH_HOP_CTRL
   ⟨0x16, 1, 0xC, [], .none, false,
    [⟨16, 16, .rw, .live, .const 0x20⟩,
     ⟨0, 8, .rw, .held, .const 0xFF⟩]⟩,
   -- TOUCH_HOP
   ⟨0x16, 1, 0x20, [(8, 0x4)], .none, false,
    [⟨16, 16, .ro, .live, .const 0⟩,
     ⟨0, 10, .rw, .held, .lin 125 125⟩]⟩,
   -- TOUCH_TRACK
   ⟨0x16, 1, 0x40, [], .none, false,
    [⟨16, 16, .rw, .live, .const 0x14⟩,
     ⟨0, 8, .rw, .live, .const 0x10⟩]⟩,
   -- TOUCH_RECAL
   ⟨0x16, 1, 0x44, [], .none, false,
    [⟨16, 16, .rw, .live, .const 0x3C⟩,
     ⟨0, 16, .rw, .live, .const 0x28⟩]⟩,
   -- TOUCH_DEB
   ⟨0x16, 1, 0x48, [], .none, false,
    [⟨4, 4, .rw, .live, .const 2⟩,
     ⟨0, 4, .rw, .live, .const 2⟩]⟩,
   -- TOUCH_TEST_CTRL
   ⟨0x16, 1, 0x50, [], .none, false,
    [⟨31, 1, .wo, .live, .const 0⟩,
     ⟨28, 2, .rw, .live, .const 0⟩,
     ⟨8, 16, .rw, .live, .const 0⟩]⟩,
   -- TOUCH_TEST_STATUS
   ⟨0x16, 1, 0x54, [], .none, false,
    [⟨31, 1, .w1c, .live, .const 0⟩,
     ⟨28, 3, .ro, .live, .const 0⟩]⟩,
   -- TOUCH_OPEN_MAP0
   ⟨0x16, 1, 0x58, [], .none, false,
    [⟨0, 32, .ro, .live, .const 0⟩]⟩,
   -- TOUCH_OPEN_MAP1
   ⟨0x16, 1, 0x5C, [], .none, false,
    [⟨0, 16, .ro, .live, .const 0⟩]⟩]

def regRowsTOUCH1 : List RegDesc :=
  [-- TOUCH_SHORT_MAP0
   ⟨0x16, 1, 0x60, [], .none, false,
    [⟨0, 32, .ro, .live, .const 0⟩]⟩,
   -- TOUCH_SHORT_MAP1
   ⟨0x16, 1, 0x64, [], .none, false,
    [⟨0, 16, .ro, .live, .const 0⟩]⟩,
   -- TOUCH_REF_MAP
   ⟨0x16, 1, 0x68, [], .none, false,
    [⟨0, 24, .ro, .live, .const 0⟩]⟩,
   -- TOUCH_WAKE_MASK0
   ⟨0x16, 1, 0x70, [], .none, false,
    [⟨0, 32, .rw, .live, .const 0⟩]⟩,
   -- TOUCH_WAKE_MASK1
   ⟨0x16, 1, 0x74, [], .none, false,
    [⟨0, 16, .rw, .live, .const 0⟩]⟩,
   -- TOUCH_WAKE_CFG
   ⟨0x16, 1, 0x78, [], .none, false,
    [⟨16, 16, .rw, .live, .const 0x64⟩,
     ⟨0, 8, .rw, .live, .const 0xA⟩]⟩,
   -- TOUCH_CMD
   ⟨0x16, 1, 0x80, [], .none, false,
    [⟨1, 1, .wo, .live, .const 0⟩,
     ⟨0, 1, .wo, .live, .const 0⟩]⟩,
   -- TOUCH_CHANGE
   ⟨0x16, 1, 0x84, [], .none, false,
    [⟨31, 1, .ro, .live, .const 0⟩,
     ⟨30, 1, .ro, .live, .const 0⟩,
     ⟨24, 2, .ro, .live, .const 0⟩,
     ⟨0, 10, .ro, .live, .const 0⟩]⟩,
   -- TOUCH_PRESSED
   ⟨0x16, 1, 0x100, [(18, 0x4)], .none, false,
    [⟨0, 32, .ro, .live, .const 0⟩]⟩,
   -- TOUCH_ELEM_INDEX
   ⟨0x16, 1, 0x200, [], .none, true,
    [⟨0, 10, .rw, .live, .const 0⟩]⟩,
   -- TOUCH_ELEM_CFG
   ⟨0x16, 1, 0x204, [], .elem, false,
    [⟨31, 1, .rw, .live, .const 0⟩,
     ⟨30, 1, .rw, .live, .const 0⟩,
     ⟨27, 3, .rw, .live, .const 0⟩,
     ⟨12, 12, .rw, .live, .const 0x64⟩,
     ⟨0, 12, .rw, .live, .const 0x3C⟩]⟩,
   -- TOUCH_ELEM_DATA
   ⟨0x16, 1, 0x208, [], .elem, false,
    [⟨16, 16, .ro, .live, .const 0⟩,
     ⟨0, 16, .ro, .live, .const 0⟩]⟩]

def regRowsTOUCH2 : List RegDesc :=
  [-- TOUCH_ELEM_STATUS
   ⟨0x16, 1, 0x20C, [], .elem, false,
    [⟨30, 2, .ro, .live, .const 0⟩,
     ⟨29, 1, .w1c, .live, .const 0⟩,
     ⟨0, 16, .ro, .live, .const 0⟩]⟩]

/-- The registers of TOUCH. -/
def regRowsTOUCH : List RegDesc := regRowsTOUCH0 ++ regRowsTOUCH1 ++ regRowsTOUCH2

def regRowsDEFL0 : List RegDesc :=
  [-- DEFL_CTRL
   ⟨0x17, 1, 0x0, [], .none, false,
    [⟨0, 1, .rw, .live, .const 0⟩]⟩,
   -- DEFL_STATUS
   ⟨0x17, 1, 0x4, [], .none, false,
    [⟨16, 3, .ro, .live, .const 0⟩,
     ⟨0, 16, .ro, .live, .const 0⟩]⟩,
   -- DEFL_SUBMIT
   ⟨0x17, 1, 0x40, [], .none, false,
    [⟨0, 4, .wo, .live, .const 0⟩]⟩,
   -- DEFL_TICKET
   ⟨0x17, 1, 0x44, [], .none, true,
    [⟨0, 32, .ro, .live, .const 0⟩]⟩,
   -- DEFL_STAGE
   ⟨0x17, 1, 0x80, [(16, 0x4)], .none, true,
    [⟨0, 32, .rw, .live, .const 0⟩]⟩,
   -- DEFL_Q_STATUS
   ⟨0x17, 1, 0x200, [(16, 0x4)], .none, false,
    [⟨31, 1, .rw, .live, .const 1⟩,
     ⟨16, 5, .ro, .live, .const 0⟩,
     ⟨0, 16, .ro, .live, .const 0xFFFF⟩]⟩,
   -- DEFL_CNT_JOBS
   ⟨0x17, 1, 0x300, [], .none, false,
    [⟨0, 32, .rw, .live, .const 0⟩]⟩,
   -- DEFL_CNT_ERR
   ⟨0x17, 1, 0x304, [], .none, false,
    [⟨0, 32, .rw, .live, .const 0⟩]⟩,
   -- DEFL_CNT_SUSPEND
   ⟨0x17, 1, 0x308, [], .none, false,
    [⟨0, 32, .rw, .live, .const 0⟩]⟩]

/-- The registers of DEFL. -/
def regRowsDEFL : List RegDesc := regRowsDEFL0

def regRowsCHECK0 : List RegDesc :=
  [-- CHECK_STATUS
   ⟨0x18, 1, 0x0, [], .none, false,
    [⟨31, 1, .w1c, .live, .const 0⟩,
     ⟨0, 8, .ro, .live, .const 0⟩]⟩,
   -- CHECK_SUBMIT
   ⟨0x18, 1, 0x40, [], .none, false,
    [⟨0, 3, .wo, .live, .const 0⟩]⟩,
   -- CHECK_TICKET
   ⟨0x18, 1, 0x44, [], .none, true,
    [⟨0, 32, .ro, .live, .const 0⟩]⟩,
   -- CHECK_STAGE
   ⟨0x18, 1, 0x80, [(16, 0x4)], .none, true,
    [⟨0, 32, .rw, .live, .const 0⟩]⟩,
   -- CHECK_U_CFG
   ⟨0x18, 1, 0x400, [(8, 0x40)], .none, false,
    [⟨29, 3, .rw, .held, .const 1⟩,
     ⟨28, 1, .rw, .held, .const 0⟩,
     ⟨27, 1, .rw, .held, .const 0⟩,
     ⟨16, 6, .rw, .held, .const 0x20⟩,
     ⟨8, 5, .rw, .held, .const 0x10⟩,
     ⟨0, 8, .rw, .held, .const 1⟩]⟩,
   -- CHECK_U_POLY
   ⟨0x18, 1, 0x404, [(8, 0x40)], .none, false,
    [⟨0, 32, .rw, .held, .const 0⟩]⟩,
   -- CHECK_U_INIT
   ⟨0x18, 1, 0x408, [(8, 0x40)], .none, false,
    [⟨0, 32, .rw, .held, .const 0⟩]⟩,
   -- CHECK_U_XOROUT
   ⟨0x18, 1, 0x40C, [(8, 0x40)], .none, false,
    [⟨0, 32, .rw, .held, .const 0⟩]⟩,
   -- CHECK_U_VALUE
   ⟨0x18, 1, 0x410, [(8, 0x40)], .none, false,
    [⟨0, 32, .rw, .held, .const 0⟩]⟩,
   -- CHECK_U_RESULT
   ⟨0x18, 1, 0x414, [(8, 0x40)], .none, false,
    [⟨0, 32, .ro, .live, .const 0⟩]⟩,
   -- CHECK_U_DATA
   ⟨0x18, 1, 0x418, [(8, 0x40)], .none, false,
    [⟨0, 32, .wo, .held, .const 0⟩]⟩,
   -- CHECK_U_DATA8
   ⟨0x18, 1, 0x41C, [(8, 0x40)], .none, false,
    [⟨0, 8, .wo, .held, .const 0⟩]⟩]

def regRowsCHECK1 : List RegDesc :=
  [-- CHECK_U_CTRL
   ⟨0x18, 1, 0x420, [(8, 0x40)], .none, false,
    [⟨1, 1, .wo, .held, .const 0⟩,
     ⟨0, 1, .wo, .held, .const 0⟩]⟩,
   -- CHECK_U_ALIVE
   ⟨0x18, 1, 0x424, [(8, 0x40)], .none, false,
    [⟨31, 1, .ro, .live, .const 0⟩,
     ⟨0, 16, .ro, .live, .const 0⟩]⟩,
   -- CHECK_U_LAST
   ⟨0x18, 1, 0x428, [(8, 0x40)], .none, false,
    [⟨24, 8, .ro, .live, .const 0⟩,
     ⟨0, 16, .ro, .live, .const 0xFFFF⟩]⟩,
   -- CHECK_U_CNT_FAIL
   ⟨0x18, 1, 0x42C, [(8, 0x40)], .none, false,
    [⟨0, 32, .rw, .live, .const 0⟩]⟩,
   -- CHECK_U_QUEUE
   ⟨0x18, 1, 0x430, [(8, 0x40)], .none, false,
    [⟨0, 4, .ro, .live, .const 0⟩]⟩]

/-- The registers of CHECK. -/
def regRowsCHECK : List RegDesc := regRowsCHECK0 ++ regRowsCHECK1

def regRowsEVT0 : List RegDesc :=
  [-- EVT_DOORBELL
   ⟨0x3, 1, 0x8, [], .none, false,
    [⟨0, 15, .wo, .live, .const 0⟩]⟩,
   -- EVT_SEQ_FAULT_STATUS
   ⟨0x3, 1, 0xC, [], .none, false,
    [⟨0, 24, .w1c, .live, .const 0⟩]⟩,
   -- EVT_PIN_CFG
   ⟨0x3, 1, 0x20, [(4, 0x4)], .none, false,
    [⟨31, 1, .rw, .live, .const 0⟩,
     ⟨0, 16, .rw, .live, .const 0x64⟩]⟩,
   -- EVT_ALARM_MASK
   ⟨0x3, 1, 0x40, [(8, 0x4)], .none, false,
    [⟨0, 32, .rw, .live, .list [0, 0, 0, 0, 0, 0x30000601, 0x8, 0x80000000]⟩]⟩,
   -- EVT_ALARM_LATCH
   ⟨0x3, 1, 0x60, [(8, 0x4)], .none, false,
    [⟨0, 32, .w1c, .live, .const 0⟩]⟩,
   -- EVT_LATCH
   ⟨0x3, 1, 0x80, [(8, 0x4)], .none, false,
    [⟨0, 32, .w1c, .live, .const 0⟩]⟩,
   -- EVT_CNT
   ⟨0x3, 1, 0x400, [(256, 0x4)], .none, false,
    [⟨16, 16, .rw, .live, .const 0⟩,
     ⟨0, 16, .rw, .live, .const 0⟩]⟩,
   -- EVT_ROUTE
   ⟨0x3, 1, 0x800, [(256, 0x4)], .none, false,
    [⟨31, 1, .rw, .live, .const 0⟩,
     ⟨24, 6, .rw, .live, .const 0⟩,
     ⟨23, 1, .rw, .live, .const 0⟩,
     ⟨20, 2, .rw, .live, .const 0⟩,
     ⟨19, 1, .rw, .live, .const 0⟩]⟩,
   -- EVT_SEQLINE
   ⟨0x3, 1, 0x1000, [(24, 0x80), (32, 0x4)], .none, false,
    [⟨31, 1, .rw, .live, .const 0⟩,
     ⟨0, 8, .rw, .live, .const 0⟩]⟩]

/-- The registers of EVT. -/
def regRowsEVT : List RegDesc := regRowsEVT0

def regRowsMON0 : List RegDesc :=
  [-- MON_STATUS
   ⟨0x4, 1, 0x0, [], .none, false,
    [⟨0, 32, .w1c, .live, .const 0⟩]⟩,
   -- MON_CH_CFG
   ⟨0x4, 1, 0x100, [(32, 0x20)], .none, false,
    [⟨31, 1, .rw, .live, .const 0⟩,
     ⟨24, 5, .rw, .live, .const 0⟩,
     ⟨23, 1, .rw, .live, .const 0⟩,
     ⟨16, 5, .rw, .live, .const 0⟩,
     ⟨0, 12, .rw, .live, .const 0⟩]⟩,
   -- MON_CH_BASE
   ⟨0x4, 1, 0x104, [(32, 0x20)], .none, false,
    [⟨0, 32, .rw, .live, .const 0⟩]⟩,
   -- MON_CH_CTRL
   ⟨0x4, 1, 0x108, [(32, 0x20)], .none, false,
    [⟨1, 1, .rw, .live, .const 0⟩,
     ⟨0, 1, .wo, .live, .const 0⟩]⟩,
   -- MON_CH_MIN
   ⟨0x4, 1, 0x10C, [(32, 0x20)], .none, false,
    [⟨0, 32, .ro, .live, .const 0xFFFFFFFF⟩]⟩,
   -- MON_CH_MAX
   ⟨0x4, 1, 0x110, [(32, 0x20)], .none, false,
    [⟨0, 32, .ro, .live, .const 0⟩]⟩,
   -- MON_CH_COUNT
   ⟨0x4, 1, 0x114, [(32, 0x20)], .none, false,
    [⟨0, 32, .ro, .live, .const 0⟩]⟩,
   -- MON_CH_ALARM
   ⟨0x4, 1, 0x118, [(32, 0x20)], .none, false,
    [⟨31, 1, .rw, .live, .const 0⟩,
     ⟨0, 31, .rw, .live, .const 0⟩]⟩,
   -- MON_CH_LAST
   ⟨0x4, 1, 0x11C, [(32, 0x20)], .none, false,
    [⟨0, 32, .ro, .live, .const 0⟩]⟩,
   -- MON_CH_BIN
   ⟨0x4, 1, 0x1000, [(32, 0x100), (64, 0x4)], .none, false,
    [⟨0, 32, .ro, .live, .const 0⟩]⟩]

/-- The registers of MON. -/
def regRowsMON : List RegDesc := regRowsMON0

/-- The registers of the block in a slot (R23); none for a reserved slot. -/
def slotRows (slot : Nat) : List RegDesc :=
  if slot = 0x0 then regRowsSYS else
  if slot = 0x1 then regRowsPROT else
  if slot = 0x2 then regRowsVAULT else
  if slot = 0x3 then regRowsEVT else
  if slot = 0x4 then regRowsMON else
  if slot = 0x5 then regRowsBOOT else
  if 0x6 ≤ slot ∧ slot < 0xA then regRowsDRAMC else
  if slot = 0xA then regRowsFSTORE else
  if slot = 0xB then regRowsREPAIR else
  if slot = 0xC then regRowsTIME else
  if slot = 0xD then regRowsDPLL else
  if slot = 0xE then regRowsPCIE else
  if slot = 0xF then regRowsCHAIN else
  if 0x10 ≤ slot ∧ slot < 0x14 then regRowsETH else
  if slot = 0x14 then regRowsINGEST else
  if slot = 0x15 then regRowsPAIR else
  if slot = 0x16 then regRowsTOUCH else
  if slot = 0x17 then regRowsDEFL else
  if slot = 0x18 then regRowsCHECK else
  if slot = 0x19 then regRowsFRESH else
  if slot = 0x1A then regRowsLEASE else
  if slot = 0x1B then regRowsDECSCHED else
  if slot = 0x1C then regRowsENCSCHED else
  if slot = 0x1D then regRowsLAYERPOOL else
  if 0x20 ≤ slot ∧ slot < 0x60 then regRowsDEC else
  if 0x60 ≤ slot ∧ slot < 0x70 then regRowsENC else
  if 0x80 ≤ slot ∧ slot < 0x94 then regRowsHEAD else
  if 0xA0 ≤ slot ∧ slot < 0xB8 then regRowsSEQ else
  []

end Sys2Proof.Machine
end

