-- ==== Sys2Proof/Machine/State.lean ====
section
/-! DEFINITION. The state of the module as plain data: the register file, memory, and for each
block the state the spec gives it that no register shows. A table keyed by number lists only the
entries that differ from their reset value. -/

namespace Sys2Proof.Machine

/-! ### Power, boot and the host port (spec/02, spec/03) -/

/-- Where the module stands in powering up, running or going down (R41, R45, R50 to R53). -/
inductive PwrPhase
  /-- VIN below the UVLO threshold, or the load switch open for good (R51, R52). -/
  | off
  /-- Soft-start runs, the TCXO starts and the rails come up (R50 steps 1 to 3). -/
  | softStart
  /-- The rails come up after Keep, without the soft-start and TCXO steps (R48, R50 step 3). -/
  | railsRise
  /-- A rail failed; the load switch is open until the retry (R51). -/
  | retryWait
  /-- Rails good and PG_OUT high; internal reset still held (R50 step 3, RESET_N low at step 4). -/
  | railsUp
  /-- Internal reset released: Run or Idle, boot included. -/
  | on
  /-- Power-down runs (R52). -/
  | downing
  /-- A Keep or Dormant request was accepted; the entry runs (R45). -/
  | entering
  | keep
  | dormant
  /-- Held in reset by a thermal trip (R53, R56). -/
  | tripped
  deriving DecidableEq, Repr

structure Power where
  phase : PwrPhase
  /-- Soft-start attempts that failed since VIN was applied (R51). -/
  railTries : Nat
  railLatched : Bool
  tripLatched : Bool
  /-- RESET_N is held low. -/
  resetLow : Bool
  /-- WAKE_N is low, where the command that runs tells it (R44). -/
  wakeLow : Option Bool
  /-- The accepted request was for Dormant (else Keep). -/
  toDormant : Bool
  /-- TCXO periods spent in Keep (R47). -/
  keepTicks : Nat
  deriving DecidableEq, Repr

/-- Boot progress that BOOT.STATUS does not show (R92). -/
structure Boot where
  /-- The boot ROM runs on SEQ23 (R50 step 4). -/
  romStarted : Bool
  /-- Length of the image read or announced, once it is in staging. -/
  imageLen : Option Nat
  zeroFilled : Bool
  trained : Bool
  /-- The lowest byte lane that failed training. -/
  trainFail : Option Nat
  fsCleared : Bool
  /-- The header checks and the signature have passed. -/
  verified : Bool
  /-- Boot stopped at a failed check. -/
  halted : Bool
  deriving DecidableEq, Repr

/-- One MSI-X vector (R58, R481): address, data, mask bit and pending bit. -/
structure MsixVec where
  addrLo : Word
  addrHi : Word
  data : Word
  masked : Bool
  pendingBit : Bool
  deriving DecidableEq, Repr

structure Pcie where
  linkUp : Bool
  d3hot : Bool
  vecs : List (Nat × MsixVec)
  /-- Forwarded or own events that could not be delivered with the link down (R60). -/
  undelivered : Nat
  deriving DecidableEq, Repr

/-- Messages between neighbouring modules on the Apbud ports (R70 to R81, R341). -/
inductive ChainMsg
  | token (value gen : Nat)
  | endOf (count : Nat) (overflow : Bool)
  | event (addr : Nat)
  | report (addr : Nat)
  /-- A REG request: a read of `len` bytes, or a write of data. -/
  | request (tag target addr len : Nat) (bar2 : Bool) (data : Option (List Byte))
  | completion (tag : Nat) (data : List Byte)
  /-- A relayed session packet: target, arrival stamp and UDP payload (R167). -/
  | relay (target session stamp : Nat) (payload : List Byte)
  /-- Host-queue traffic for the head to write to host memory (R77). -/
  | hostWrite (addr : Nat) (bytes : List Byte)
  | timeRequest
  | timeReply (t2 t3 : Nat) (ofsA ofsB : Int) (stA stB : DomState)
  deriving DecidableEq, Repr

/-- Where the data of a completed read goes: to the master, to the host, or back along the chain. -/
inductive Reply
  | data | host | chain (tag : Nat)
  deriving DecidableEq, Repr

/-- A remote read the head holds outstanding (R72, R74). -/
structure RemoteRead where
  tag : Nat
  target : Nat
  len : Nat
  /-- LOCAL at which the request was sent, in ns (R484). -/
  sentNs : Nat
  deriving DecidableEq, Repr

/-- A RELAY packet held for want of credit (R77): a host queue's or a session's. -/
structure RelayItem where
  hostQueue : Bool
  idx : Nat
  msg : ChainMsg
  deriving DecidableEq, Repr

/-- One Apbud port (R70, R77): next sequence expected, ticks of the refusals within the last
millisecond, next sequence to send, the last 64 flits sent, newest first, whether the neighbour
gives RELAY credit, and the packets held without it. -/
structure ApPort where
  rxNext : Nat
  refusals : List Nat
  txNext : Nat
  replay : List (Nat × ChainMsg)
  credit : Bool
  /-- RELAY packets that wait for the other classes, or for credit. -/
  relayHeld : List RelayItem
  /-- Numbers of TIME flits, later than the next expected, that have come or been refused: they are not replayed. -/
  passed : List Nat
  /-- Messages of the other classes that are ready, oldest first (R69). -/
  ready : List ChainMsg
  /-- What is left of the flit in transmission, in 1/100 ns (R68). -/
  busy : Nat
  deriving DecidableEq, Repr

structure Chain where
  up : ApPort
  down : ApPort
  reads : List RemoteRead
  nextTag : Nat
  /-- Windows 0 to `routed` - 1 are routed by the head (R62, R81). -/
  routed : Nat
  /-- The module has been the head since reset (R80). -/
  wasHead : Bool
  /-- An enumeration has passed this member down the chain and has not come back: TOKEN has gone on and END not. -/
  enumPass : Bool
  deriving DecidableEq, Repr

/-! ### Sequencers (spec/04) -/

/-- What a waiting sequencer waits for (R117 to R124, R113, R129). -/
inductive SeqWait
  | none
  /-- The head, the target line, and whether that line has started since issue. -/
  | line (head target : Nat) (hit : Bool)
  | time (dom sec ns : Nat)
  | evt (rd : BitVec 5) (mask : Word)
  | cyc (count : Nat)
  /-- The accesses issued before this fence have numbers below `before` (R129). -/
  | fence (before : Nat)
  /-- A register access in flight, checked at issue; `denied` is what the check found (R406). -/
  | read (access : Nat) (rd : BitVec 5) (slot off : Nat) (denied : Bool)
  | write (access : Nat) (slot off : Nat) (value : Word) (denied : Bool)
  | commit (access : Nat) (rd : BitVec 5) (slot : Nat) (value : Word) (denied : Bool)
  deriving DecidableEq, Repr

structure Seq where
  /-- w1 to w31, by number; w0 reads 0 (R101). -/
  w : List (Nat × Word)
  wait : SeqWait
  /-- STOP was accepted and takes effect at the next instruction boundary (R135). -/
  stopReq : Bool
  /-- STEP: one instruction, then HALTED (R134). -/
  stepping : Bool
  /-- The first instruction after RESUME or STEP passes a breakpoint (R138). -/
  passBkpt : Bool
  /-- The last word of instruction RAM has executed without a jump (R115). -/
  runOn : Bool
  deriving DecidableEq, Repr

/-! ### Time (spec/11) -/

/-- A second-order tracker (R333): its frequency term, its pull-in term, and the ticks of its last
accepted samples, newest first. -/
structure Tracker where
  integ : Rat
  pull : Rat
  hist : List Nat
  deriving DecidableEq, Repr

structure Domain where
  st : DomState
  trk : Tracker
  /-- OFS_X in units of 2^-28 ns (R331). -/
  ofs : Int
  /-- Tick of the last accepted sample. -/
  lastAcc : Option Nat
  /-- Consecutive samples within LOCK_THRESH (R334). -/
  lockRun : Nat
  /-- Outliers since the last accepted sample (R334). -/
  outlierRun : Nat
  /-- State carried by the last time message from upstream, and the tick of its arrival (R336). -/
  upState : Option (Nat × DomState)
  /-- Total PHASE_STEP has applied to this view, in 2^-28 ns (R489). -/
  applied : Int
  deriving DecidableEq, Repr

structure Dpll where
  st : DomState
  active : Option Nat
  trk : Tracker
  /-- f while no input is active (R345, R348). -/
  held : Rat
  lockRun : Nat
  /-- Consecutive samples above 4 LOCK_THRESH (R347). -/
  farRun : Nat
  /-- The next sample is the first of a newly active input (R347). -/
  firstSample : Bool
  /-- Changes of integ since the DPLL became LOCKED: tick and new value, newest first (R348). -/
  integLog : List (Nat × Rat)
  /-- Value of e at selection, subtracted in FREQ mode (R345). -/
  freqBase : Option Rat
  /-- Inputs that are valid, and those of them that are qualified. -/
  valid : List Nat
  qualified : List Nat
  /-- Measured offset of an input from its nominal frequency, ppb (INk_STATUS.FOFS). -/
  fofs : List (Nat × Int)
  /-- Total PHASE_STEP has applied to LOCAL, in 2^-28 ns (R489). -/
  applied : Int
  /-- PHASE_REMAIN and its target (R349), in 2^-28 ns. -/
  remain : Int
  slewTarget : Nat
  slewing : Bool
  deriving DecidableEq, Repr

structure Time where
  /-- TIME_CLK ticks since reset: the clock the sample history is measured by. -/
  ticks : Nat
  /-- LOCAL in units of 2^-28 ns, modulo 2^48 s (R327). -/
  now : Nat
  domA : Domain
  domB : Domain
  /-- t1 of the exchange in progress on the UP port (R341). -/
  exchange : Option Nat
  /-- The states that PTP_A and PTP_B reported before this tick (R213). -/
  prior : DomState × DomState
  deriving DecidableEq, Repr

/-- Output balls driven by pulses (R352, R353, R480). -/
structure Pins where
  /-- EVT_OUTk pulses in progress (R480): the ball and the sources whose pulse it is. -/
  evtOut : List (Nat × List Nat)
  frameOut : List Nat
  ppsOut : Bool
  /-- TIME_CLK ticks of the last rising edge of FRAME_OUTk and of 1PPS_OUT (R354). -/
  frameEdge : List (Nat × Nat)
  ppsEdge : Option Nat
  deriving DecidableEq, Repr

/-! ### Memory, repair, protection and leases (spec/12, spec/13, spec/08) -/

/-- An access that waits for the DRAM controller (R43, R361, R365), or for an earlier access of the host
that does (R73). -/
structure HeldAccess where
  id : Nat
  mst : Nat
  addr : Nat
  /-- Bytes to read, for a read. -/
  len : Nat
  /-- The data, for a write. -/
  data : Option (List Byte)
  reply : Reply
  /-- The parts that the checks at its issue have allowed (R259, R406). -/
  parts : List (Nat × Nat)
  /-- Entries of the transmit ring that go with a write of HQ5_PTR (R165). -/
  ring : List (List Byte)
  deriving DecidableEq, Repr

/-- A frequency change (R364 to R366). -/
inductive FcState
  | idle
  /-- Requested; waiting for a window. -/
  | requested (target : Nat)
  /-- Running toward the target; accesses held. -/
  | running (target : Nat)
  /-- Verification failed; running back to the old point. -/
  | returning
  deriving DecidableEq, Repr

/-- A freeze condition found during a frequency change (R366). -/
structure FreezeCause where
  command : Bool
  channel : Nat
  mst : Nat
  cmd : Nat
  addr : Nat
  synd : Nat
  word : Nat
  deriving DecidableEq, Repr

structure Dram where
  fc : FcState
  /-- 64-byte reads of each class since the last that the monitors sampled (R484). -/
  reads : List (Nat × Nat)
  held : List HeldAccess
  /-- TIME_CLK tick of the last access by any master (R42). -/
  lastUse : Nat
  /-- Refresh debt of each channel (R372). -/
  debt : List (Nat × Nat)
  pendingFreeze : Option FreezeCause
  /-- The diagnostic operation in progress: OP and the burst's address (R377). -/
  diag : Option (Bool × Nat)
  /-- The UNWRITE command in progress: first line and line count (R383). -/
  unwrite : Option (Nat × Nat)
  /-- Channels whose die MR4 last reported above 85 °C (R371). -/
  hot : List Nat
  deriving DecidableEq, Repr

/-- A correctable error waiting for the scrubber's write-back (R389): memory, device address,
storage word and syndrome position. -/
structure CorrPending where
  fs : Bool
  addr : Nat
  key : Nat
  pos : Nat
  /-- The capture in CE_INFO is this error's. -/
  captured : Bool
  deriving DecidableEq, Repr

/-- What REPAIR is copying (R393, R394). -/
inductive RepairJob
  /-- Macro and row into a spare row of the macro. -/
  | spareRow (phys : Nat)
  /-- Granule g into reserve granule r. -/
  | granule (g r : Nat)
  deriving DecidableEq, Repr

/-- The armed injection (R399): the storage word, and whether the first write has come. -/
structure Inject where
  key : Nat
  injected : Bool
  deriving DecidableEq, Repr

structure Repair where
  corr : List CorrPending
  /-- Faulty physical frame-store addresses, oldest first, at most 8 (R393). -/
  faults : List Nat
  job : Option RepairJob
  /-- Spare rows taken at run time or marked unusable, by macro. -/
  sparesTaken : List (Nat × Nat)
  /-- Reserve granules in use or unusable. -/
  reserveTaken : List Nat
  /-- Page-offline queue: page and whether the cause was uncorrectable, oldest first (R397). -/
  offline : List (Nat × Bool)
  offlineOverflow : Bool
  inject : Option Inject
  /-- Next line or word of each sweep (R391). -/
  dramSweep : Nat
  fsSweep : Nat
  vaultSweep : Nat
  deriving DecidableEq, Repr

/-- The three copies of the vault (R401). -/
structure Vault where
  a : List (Nat × Word)
  b : List (Nat × Word)
  c : List (Nat × Word)
  deriving DecidableEq, Repr

/-- An active lease (R258). -/
structure Lease where
  head : Nat
  layer : Nat
  plane : Nat
  /-- The plane's base address. -/
  addr : Nat
  first : Nat
  last : Nat
  deriving DecidableEq, Repr

structure Leases where
  table : List (Nat × Lease)
  /-- LEASE.ENDED: head, layer and plane, oldest first, at most 256 (R261). -/
  ended : List (Nat × Nat × Nat)
  endedOverflow : Bool
  deriving DecidableEq, Repr

/-! ### The pair (spec/14) -/

/-- A ballot that waits for its ballot latch, with the register file as it stood when it arrived and the
commits that the active took (R427). -/
structure WaitingBallot where
  ballot : Ballot
  regs : List (Nat × Word)
  commitHead : Bool
  commitLayers : Bool
  commitFresh : Bool
  deriving DecidableEq, Repr

structure Pair where
  /-- The unit drives POSS_N low: it holds possession (R416). -/
  poss : Bool
  /-- The partner has been decided to hand over; the cause (R419, R433). -/
  grant : Option Nat
  /-- The partner's last status message: holds possession, eligible (R421, R433). -/
  partnerPoss : Bool
  partnerEligible : Bool
  /-- Heads whose referee failed in their last frame (R419). -/
  refFailed : List Nat
  /-- Heads whose referee the partner has reported as failed in their last frame. -/
  partnerRefFailed : List Nat
  /-- TIME_CLK ticks at the partner's last message that states ELIGIBLE, and at the last restart of the
  watchdog (R433, R434). -/
  heard : Option Nat
  kick : Nat
  /-- Own and partner signature messages that wait for the other's. -/
  ownSigs : List SigMsg
  partnerSigs : List SigMsg
  ballots : List WaitingBallot
  /-- Consecutive good and consecutive unresolved frames (R436). -/
  syncRun : Nat
  unresRun : Nat
  /-- Heads whose next latch is still a ballot latch after an acquisition (R434). -/
  takeover : List Nat
  /-- The cause of the last handover, until the partner holds possession (R437). -/
  announced : Option Nat
  /-- Grid index of the last frame compared or balloted. -/
  grid : Nat
  /-- Frames, by head and grid index, that were latched without a ballot sent or followed (R436). -/
  alone : List (Nat × Nat)
  /-- What the 64 KiB buffer of mirrored data holds, in 1/16 byte (R424). -/
  mirrorFill : Nat
  deriving DecidableEq, Repr
/-! ### Touch (spec/15) -/

/-- What TOUCH keeps of one element (R445 to R448). -/
structure TouchElem where
  /-- Calibration counts by hop index (R445). -/
  cal : List (Nat × Nat)
  /-- BASELINE has been set. -/
  hasBase : Bool
  negRun : Nat
  trackRun : Nat
  onRun : Nat
  offRun : Nat
  /-- Pressed after debounce, before suppression (R447 step 3, R448). -/
  down : Bool
  /-- Tick from which it has been reported pressed without a break. -/
  since : Nat
  /-- A REBASE acts at the end of the next scan. -/
  rebase : Bool
  deriving DecidableEq, Repr

/-- One channel of the wake scan (R452). -/
structure WakeChan where
  base : Nat
  negRun : Nat
  onRun : Nat
  deriving DecidableEq, Repr

structure Touch where
  elems : List (Nat × TouchElem)
  /-- TOUCH.CHANGE: element and state, oldest first, at most 64 (R449). -/
  change : List (Nat × Nat)
  changeOverflow : Bool
  /-- Calibration scans run or wait for the scan in progress to end. -/
  calibrating : Bool
  /-- ELEM_CFG of the listed elements as the scan in progress started (element, word). -/
  scan : Option (List (Nat × Word))
  /-- Hop index listened to last beside the current one (R443). -/
  listen : Nat
  /-- Kind of the test that GO asked for. -/
  go : Option Nat
  /-- Kinds of the automatic tests to come (TEST_PERIOD). -/
  auto : List Nat
  /-- Kind of the test that runs. -/
  test : Option Nat
  /-- Channels of the wake scan, and BURST and NEG_RECAL as they stood at entry into Keep. -/
  wake : List (Nat × WakeChan)
  wakeBurst : Nat
  wakeNeg : Nat
  deriving DecidableEq, Repr


/-! ### Pictures and the decode fabric (spec/06) -/

/-- What ingest hands on with a released unit (R157 to R161): times are LOCAL, in ns. -/
structure UnitInfo where
  session : Nat
  /-- Number of the unit, counted by the model. -/
  id : Nat
  rtp : Word
  capture : Nat
  arrival : Nat
  incomplete : Bool
  ctNone : Bool
  ctFuture : Bool
  /-- Liveness data in the form of DESC_LIVE. -/
  live : Word
  deriving DecidableEq, Repr

/-- Kinds of random access point (R179). -/
inductive Rap
  | none | idr | cra | recovery | jpeg
  deriving DecidableEq, Repr

/-- A partition that a picture is cut into (R182): luma samples, coded bits, whether it waits for the row
above (WPP), and the rows of the cropped picture it covers. -/
structure PartFacts where
  samples : Nat
  bits : Nat
  follows : Bool
  top : Nat
  rows : Nat
  deriving DecidableEq, Repr

/-- A coded picture, or a slice of one, with its parameter sets resolved and its partitions cut (R174 to
R182, R190, R201 to R205, R251). -/
structure CodedPic where
  rap : Rap
  leading : Bool
  rasl : Bool
  newSequence : Bool
  nonRef : Bool
  poc : Int
  refs : List Int
  keep : List Int
  reorder : Nat
  recovered : Option Int
  chroma : Chroma
  tenBits : Bool
  codedW : Nat
  codedH : Nat
  cropX : Nat
  cropY : Nat
  width : Nat
  height : Nat
  preset : Nat
  parts : List PartFacts
  bounds : List (Nat × Nat)
  deriving DecidableEq, Repr

/-- What a descriptor's registers do not show of its picture. -/
structure Picture where
  /-- Number of the picture, counted by the model: pictures differ by it. -/
  serial : Nat
  unit : UnitInfo
  chroma : Chroma
  tenBits : Bool
  codedW : Nat
  codedH : Nat
  cropX : Nat
  cropY : Nat
  width : Nat
  height : Nat
  preset : Nat
  jpeg : Bool
  /-- Place in output order: coded video sequence of the stream, and position within it. -/
  seqNo : Nat
  poc : Int
  /-- The stream's EN was cleared since (R180); and the picture is abandoned (R180, R196, R376). -/
  stale : Bool
  abandoned : Bool
  /-- The TIME_CLK tick on which it became READY (R16). -/
  readyAt : Nat
  frozenAlive : Bool
  frozenSig : Bool
  queued : Nat
  deadline : Rat
  /-- Leading luma rows that are final (R184), when the first and the last became final, and how many became
  final with the first. -/
  front : Nat
  firstFinal : Nat
  firstRows : Nat
  lastFinal : Nat
  deriving DecidableEq, Repr

/-- A decode job: a picture, or in chase release a slice (R185, R192). -/
structure DecJob where
  unit : UnitInfo
  facts : CodedPic
  slice : Bool
  /-- An end-of-sequence or end-of-bitstream NAL unit follows (R201). -/
  ends : Bool
  /-- The session releases in chase mode (R192), and when the last packet of the job arrived. -/
  chase : Bool
  lastPacket : Nat
  queued : Nat
  deadline : Rat
  prio : Nat
  deriving DecidableEq, Repr

/-- Where a partition stands. -/
inductive PartState
  | waiting
  /-- A cell has chosen it and works on another one still. -/
  | chosen (cell : Nat)
  | running (cell : Nat)
  | done
  deriving DecidableEq, Repr

/-- A partition of a picture in decode (R182, R193). -/
structure DecPart where
  idx : Nat
  /-- Work (R172) in thirds of a ns. -/
  work : Nat
  samples : Nat
  /-- Rows of the cropped picture. -/
  top : Nat
  rows : Nat
  follows : Bool
  /-- The partition that is the remainder of this one (R193), the cell that worked on this one, and the place
  of its end among the ends of the picture's partitions. -/
  rest : Option Nat
  cell : Option Nat
  ended : Nat
  chase : Bool
  lastPacket : Nat
  deadline : Rat
  st : PartState
  deriving DecidableEq, Repr

/-- A block of a picture in decode as it stands in memory: its plane, its number, its code and its samples
(R197, R199). -/
structure WrittenBlock where
  chroma : Bool
  block : Nat
  code : Nat
  samples : List Nat
  deriving DecidableEq, Repr

/-- A picture in decode, or decoded with filtering or writes outstanding (R183, R200). -/
structure DecPic where
  desc : Nat
  facts : CodedPic
  parts : List DecPart
  bounds : List (Nat × Nat)
  impaired : Bool
  concealed : Bool
  /-- A chase picture; and whether ingest has closed its unit (R192). -/
  chase : Bool
  closed : Bool
  /-- The cell that took the job. -/
  taker : Nat
  ends : Bool
  /-- References that were not in the DPB, each with the descriptor of the picture that stands for it, none
  for mid-grey (R204); and the descriptor of the nearest reference (R206). -/
  subst : List (Int × Option Nat)
  nearRef : Option Nat
  /-- Areas of partitions that are concealed (R206), the blocks written so far, and the boundaries that have
  been filtered: the row below each, and the cell that filtered it (R183). -/
  lost : List Area
  written : List WrittenBlock
  filtered : List (Nat × Nat)
  deriving DecidableEq, Repr

/-- The previous picture of the freeze detectors (R216). -/
structure Seen where
  live : Word
  sig : Word
  final : Bool
  deriving DecidableEq, Repr

structure DecStream where
  jobs : List DecJob
  cur : Option DecPic
  finishing : List DecPic
  /-- Pictures held back for output order: position and descriptor (R201). -/
  held : List (Int × Nat)
  reorder : Nat
  seqNo : Nat
  /-- Pictures used for reference: picture order count and descriptor. -/
  dpb : List (Int × Nat)
  /-- Descriptors of abandoned pictures whose writes may still run (R180). -/
  leaving : List Nat
  /-- The unit of the starting CRA, whose RASL pictures are skipped (R179). -/
  skipRasl : Option Nat
  /-- The next READY picture is the first since RUNNING was entered (R216). -/
  fresh : Bool
  prev : Option Seen
  /-- A recovery point's recovery completes at this position, and pictures before it are IMPAIRED
  because the stream started there (R179, R205). -/
  recoverAt : Option Int
  recovering : Bool
  /-- ns per source row of the previous picture (R195). -/
  pace : Option Rat
  /-- Chase units that ingest has closed, and whether slices of them are missing (R192). -/
  closing : List (Nat × Bool)
  /-- Parameter sets (R181), and those rejected since: whether a picture parameter set, and the identifier
  (R206). -/
  seqSets : List SeqSet
  picSets : List PicSet
  rejected : List (Bool × Nat)
  /-- The chase unit whose picture was refused (R203), and the last 16 units that were counted as dropped, newest
  first: slices of them may still come. -/
  refused : Option Nat
  counted : List Nat
  deriving DecidableEq, Repr

/-- A decode cell: the partition it works on, the one it has chosen to follow (stream and partition),
the stream whose context is being loaded, a chase job it takes once its partition has ended (R193), and the intervals
of the last millisecond in which it was busy. -/
structure DecCell where
  cur : Option (Nat × Nat)
  next : Option (Nat × Nat)
  loading : Option Nat
  /-- The stream whose context the cell holds. -/
  holds : Option Nat
  preempt : Option Nat
  busyFrom : Option Nat
  busyLog : List (Nat × Nat)
  deriving DecidableEq, Repr

structure Decode where
  streams : List (Nat × DecStream)
  cells : List (Nat × DecCell)
  pics : List (Nat × Picture)
  /-- DECSCHED.RETIRE, oldest first, at most 256 (R200). -/
  retire : List Nat
  retireOverflow : Bool
  nextSerial : Nat
  deriving DecidableEq, Repr

/-! ### Layers and heads (spec/07 to spec/09) -/

/-- A picture as a layer shows it: the marks FRESH took at the latch or the chase switch (R219). -/
structure Shown where
  desc : Nat
  serial : Nat
  seqNo : Nat
  poc : Int
  capture : Nat
  arrival : Nat
  live : Word
  sig : Word
  /-- The signature is the picture's own: it was READY when taken, or has become so since. -/
  final : Bool
  impaired : Bool
  frozenAlive : Bool
  frozenSig : Bool
  /-- The age comes from arrival (R212). -/
  byArrival : Bool
  deriving DecidableEq, Repr

/-- Where a layer's pennant stands (R228). -/
structure PenPlace where
  x : Int
  y : Int
  hoistRight : Bool
  deriving DecidableEq, Repr

/-- What the module keeps of a layer slot. -/
structure Layer where
  shown : Option Shown
  /-- The newer picture a chase-mode layer switched to at line 0 (R195). -/
  chased : Option Shown
  /-- Offside from this line on (R196). -/
  offside : Option Nat
  /-- Entries of its leases, plane 0 first (R258). -/
  leases : List Nat
  leaseWait : Bool
  /-- The stream that the layer is bound to, once enabled (R223). -/
  bound : Option Nat
  /-- NETWORK_ALLOWANCE of its stream's session in ns, as read at the last latch (R215). -/
  allowance : Nat
  pen : Option PenPlace
  /-- PEN_SUPPRESSED or PEN_OVERLAP has changed since the last close of a frame (R234). -/
  penChanged : Bool
  /-- The entry of the ballot that the frame in progress follows (R427). -/
  ballot : Option BallotEntry
  /-- The picture shown when the phase last advanced (R230). -/
  phaseSerial : Option Nat
  phaseSeen : Seen
  /-- Of the frame in progress: its first hatched line, unwritten frame store read, conditions so far,
  first and last ages. -/
  struck : Option Nat
  unwritten : Bool
  causes : Nat
  firstAge : Option Nat
  lastAge : Nat
  split : Bool
  deriving DecidableEq, Repr

/-- Results of a frame, final with its FRAME_DONE (R282 to R284, R430): windows by number with mode,
expected value and result. -/
structure FrameResult where
  crc : Word
  wins : List (Nat × Nat × Word × Word)
  grid : Int
  referee : Option Bool
  excused : Bool
  deriving DecidableEq, Repr

/-- A DSI command that waits or runs: LP mode, data type and bytes (R301). -/
structure DsiCommand where
  lp : Bool
  dt : Nat
  bytes : List Byte
  /-- The link has carried it. -/
  sent : Bool
  deriving DecidableEq, Repr

structure Head where
  /-- Line in progress and LOCAL at its start, lines of the frame in progress, frames started since
  enable (R119, R270). -/
  line : Nat
  startAt : Nat
  vtot : Nat
  frames : Nat
  /-- The pixel clock offset of the frame, ppm. -/
  ppm : Rat
  /-- Consecutive line 0 starts within 50 ns (R271). -/
  okRun : Nat
  /-- Pending commits: of the head's whole set, of LAYERPOOL and of FRESH fields (R238). -/
  commitHead : Bool
  commitLayers : Bool
  commitFresh : Bool
  tag : Nat
  /-- Domains that were in arrival-time mode at the last latch (R213). -/
  arrivalA : Bool
  arrivalB : Bool
  /-- Vault words 0x10 to 0x14 as read by majority at the last latch (R233). -/
  penWords : List Word
  /-- Words of the line in progress (R283). -/
  cur : List Nat
  crc : Word
  wins : List (Nat × Word)
  /-- Region push: band CRCs of the frame being composed and of the last composed one, dirty bands,
  consecutive frames without a region, frames composed (R285, R286). -/
  bands : List (Nat × Word)
  prevBands : List (Nat × Word)
  dirty : List Nat
  still : Nat
  /-- Frame-store mode: the coming or current frame is composed, up to this line; the stored frame is
  incomplete (R279, R280). -/
  composing : Bool
  composedTo : Nat
  incomplete : Bool
  wasFs : Bool
  /-- An underrun event was raised in this frame. -/
  underran : Bool
  /-- Grid index of the coming frame and of the frame in progress (R268). -/
  grid : Int
  gridNow : Int
  /-- The coming frame, and the frame in progress, is excused (R427). -/
  excused : Bool
  excusedNow : Bool
  result : Option FrameResult
  /-- Windows that gave a result in the frame before (R284). -/
  computed : List Nat
  /-- When line 0 is to come after an accepted enable, in ns of the grid's view or of LOCAL (R269); none
  once the head has started. -/
  target : Option Rat
  /-- DSI: the line that the last TE edge makes line 0 (R300); no edge arrived for 2 frame periods. -/
  teAt : Option Nat
  teLost : Bool
  dsi : Option DsiCommand
  /-- The link was unplugged since reset (R296). -/
  unplugged : Bool
  /-- Retries of the AUX transaction so far; it waits for its next retry; it waits for training (R297). -/
  auxRetries : Nat
  auxDeferred : Bool
  auxWaits : Bool
  deriving DecidableEq, Repr

def DecStream.reset : DecStream :=
  { jobs := [], cur := none, finishing := [], held := [], reorder := 0, seqNo := 0, dpb := [], leaving := [],
    skipRasl := none, fresh := false, prev := none, recoverAt := none, recovering := false, pace := none,
    closing := [], seqSets := [], picSets := [], rejected := [], refused := none, counted := [] }

def DecCell.reset : DecCell :=
  { cur := none, next := none, loading := none, holds := none, preempt := none,
    busyFrom := none, busyLog := [] }

def Decode.reset : Decode := ⟨[], [], [], [], false, 0⟩

def Layer.reset : Layer :=
  { shown := none, chased := none, offside := none, leases := [],
    leaseWait := false, bound := none, allowance := 0, pen := none, penChanged := false, ballot := none, phaseSerial := none,
    phaseSeen := ⟨0, 0, false⟩, struck := none, unwritten := false, causes := 512, firstAge := none,
    lastAge := 0, split := false }

def Head.reset : Head :=
  { line := 0, startAt := 0, vtot := 0, frames := 0, ppm := 0, okRun := 0, commitHead := false,
    commitLayers := false, commitFresh := false, tag := 0, arrivalA := true, arrivalB := true,
    penWords := [], cur := [], crc := 0xFFFFFFFF, wins := [], bands := [], prevBands := [], dirty := [], still := 0,
    composing := false, composedTo := 0, incomplete := false, wasFs := false, underran := false,
    grid := 0, gridNow := 0, excused := false, excusedNow := false, result := none, computed := [],
    target := none, teAt := none, teLost := false, dsi := none, unplugged := false, auxRetries := 0, auxDeferred := false,
    auxWaits := false }

/-! ### Ingest (spec/05) -/

/-- A liveness element (R160): the data in the form of DESC_LIVE, and CAPTURE_ADJ in ns. -/
structure Liveness where
  word : Word
  adj : Int
  deriving DecidableEq, Repr

/-- A packet in the jitter buffer: sequence number counted on past 65 535, stamp (LOCAL), and payload after
the RTP header. -/
structure IngPacket where
  seq : Nat
  stamp : Nat
  marker : Bool
  live : Option Liveness
  payload : List Byte
  deriving DecidableEq, Repr

/-- A slice of a chase unit: its sequence numbers, what it holds, and whether it has been released. -/
structure IngSlice where
  first : Nat
  last : Nat
  stamp : Nat
  facts : PicFacts
  released : Bool
  deriving DecidableEq, Repr

/-- A pair of RTP timestamp and domain time (R158): ns of the domain, and LOCAL at its write. -/
structure MapPair where
  rtp : Word
  time : Nat
  dom : Nat
  since : Nat
  deriving DecidableEq, Repr

/-- A unit not yet released (R152): its packets in sequence order, the numbers of packets dropped from it,
when it closed (LOCAL ns), its slices, and what extraction has given it: the number up to which its packets
have been read, the source's capture time (LOCAL units; none without a mapping), the liveness data with
whether an element brought it, and the result. -/
structure IngUnit where
  id : Nat
  rtp : Word
  packets : List IngPacket
  drops : List Nat
  closedAt : Option Nat
  slices : List IngSlice
  readTo : Nat
  base : Option (Option Int)
  live : Option (Bool × Liveness)
  info : Option UnitInfo
  deriving DecidableEq, Repr

/-- What ingest keeps of a session: the highest number received and those received in the window (R155);
the highest number that has gone, and whether a marker ended the unit it belonged to; timestamps and last
numbers of units that have gone; the SSRC; units in sequence order; buffer space that released units still
use (R156); the mapping pairs, newest first (R158); LOCAL when EN was last cleared (R149). -/
structure Session where
  high : Option Nat
  got : List Nat
  floor : Option Nat
  ended : Bool
  gone : List (Word × Nat)
  ssrc : Option Word
  units : List IngUnit
  released : List (Nat × Nat)
  maps : List MapPair
  cleared : Option Nat
  deriving DecidableEq, Repr

structure Ingest where
  sessions : List (Nat × Session)
  nextUnit : Nat
  /-- Transmit entries of HQ5 not yet sent: index, and bytes where they have been read (R165). -/
  tx : List (Nat × Option (List Byte))
  deriving DecidableEq, Repr

def Session.reset : Session := ⟨none, [], none, false, [], none, [], [], [], none⟩

def Ingest.reset : Ingest := ⟨[], 0, []⟩
/-! ### Encode (spec/10) -/

/-- The fields of a session entry that an encode stream copies at its enable (R319). -/
structure EncTx where
  port : Nat
  vid : Option Nat
  v6 : Bool
  dst : Nat
  src : Nat
  udpPort : Nat
  ssrc : Word
  pt : Nat
  livId : Nat
  rtpOffset : Nat
  deriving DecidableEq, Repr

/-- A slice of a coded picture (R304, R316): when it became ready (LOCAL ns), the cell that runs it, its
allotment, the bits it took, and its NAL unit. -/
structure EncSlice where
  readyAt : Option Nat
  cell : Option Nat
  allot : Nat
  bits : Option Nat
  nal : List Byte
  deriving DecidableEq, Repr

/-- A picture of an encode stream: its source slot or descriptor, its capture time in ns of CT_DOM
(R320), the output rows in the ring, its liveness data in the form of DESC_LIVE, and, once it has started,
its cap and target (R313) and its quantisers. -/
structure EncPic where
  slot : Option Nat
  desc : Option Nat
  capture : Nat
  rows : Nat
  /-- The liveness data come with the source picture (R321). -/
  given : Bool
  live : Word
  started : Bool
  idr : Bool
  /-- Coded pictures since the last IDR picture. -/
  order : Nat
  cap : Nat
  target : Nat
  qpLo : Nat
  qpHi : Nat
  qpI : Nat
  qpP : Nat
  slices : List EncSlice
  /-- Slices packetised. -/
  sent : Nat
  short : Bool
  /-- The reference buffer that it is reconstructed in, of two (R310). -/
  buf : Nat
  /-- Sum of the QPs of coded CTUs. -/
  qpSum : Nat
  deriving DecidableEq, Repr

/-- A packet that waits for its port (R322); the ready time of the slice whose last packet it is. -/
structure EncPacket where
  port : Nat
  frame : List Byte
  lastOf : Option Nat
  deriving DecidableEq, Repr

structure EncStream where
  tx : Option EncTx
  /-- Pictures captured or in coding, oldest first. -/
  pics : List EncPic
  /-- The frame in progress is being captured, into the newest picture. -/
  capturing : Bool
  /-- The frame of the head, by its count, that the newest picture is of. -/
  tapped : Option Nat
  /-- Source lines of the unit of rows that the tap collects. -/
  lines : List (List Nat)
  /-- Free source slots, oldest first (R318). -/
  free : List Nat
  /-- The newest READY picture not yet coded, of a STREAM source. -/
  waiting : Option Nat
  /-- Pictures started; an IDR is forced; an IDR was postponed (R311). -/
  coded : Nat
  forced : Bool
  due : Bool
  /-- The number and the RTP timestamp of the last IDR picture, and what its parameter sets hold where the spec
  leaves it open (log entry 18). -/
  idrAt : Nat
  idrRtp : Option Word
  opens : List Nat
  /-- ERR_EVT and PACE as they act: since the last picture that started (R323). -/
  errEvt : Bool
  pace : Nat
  /-- F after the last removal, the RTP timestamp of the last coded picture, and its overspend. -/
  fullness : Nat
  lastRtp : Option Word
  carry : Nat
  /-- Capture times of the last two coded pictures, newest first. -/
  caps : List Nat
  alive : Nat
  seq : Nat
  packets : List EncPacket
  /-- Before this LOCAL time, in ns, pacing lets no packet leave (R322). -/
  nextAt : Nat
  deriving DecidableEq, Repr

/-- An encode cell: the stream and slice it codes, whether the stream is still enabled, the stream whose
context it holds, until when a context load runs, and its busy intervals. -/
structure EncCell where
  cur : Option (Nat × Nat)
  live : Bool
  holds : Option Nat
  loadUntil : Nat
  busyFrom : Option Nat
  busyLog : List (Nat × Nat)
  deriving DecidableEq, Repr

structure Encode where
  streams : List (Nat × EncStream)
  cells : List (Nat × EncCell)
  deriving DecidableEq, Repr

def EncStream.reset : EncStream :=
  { tx := none, pics := [], capturing := false, lines := [], free := [], waiting := none, coded := 0
    tapped := none, idrAt := 0, idrRtp := none, opens := [], errEvt := false, pace := 0
    forced := false, due := false, fullness := 0, lastRtp := none, carry := 0, caps := [], alive := 0
    seq := 0, packets := []
    nextAt := 0 }

def EncCell.reset : EncCell := ⟨none, false, none, 0, none, []⟩

def Encode.reset : Encode := ⟨[], []⟩

/-! ### Compression and check units (spec/16) -/

/-- A job in a queue: its sequence number, the master that submitted it, and its 64 descriptor bytes. -/
structure QueuedJob where
  seq : Nat
  mst : Nat
  desc : List Byte
  deriving DecidableEq, Repr

structure DeflQueue where
  jobs : List QueuedJob
  running : Option QueuedJob
  nextSeq : Nat
  deriving DecidableEq, Repr

/-- A stream suspended in the context area at an address (R464): its operation and format, its count, the
input absorbed and the output written so far. -/
structure DeflCtx where
  op : Nat
  format : Nat
  count : Nat
  input : List Byte
  output : List Byte
  deriving DecidableEq, Repr

structure Defl where
  queues : List (Nat × DeflQueue)
  /-- The queue served last (R457). -/
  last : Nat
  ctx : List (Nat × DeflCtx)
  deriving DecidableEq, Repr

/-- A check job that has run and waits to end: its code, the received ALIVE and the RESULT. -/
structure CheckRun where
  job : QueuedJob
  code : Nat
  alive : Nat
  result : Nat
  /-- Its writes have been made, and EV_CHECK_GUARD is due (R474). -/
  guarded : Bool
  deriving DecidableEq, Repr

structure CheckUnit where
  jobs : List QueuedJob
  running : Option CheckRun
  nextSeq : Nat
  deriving DecidableEq, Repr

def DeflQueue.reset : DeflQueue := ⟨[], none, 0⟩

def Defl.reset : Defl := ⟨[], 15, []⟩

def CheckUnit.reset : CheckUnit := ⟨[], none, 0⟩


/-! ### What the module sends -/

/-- Messages to the partner unit (R421 to R430). -/
inductive PairMsg
  /-- Whether the sender holds possession, and the cause of a handover it has made (R421, R437). -/
  | status (possession : Bool) (handover : Option Nat)
  | mirrorReg (slot off entry : Nat) (value : Word)
  | mirrorMem (addr : Nat) (bytes : List Byte)
  /-- The record of R426, byte for byte. -/
  | ballot (bytes : List Byte)
  | signature (s : SigMsg)
  deriving DecidableEq, Repr

/-- What the main stream attributes signal of a DisplayPort stream's colours (R293). -/
inductive Colourimetry
  | srgb | bt601 | bt709
  deriving DecidableEq, Repr

/-- What has left the module, newest first: the model's own record of its outputs. -/
inductive Sent
  /-- An MSI-X message (R481). -/
  | msix (vector : Nat)
  /-- Data of a completed host read (R61 to R65, R481). -/
  | hostRead (bytes : List Byte)
  /-- A write to host memory (R163 to R165, R77). -/
  | hostWrite (addr : Nat) (bytes : List Byte)
  | chainUp (msg : ChainMsg)
  | chainDown (msg : ChainMsg)
  /-- A flit acknowledged or refused at a port (R70). -/
  | chainUpAck (seq : Nat)
  | chainDownAck (seq : Nat)
  | chainUpRefuse (seq : Nat)
  | chainDownRefuse (seq : Nat)
  /-- A host access answered with Unsupported Request (R79). -/
  | unsupported
  /-- Bytes an I2C read returned (R55). -/
  | i2c (bytes : List Byte)
  /-- An I2C write was acknowledged (R55). -/
  | i2cAck
  /-- A read of the boot flash: command, QSPI_CLK in MHz, dummy clocks and first offset (R87). -/
  | qspi (cmd mhz dummy off : Nat)
  /-- Data returned to a master: of a memory read, or of a register read. -/
  | data (mst : Nat) (bytes : List Byte)
  | pair (msg : PairMsg)
  /-- Pixel words of a line of a head, as the link carries it (R283, R285). -/
  | pixels (head line : Nat) (words : List Nat)
  /-- MSA MISC0 of a DisplayPort stream, with each frame (R293). -/
  | msa (head : Nat) (colours : Colourimetry) (mvid nvid : Nat)
  /-- A VSC SDP of PSR2 with the selective-update area: first and last line, or none (R286). -/
  | vscSdp (head : Nat) (area : Option (Nat × Nat))
  /-- An AUX request: command, address and the bytes of a write (R297). -/
  | aux (head cmd addr len : Nat) (bytes : List Byte)
  /-- An Ethernet frame, FCS included (R165, R321). -/
  | eth (port : Nat) (frame : List Byte)
  /-- A DSI command: HS or LP, data type and bytes (R287, R301). -/
  | dsi (head : Nat) (lp : Bool) (dt : Nat) (bytes : List Byte)
  deriving DecidableEq, Repr

/-! ### The machine -/

/-- Everything but the queue of waiting commands. -/
structure Mach where
  /-- Registers that have been written, by key (RegMap); any other holds its reset value. -/
  regs : List (Nat × Word)
  /-- Values in effect of SHADOW fields, by register key (R96). -/
  latched : List (Nat × Word)
  /-- Memory: bytes other than 0, addresses strictly rising. -/
  mem : List Host.Cell
  /-- Stored code words in error: word address and the mask of inverted bits (R386, R103). -/
  flips : List (Nat × Nat)
  /-- Frame-store lines whose written bit is set, by physical line (R380). -/
  written : List Nat
  /-- Number of the next access put in flight (R129). -/
  nextAccess : Nat
  /-- The model's own: how many free values have been used. -/
  freeCount : Nat
  pwr : Power
  boot : Boot
  pcie : Pcie
  chain : Chain
  seqs : List (Nat × Seq)
  time : Time
  dpll : Dpll
  pins : Pins
  dram : Dram
  repair : Repair
  vault : Vault
  leases : Leases
  pair : Pair
  touch : Touch
  decode : Decode
  ingest : Ingest
  encode : Encode
  defl : Defl
  checks : List (Nat × CheckUnit)
  layers : List (Nat × Layer)
  heads : List (Nat × Head)
  /-- Reads of PROT.FENCE that wait: the master, the number the next access had, and where the data
  goes (R410). -/
  fences : List (Nat × Nat × Reply)
  sent : List Sent
  deriving DecidableEq, Repr

/-- The module and the commands that wait for it, first in first out. -/
structure State where
  pending : List Instr
  m : Mach
  deriving DecidableEq, Repr

/-- Why the model stops. -/
inductive Fault
  /-- A command names an instance or an entry the module does not have (head 20, sequencer 24).
  Raised by every meaning before it acts; safe: the model stops where there is no such hardware. -/
  | illFormed
  deriving DecidableEq, Repr

/-- Commands the model gives no meaning. -/
inductive Refusal
  /-- Raised by Dispatch for a row without a meaning; safe: the model stops. -/
  | notModelled (mnemonic : String)
  deriving DecidableEq, Repr

/-! ### Reset values -/

def Seq.reset : Seq := ⟨[], .none, false, false, false, false⟩

def Tracker.reset : Tracker := ⟨0, 0, []⟩

def Domain.reset : Domain := ⟨.freeRun, .reset, 0, none, 0, 0, none, 0⟩

def Dpll.reset : Dpll :=
  { st := .freeRun, active := none, trk := .reset, held := 0, lockRun := 0, farRun := 0,
    firstSample := false, integLog := [], freqBase := none, valid := [], qualified := [],
    fofs := [], applied := 0, remain := 0, slewTarget := 0, slewing := false }

def Time.reset : Time := ⟨0, 0, .reset, .reset, none, (.freeRun, .freeRun)⟩

def ApPort.reset : ApPort := ⟨0, [], 0, [], true, [], [], [], 0⟩

def Chain.reset : Chain := ⟨.reset, .reset, [], 0, 1, false, false⟩

def Power.reset : Power :=
  { phase := .on, railTries := 0, railLatched := false, tripLatched := false, resetLow := false,
    wakeLow := none, toDormant := false, keepTicks := 0 }

def Boot.reset : Boot := ⟨false, none, false, false, none, false, false, false⟩

def Pcie.reset : Pcie := ⟨false, false, [], 0⟩

def MsixVec.reset : MsixVec := ⟨0, 0, 0, true, false⟩

def Dram.reset : Dram := ⟨.idle, [], [], 0, [], none, none, none, []⟩

def Repair.reset : Repair :=
  { corr := [], faults := [], job := none, sparesTaken := [], reserveTaken := [], offline := [],
    offlineOverflow := false, inject := none, dramSweep := 0, fsSweep := 0, vaultSweep := 0 }

def Leases.reset : Leases := ⟨[], [], false⟩

def Pair.reset : Pair :=
  { poss := false, grant := none, partnerRefFailed := [], heard := none, kick := 0, partnerPoss := false, partnerEligible := false,
    refFailed := [], ownSigs := [], partnerSigs := [], ballots := [], syncRun := 0, unresRun := 0,
    takeover := [], announced := none, grid := 0, alone := [], mirrorFill := 0 }

def TouchElem.reset : TouchElem := ⟨[], false, 0, 0, 0, 0, false, 0, false⟩

def Touch.reset : Touch :=
  { elems := [], change := [], changeOverflow := false, calibrating := false, scan := none,
    listen := 0, go := none, auto := [], test := none, wake := [], wakeBurst := 0, wakeNeg := 0 }

/-- The module right after a power-on reset: internal reset released, the boot ROM about to run
(R50 step 4). -/
def Mach.reset : Mach :=
  { regs := [], latched := [], mem := [], flips := [], written := [], nextAccess := 0,
    freeCount := 0, pwr := .reset, boot := .reset, pcie := .reset, chain := .reset, seqs := [],
    time := .reset, dpll := .reset, pins := ⟨[], [], false, [], none⟩, dram := .reset, repair := .reset,
    vault := ⟨[], [], []⟩, leases := .reset, pair := .reset, touch := .reset, decode := .reset, ingest := .reset, encode := .reset,
    defl := .reset, checks := [],
    layers := [], heads := [], fences := [], sent := [] }

/-- The state right after reset, with no command waiting. -/
def State.reset : State := ⟨[], Mach.reset⟩

end Sys2Proof.Machine
end

