-- ==== Sys2Proof/Machine/Ops.lean ====
section
/-! DEFINITION. The operations the whole model rests on: tables, registers and their fields, memory
bytes, and how a command's effect on the block becomes its outcome. -/

namespace Sys2Proof.Machine

/-- What a command ends in. -/
abbrev Out := Host.Outcome State Fault Refusal

/-! ### Outcomes -/

/-- The command acts whatever the power phase. -/
def always (s : State) (f : Mach → Mach) : Out := .next { s with m := f s.m }

/-- Internal reset is released and the core rails are up (R41, R50, R53). -/
def Mach.on (m : Mach) : Bool := m.pwr.phase == .on

/-- The command acts while the module is in Run or Idle; otherwise there is nothing it could happen
to, and the state stays as it is (log entry 2). -/
def onCore (s : State) (f : Mach → Mach) : Out := always s fun m => if m.on then f m else m

/-- The command's operands exist on the module; otherwise the model stops. -/
def guarded (wf : Bool) (o : Out) : Out := if wf then o else .fault .illFormed

/-! ### Tables by number -/

variable {α : Type}

/-- The entry of a table, or what an unlisted entry holds. -/
def tabGet (d : α) : List (Nat × α) → Nat → α
  | [], _ => d
  | (k, v) :: r, i => if k = i then v else tabGet d r i

/-- Whether a table lists an entry. -/
def tabFind : List (Nat × α) → Nat → Option α
  | [], _ => none
  | (k, v) :: r, i => if k = i then some v else tabFind r i

/-- A table with one entry set; keys stay in rising order. -/
def tabSet : List (Nat × α) → Nat → α → List (Nat × α)
  | [], i, v => [(i, v)]
  | (k, w) :: r, i, v =>
    if i < k then (i, v) :: (k, w) :: r
    else if k = i then (i, v) :: r
    else (k, w) :: tabSet r i v

/-- A table without one entry. -/
def tabDel (t : List (Nat × α)) (i : Nat) : List (Nat × α) := t.filter fun e => e.1 ≠ i

/-- A list of numbers kept in rising order without repeats. -/
def insertNat : List Nat → Nat → List Nat
  | [], a => [a]
  | x :: r, a => if a < x then a :: x :: r else if a = x then x :: r else x :: insertNat r a

/-- Apply an operation for each number of a list, first to last. -/
def forEach (l : List Nat) (m : Mach) (f : Mach → Nat → Mach) : Mach := l.foldl f m

/-! ### Registers -/

/-- The indices of an array register at a distance from its first offset. -/
def dimIndex : List (Nat × Nat) → Nat → Option (List Nat)
  | [], rel => if rel = 0 then some [] else none
  | (n, st) :: r, rel =>
    if rel / st < n then (dimIndex r (rel % st)).map fun is => rel / st :: is else none

/-- The indices of the register a description gives at a slot and offset. -/
def RegDesc.index (d : RegDesc) (slot off : Nat) : Option (List Nat) :=
  if d.slot ≤ slot ∧ slot < d.slot + d.insts ∧ d.off ≤ off then dimIndex d.dims (off - d.off)
  else none

/-- The description of the register at an offset, with its array indices. -/
def findIn : List RegDesc → Nat → Nat → Option (RegDesc × List Nat)
  | [], _, _ => none
  | d :: r, slot, off =>
    match d.index slot off with
    | some is => some (d, is)
    | none => findIn r slot off

/-- The register at a slot and offset; none where the offset is reserved (R5). -/
def findReg (slot off : Nat) : Option (RegDesc × List Nat) := findIn (slotRows slot) slot off

/-- The lowest of the fuse's four consecutive MAC addresses (R490): universally administered and unicast, and
the four within one block. -/
def macLowest : Nat :=
  let oui := Config.fuse 1 0
  (oui / 2 ^ 16 % 64 * 4 * 2 ^ 16 + oui % 2 ^ 16) * 2 ^ 24 + Config.fuse 2 0 % (2 ^ 24 - 3)

/-- The value of a field after reset at an index (R9). -/
def Rst.value (i : Nat) : Rst → Nat
  | .const v => v
  | .lin a b => a + b * i
  | .only j v => if i = j then v else 0
  | .list vs => vs.getD i 0
  | .fuse id => Config.fuse id i
  | .macHi => (macLowest + i) / 2 ^ 32
  | .macLo => (macLowest + i) % 2 ^ 32

/-- A register's value after reset: the sum of its fields' values. -/
def RegDesc.resetWord (d : RegDesc) (slot : Nat) (is : List Nat) : Word :=
  BitVec.ofNat 32 <| d.flds.foldl
    (fun a f => a + (f.rst.value (is.headD (slot - d.slot)) % 2 ^ f.width) * 2 ^ f.lo) 0

/-- What a register that nothing has changed since reset holds, by key. -/
def resetOf (key : Nat) : Word :=
  match findReg (key / 0x10000 % 0x100) (key % 0x10000) with
  | some (d, is) =>
    d.resetWord (key / 0x10000 % 0x100) (if d.sel = .none then is else key / 0x1000000 :: is)
  | none => 0

/-- The word a register holds. -/
def Mach.rd (m : Mach) (key : Nat) : Word :=
  match tabFind m.regs key with
  | some w => w
  | none => resetOf key

/-- Set a register's word. -/
def Mach.wr (m : Mach) (key : Nat) (w : Word) : Mach := { m with regs := tabSet m.regs key w }

/-- A word with the bits of one field replaced. -/
def setBits (w : Word) (lo width v : Nat) : Word :=
  BitVec.ofNat 32
    (w.toNat % 2 ^ lo + v % 2 ^ width * 2 ^ lo + w.toNat / 2 ^ (lo + width) * 2 ^ (lo + width))

/-- The value of a field. -/
def Mach.get (m : Mach) (f : Fld) : Nat := bitsOf (m.rd f.key).toNat f.lo f.width

/-- Set a field. -/
def Mach.put (m : Mach) (f : Fld) (v : Nat) : Mach :=
  m.wr f.key (setBits (m.rd f.key) f.lo f.width v)

/-- A one-bit field reads 1. -/
def Mach.is (m : Mach) (f : Fld) : Bool := m.get f == 1

def Mach.putB (m : Mach) (f : Fld) (b : Bool) : Mach := m.put f b.toNat

/-- Count in a field that stays at its greatest value. -/
def Mach.count (m : Mach) (f : Fld) (n : Nat := 1) : Mach :=
  m.put f (min (m.get f + n) (2 ^ f.width - 1))

/-- Count in a field that wraps. -/
def Mach.countWrap (m : Mach) (f : Fld) (n : Nat := 1) : Mach := m.put f (m.get f + n)

/-- Set one bit of a field that holds independent bits. -/
def Mach.setBit (m : Mach) (f : Fld) (b : Nat) : Mach :=
  m.put f (m.get f ||| 2 ^ b)

def Mach.bit (m : Mach) (f : Fld) (b : Nat) : Bool := (m.get f).testBit b

/-- The value in effect of a SHADOW field (R96): as latched, or its reset value. -/
def Mach.lat (m : Mach) (f : Fld) : Nat :=
  let w := match tabFind m.latched f.key with
    | some w => w
    | none => resetOf f.key
  bitsOf w.toNat f.lo f.width

def Mach.latIs (m : Mach) (f : Fld) : Bool := m.lat f == 1

/-- Take the shadow value of registers into effect (R96). -/
def Mach.latchKeys (m : Mach) (keys : List Nat) : Mach :=
  { m with latched := keys.foldl (fun l k => tabSet l k (m.rd k)) m.latched }

/-! ### Memory bytes -/

/-- The byte at an address: 0 where nothing is listed. -/
def memGet : List Host.Cell → Nat → Byte
  | [], _ => 0
  | (x, y) :: r, a => if x = a then y else memGet r a

/-- Store a byte, keeping the canonical form. -/
def memSet : List Host.Cell → Nat → Byte → List Host.Cell
  | [], a, b => if b = 0 then [] else [(a, b)]
  | (x, y) :: r, a, b =>
    if a < x then if b = 0 then (x, y) :: r else (a, b) :: (x, y) :: r
    else if a = x then if b = 0 then r else (a, b) :: r
    else (x, y) :: memSet r a b

/-- The canonical form: addresses strictly rising, no byte equal to what an unlisted one reads. -/
def Memory.wf : List Host.Cell → Bool
  | [] => true
  | [(_, y)] => y != 0
  | (x, y) :: (x', y') :: r => y != 0 && decide (x < x') && Memory.wf ((x', y') :: r)

def Mach.byte (m : Mach) (a : Nat) : Byte := memGet m.mem a

def Mach.setByte (m : Mach) (a : Nat) (b : Byte) : Mach := { m with mem := memSet m.mem a b }

/-- Bytes from an address upward. -/
def Mach.bytes (m : Mach) (a : Nat) : Nat → List Byte
  | 0 => []
  | n + 1 => m.byte a :: m.bytes (a + 1) n

/-- Store bytes from an address upward. -/
def Mach.setBytes (m : Mach) (a : Nat) : List Byte → Mach
  | [] => m
  | b :: r => (m.setByte a b).setBytes (a + 1) r

/-- A little-endian number from bytes (R4). -/
def leNat : List Byte → Nat
  | [] => 0
  | b :: r => b.toNat + 256 * leNat r

/-- A big-endian number from bytes. -/
def beNat (l : List Byte) : Nat := l.foldl (fun a b => a * 256 + b.toNat) 0

/-- The `n` low bytes of a number, least significant first. -/
def toLE : Nat → Nat → List Byte
  | 0, _ => []
  | n + 1, x => BitVec.ofNat 8 x :: toLE n (x / 256)

/-- The `n` low bytes of a number, most significant first. -/
def toBE (n x : Nat) : List Byte := (toLE n x).reverse

def wordLE (w : Word) : List Byte := toLE 4 w.toNat

/-! ### Free values and outputs -/

/-- A value the spec leaves open, and the state that has used it (log entry 3). -/
def Mach.free (m : Mach) : Word × Mach :=
  (Config.freeValue m.freeCount, { m with freeCount := m.freeCount + 1 })

/-- Record what leaves the module. -/
def Mach.send (m : Mach) (o : Sent) : Mach := { m with sent := o :: m.sent }

/-! ### Sequencer records -/

def Mach.seq (m : Mach) (n : Nat) : Seq := tabGet .reset m.seqs n

def Mach.setSeq (m : Mach) (n : Nat) (q : Seq) : Mach := { m with seqs := tabSet m.seqs n q }

def Mach.updSeq (m : Mach) (n : Nat) (f : Seq → Seq) : Mach := m.setSeq n (f (m.seq n))

/-! ### Masters and the address map (R20, R22, R23, R404) -/

def seqRamBase (n : Nat) : Nat := 0x1800000000 + n * 0x10000
def seqDataBase (n : Nat) : Nat := seqRamBase n + 0x8000
def fsBase : Nat := 0x1000000000

def mstHost : Nat := 0x01
def mstChain : Nat := 0x02
def mstDebug : Nat := 0x03
def mstPair : Nat := 0x04
def mstSeq (n : Nat) : Nat := 0x10 + n
def mstDec (c : Nat) : Nat := 0x40 + c
def mstEnc (c : Nat) : Nat := 0x80 + c
def mstHead (h : Nat) : Nat := 0x90 + h
def mstDefl : Nat := 0xB0
def mstIngest : Nat := 0xB1
def mstScrub : Nat := 0xB2

end Sys2Proof.Machine
end

