-- ==== Sys2Proof/Machine/Crypto.lean ====
section
/-! DEFINITION. The checks of a boot image's signature (R90): SHA-384 and ECDSA over the curve P-384,
as their standards define them (log entry 10). -/

namespace Sys2Proof.Machine

/-! ### SHA-384 -/

/-- The first forty round constants: fractions of cube roots of primes. -/
def shaK0 : List Nat :=
  [0x428A2F98D728AE22, 0x7137449123EF65CD, 0xB5C0FBCFEC4D3B2F, 0xE9B5DBA58189DBBC,
   0x3956C25BF348B538, 0x59F111F1B605D019, 0x923F82A4AF194F9B, 0xAB1C5ED5DA6D8118,
   0xD807AA98A3030242, 0x12835B0145706FBE, 0x243185BE4EE4B28C, 0x550C7DC3D5FFB4E2,
   0x72BE5D74F27B896F, 0x80DEB1FE3B1696B1, 0x9BDC06A725C71235, 0xC19BF174CF692694,
   0xE49B69C19EF14AD2, 0xEFBE4786384F25E3, 0x0FC19DC68B8CD5B5, 0x240CA1CC77AC9C65,
   0x2DE92C6F592B0275, 0x4A7484AA6EA6E483, 0x5CB0A9DCBD41FBD4, 0x76F988DA831153B5,
   0x983E5152EE66DFAB, 0xA831C66D2DB43210, 0xB00327C898FB213F, 0xBF597FC7BEEF0EE4,
   0xC6E00BF33DA88FC2, 0xD5A79147930AA725, 0x06CA6351E003826F, 0x142929670A0E6E70,
   0x27B70A8546D22FFC, 0x2E1B21385C26C926, 0x4D2C6DFC5AC42AED, 0x53380D139D95B3DF,
   0x650A73548BAF63DE, 0x766A0ABB3C77B2A8, 0x81C2C92E47EDAEE6, 0x92722C851482353B]

/-- The other forty. -/
def shaK1 : List Nat :=
  [0xA2BFE8A14CF10364, 0xA81A664BBC423001, 0xC24B8B70D0F89791, 0xC76C51A30654BE30,
   0xD192E819D6EF5218, 0xD69906245565A910, 0xF40E35855771202A, 0x106AA07032BBD1B8,
   0x19A4C116B8D2D0C8, 0x1E376C085141AB53, 0x2748774CDF8EEB99, 0x34B0BCB5E19B48A8,
   0x391C0CB3C5C95A63, 0x4ED8AA4AE3418ACB, 0x5B9CCA4F7763E373, 0x682E6FF3D6B2B8A3,
   0x748F82EE5DEFB2FC, 0x78A5636F43172F60, 0x84C87814A1F0AB72, 0x8CC702081A6439EC,
   0x90BEFFFA23631E28, 0xA4506CEBDE82BDE9, 0xBEF9A3F7B2C67915, 0xC67178F2E372532B,
   0xCA273ECEEA26619C, 0xD186B8C721C0C207, 0xEADA7DD6CDE0EB1E, 0xF57D4F7FEE6ED178,
   0x06F067AA72176FBA, 0x0A637DC5A2C898A6, 0x113F9804BEF90DAE, 0x1B710B35131C471B,
   0x28DB77F523047D84, 0x32CAAB7B40C72493, 0x3C9EBE0A15C9BEBC, 0x431D67C49C100D4C,
   0x4CC5D4BECB3E42B6, 0x597F299CFC657E2A, 0x5FCB6FAB3AD6FAEC, 0x6C44198C4A475817]

/-- The initial hash value of SHA-384. -/
def shaInit : List Nat :=
  [0xCBBB9D5DC1059ED8, 0x629A292A367CD507, 0x9159015A3070DD17, 0x152FECD8F70E5939,
   0x67332667FFC00B31, 0x8EB44A8768581511, 0xDB0C2E0D64F98FA7, 0x47B5481DBEFA4FA4]

abbrev W64 := BitVec 64

/-- The padded message of SHA-384, as bytes. -/
def shaPad (msg : List Byte) : List Byte :=
  msg ++ 0x80#8 :: List.replicate ((239 - msg.length % 128) % 128) 0 ++ toBE 16 (8 * msg.length)

/-- One more word of the message schedule; the newest words stand first. -/
def shaNext (w : List W64) : W64 :=
  let a := w.getD 1 0
  let b := w.getD 14 0
  ((a.rotateRight 19) ^^^ (a.rotateRight 61) ^^^ (a >>> 6)) + w.getD 6 0 +
  ((b.rotateRight 1) ^^^ (b.rotateRight 8) ^^^ (b >>> 7)) + w.getD 15 0

/-- The message schedule of a block of 16 words, oldest first. -/
def shaSchedule (block : List W64) : List W64 :=
  ((List.range 64).foldl (fun w _ => shaNext w :: w) block.reverse).reverse

/-- The working variables of a round. -/
structure ShaVars where
  a : W64
  b : W64
  c : W64
  d : W64
  e : W64
  f : W64
  g : W64
  h : W64
  deriving DecidableEq, Repr

def shaRound (v : ShaVars) (kw : Nat × W64) : ShaVars :=
  let t1 := v.h + ((v.e.rotateRight 14) ^^^ (v.e.rotateRight 18) ^^^ (v.e.rotateRight 41)) +
    ((v.e &&& v.f) ^^^ (~~~v.e &&& v.g)) + BitVec.ofNat 64 kw.1 + kw.2
  let t2 := ((v.a.rotateRight 28) ^^^ (v.a.rotateRight 34) ^^^ (v.a.rotateRight 39)) +
    ((v.a &&& v.b) ^^^ (v.a &&& v.c) ^^^ (v.b &&& v.c))
  ⟨t1 + t2, v.a, v.b, v.c, v.d + t1, v.e, v.f, v.g⟩

def shaBlock (h : ShaVars) (block : List W64) : ShaVars :=
  let v := ((shaK0 ++ shaK1).zip (shaSchedule block)).foldl shaRound h
  ⟨h.a + v.a, h.b + v.b, h.c + v.c, h.d + v.d, h.e + v.e, h.f + v.f, h.g + v.g, h.h + v.h⟩

/-- Words of eight bytes, most significant first. -/
def shaWords : Nat → List Byte → List W64
  | 0, _ => []
  | n + 1, l => BitVec.ofNat 64 (beNat (l.take 8)) :: shaWords n (l.drop 8)

def shaBlocks : Nat → ShaVars → List Byte → ShaVars
  | 0, h, _ => h
  | n + 1, h, l => shaBlocks n (shaBlock h (shaWords 16 l)) (l.drop 128)

/-- The SHA-384 digest as a number of 384 bits. -/
def sha384 (msg : List Byte) : Nat :=
  let i (k : Nat) : W64 := BitVec.ofNat 64 (shaInit.getD k 0)
  let p := shaPad msg
  let h := shaBlocks (p.length / 128) ⟨i 0, i 1, i 2, i 3, i 4, i 5, i 6, i 7⟩ p
  beNat ([h.a, h.b, h.c, h.d, h.e, h.f].flatMap fun x => toBE 8 x.toNat)

/-! ### ECDSA over P-384 -/

/-- The prime of the field, the order of the base point, and the curve's constant. -/
def p384P : Nat := 2 ^ 384 - 2 ^ 128 - 2 ^ 96 + 2 ^ 32 - 1
def p384N : Nat :=
  0xFFFFFFFFFFFFFFFFFFFFFFFFFFFFFFFFFFFFFFFFFFFFFFFFC7634D81F4372DDF581A0DB248B0A77AECEC196ACCC52973
def p384B : Nat :=
  0xB3312FA7E23EE7E4988E056BE3F82D19181D9C6EFE8141120314088F5013875AC656398D8A2ED19D2A85C8EDD3EC2AEF

/-- A point of the curve; none is the point at infinity. -/
abbrev CurvePoint := Option (Nat × Nat)

/-- The base point. -/
def p384G : CurvePoint := some
  (0xAA87CA22BE8B05378EB1C71EF320AD746E1D3B628BA79B9859F741E082542A385502F25DBF55296C3A545E3872760AB7,
   0x3617DE4A96262C6F5D9E98BF9292DC29F8F41DBD289A147CE9DA3113B5F0B8C00A60B1CE1D7E819D7A431D7C90EA0E5F)

/-- A power modulo `q`, by the hexadecimal digits of the exponent; `n` bounds their number. -/
def powMod (q : Nat) : Nat → Nat → Nat → Nat
  | 0, _, _ => 1 % q
  | n + 1, x, k => Nat.pow x (k % 16) * powMod q n (Nat.pow x 16 % q) (k / 16) % q

/-- The inverse modulo a prime of 384 bits. -/
def invMod (q x : Nat) : Nat := powMod q 96 (x % q) (q - 2)

def subMod (q x y : Nat) : Nat := (x + (q - y % q)) % q

/-- The sum of two points. -/
def curveAdd : CurvePoint → CurvePoint → CurvePoint
  | none, b => b
  | a, none => a
  | some (x1, y1), some (x2, y2) =>
    let q := p384P
    let finish (l : Nat) : CurvePoint :=
      let x := subMod q (subMod q (l * l) x1) x2
      some (x, subMod q (l * subMod q x1 x) y1)
    if x1 = x2 then
      if (y1 + y2) % q = 0 then none
      else finish (subMod q (3 * x1 * x1) 3 * invMod q (2 * y1) % q)
    else finish (subMod q y2 y1 * invMod q (subMod q x2 x1) % q)

/-- A multiple of a point; `n` bounds the number of binary digits. -/
def curveMul : Nat → Nat → CurvePoint → CurvePoint
  | 0, _, _ => none
  | n + 1, k, a =>
    let r := curveMul n (k / 2) (curveAdd a a)
    if k % 2 = 1 then curveAdd r a else r

def onCurve (x y : Nat) : Bool :=
  x < p384P && y < p384P && (y * y) % p384P == (subMod p384P (x * x * x) (3 * x) + p384B) % p384P

/-- The ECDSA check of a signature (r, s) of a digest under a public key. -/
def ecdsaValid (digest x y r s : Nat) : Bool :=
  if r = 0 ∨ p384N ≤ r ∨ s = 0 ∨ p384N ≤ s ∨ onCurve x y = false then false
  else
    let w := invMod p384N s
    match curveAdd (curveMul 384 (digest * w % p384N) p384G)
        (curveMul 384 (r * w % p384N) (some (x, y))) with
    | some (px, _) => px % p384N == r
    | none => false

end Sys2Proof.Machine
end

