-- ==== Sys2Proof/Machine/Flags.lean ====
section
/-! DEFINITION. Status bits that events and rejections set: event sources and their delivery (R26
to R29, R477 to R483), the rejection of HELD writes (R98), and the monitor channels' samples (R484
to R486). -/

namespace Sys2Proof.Machine

/-! ### Event sources (R477) -/

/-- Numbers that no source has (R477). -/
def reservedSource (s : Nat) : Bool :=
  (0x58 ≤ s && s ≤ 0x5F) || (0x66 ≤ s && s ≤ 0x7F) || (0x83 ≤ s && s ≤ 0x8F) ||
  (0x99 ≤ s && s ≤ 0x9F) || s == 0xAE || s == 0xAF || (0xB2 ≤ s && s ≤ 0xB7) || s == 0xBF ||
  s == 0xCF || (0xD3 ≤ s && s ≤ 0xD7) || (0xDB ≤ s && s ≤ 0xDF) || (0xE8 ≤ s && s ≤ 0xEF) ||
  256 ≤ s

def evBlankStart (h : Nat) : Nat := 4 * h
def evLineMatch (h : Nat) : Nat := 4 * h + 1
def evFrameDone (h : Nat) : Nat := 4 * h + 2
def evUnderrun (h : Nat) : Nat := 4 * h + 3
def evTimeStep : Nat := 0x90
def evDpllState : Nat := 0x91
def evDpllSwitch : Nat := 0x92
def evDpllInput : Nat := 0x93
def evDomState (d : Nat) : Nat := 0x94 + d
def evTimeReject : Nat := 0x96
def evPpsIn : Nat := 0x97
def evPhaseDone : Nat := 0x98
def evEccCorr : Nat := 0xA5
def evHardFault : Nat := 0xA6
def evSpareRow : Nat := 0xA7
def evGranuleRemap : Nat := 0xA8
def evGranuleRetired : Nat := 0xA9
def evMaintDue : Nat := 0xAA
def evPageOffline : Nat := 0xAB
def evVaultDisagree : Nat := 0xAC
def evEccTestDone : Nat := 0xAD
def evProtViolation : Nat := 0xB0
def evBootLock : Nat := 0xB1
def evCfgReject : Nat := 0xBB
def evVinLow : Nat := 0xBC
def evTempWarn : Nat := 0xBD
def evMonAlarm : Nat := 0xBE
def evEthLink (p : Nat) : Nat := 0xE0 + p
def evIngErr : Nat := 0xE4
def evHostqFull : Nat := 0xE5
def evChainEnumDone : Nat := 0xE6
def evChainLink : Nat := 0xE7
def evDoorbell (d : Nat) : Nat := 0xF0 + d
def evSeqFault : Nat := 0xFF

/-! ### Delivery -/

/-- Set a sequencer's pending bit; whether it was set already (R116). -/
def Mach.pendLine (m : Mach) (n l : Nat) : Mach × Bool :=
  (m.setBit (Fld.SEQ_EVT_PEND_PEND n) l, m.bit (Fld.SEQ_EVT_PEND_PEND n) l)

/-- The lines that follow a source: lines 0 to 3 of the owner of a head for its events (R116), and
every line whose SEQLINE register is enabled and names the source (R478). Only listed registers can
be enabled, because EN resets to 0. -/
def Mach.linesOf (m : Mach) (src : Nat) : List (Nat × Nat) :=
  (if src < 80 then [(src / 4, src % 4)] else []) ++
  (m.regs.filter fun e =>
      decide (regKey 0 3 0x1000 ≤ e.1 ∧ e.1 < regKey 0 3 0x1C00) && e.2.getMsbD 0 &&
      bitsOf e.2.toNat 0 8 == src).map
    fun e => ((e.1 - regKey 0 3 0x1000) / 0x80, (e.1 - regKey 0 3 0x1000) % 0x80 / 4)

/-- Raise the lines that follow a source; whether one merged. -/
def Mach.raiseLines (m : Mach) : List (Nat × Nat) → Mach × Bool
  | [] => (m, false)
  | (n, l) :: r =>
    let p := m.pendLine n l
    let q := p.1.raiseLines r
    (q.1, p.2 || q.2)

def Mach.vec (m : Mach) (v : Nat) : MsixVec := tabGet .reset m.pcie.vecs v

def Mach.setVec (m : Mach) (v : Nat) (x : MsixVec) : Mach :=
  { m with pcie := { m.pcie with vecs := tabSet m.pcie.vecs v x } }

/-- Raise an MSI-X vector (R481): merged with a pending message; not delivered with the PCI Express
link down (R60); held in the pending bit while masked or without bus mastering (R59). -/
def Mach.raiseVector (m : Mach) (v : Nat) : Mach × Bool :=
  if !m.pcie.linkUp then
    ({ m with pcie := { m.pcie with undelivered := m.pcie.undelivered + 1 } }, false)
  else if (m.vec v).pendingBit then (m, true)
  else if (m.vec v).masked || m.pcie.d3hot then
    (m.setVec v { m.vec v with pendingBit := true }, false)
  else (m.send (.msix v), false)

/-- Pulse EVT_OUTk for a source (R480): a raise during a pulse restarts it, and merges when the
pulse is the source's own. -/
def Mach.raisePin (m : Mach) (k src : Nat) : Mach × Bool :=
  let owners := tabGet [] m.pins.evtOut k
  ({ m with pins := { m.pins with evtOut := tabSet m.pins.evtOut k (insertNat owners src) } },
   owners.contains src)

/-- Whether the module is the head of its chain (R79). -/
def Mach.isHead (m : Mach) : Bool := m.is Fld.CHAIN_STATUS_HEAD

/-- The module stands at the root of its chain: the head, or module 0 while its PCI Express link is
down (R60). -/
def Mach.chainRoot (m : Mach) : Bool :=
  m.isHead || (m.is Fld.CHAIN_STATUS_ADDR_VALID && m.get Fld.CHAIN_STATUS_ADDR == 0)

/-! ### Sending on the chain (R70) -/

def Mach.updChain (m : Mach) (f : Chain → Chain) : Mach := { m with chain := f m.chain }

def Mach.apPort (m : Mach) (up : Bool) : ApPort := if up then m.chain.up else m.chain.down

def Mach.updPort (m : Mach) (up : Bool) (f : ApPort → ApPort) : Mach :=
  m.updChain fun c => if up then { c with up := f c.up } else { c with down := f c.down }

def Mach.portUp (m : Mach) (up : Bool) : Bool :=
  m.is (if up then Fld.CHAIN_STATUS_UP_UP else Fld.CHAIN_STATUS_DOWN_UP)

/-- The class of a message, by priority: TIME, EVENT, REG, RELAY (R69). -/
def ChainMsg.cls : ChainMsg → Nat
  | .timeRequest | .timeReply .. => 0
  | .token .. | .endOf .. | .event _ | .report _ => 1
  | .request .. | .completion .. => 2
  | .relay .. | .hostWrite .. => 3

/-- Messages of class TIME, which are not replayed. -/
def ChainMsg.isTime (c : ChainMsg) : Bool := c.cls == 0

/-- How long the flits of a message last, in 1/100 ns: 248 bytes of its data go into each (R68). -/
def ChainMsg.lasts (c : ChainMsg) : Nat :=
  2048 * max 1 (((match c with
    | .request _ _ _ _ _ (some d) | .completion _ d | .relay _ _ _ d | .hostWrite _ d => d.length
    | _ => 0) + 247) / 248)

/-- A message becomes ready at a port; nothing leaves a port that is not UP. -/
def Mach.sendChain (m : Mach) (up : Bool) (msg : ChainMsg) : Mach :=
  if !m.portUp up then m else m.updPort up fun p => { p with ready := p.ready ++ [msg] }

/-- The message that a free port sends next: of the first class that has one ready, the oldest; RELAY needs
credit (R69, R77). -/
def ApPort.next (p : ApPort) : Option (ChainMsg × ApPort) :=
  match (List.range 3).findSome? fun k => p.ready.find? (·.cls == k) with
  | some c => some (c, { p with ready := p.ready.erase c })
  | none => match p.credit, p.relayHeld with
    | true, i :: r => some (i.msg, { p with relayHeld := r })
    | _, _ => none

/-- A port sends what is ready for so many 1/100 ns, one message after the other: none is pre-empted. -/
def Mach.portSends (m : Mach) (up : Bool) (time : Nat) : Nat → Mach
  | 0 => m
  | fuel + 1 =>
    let p := m.apPort up
    if time < p.busy then m.updPort up fun p => { p with busy := p.busy - time }
    else match p.next with
      | none => m.updPort up fun p => { p with busy := 0 }
      | some (msg, q) =>
        ((m.updPort up fun _ =>
          { q with txNext := q.txNext + 1, busy := msg.lasts
                   replay := if msg.isTime then q.replay else ((q.txNext, msg) :: q.replay).take 64 }).send
            (if up then .chainUp msg else .chainDown msg)).portSends up (time - p.busy) fuel

/-- Both ports send for `n` ticks of TIME_CLK, of 4 ns each. -/
def Mach.chainSends (m : Mach) (n : Nat) : Mach :=
  [true, false].foldl (fun m up =>
    m.portSends up (400 * n) ((m.apPort up).ready.length + (m.apPort up).relayHeld.length + 1)) m

/-- Forward an event toward the head (R78): dropped and counted without a valid chain address. -/
def Mach.forwardEvent (m : Mach) (origin : Nat) : Mach :=
  if m.is Fld.CHAIN_STATUS_ADDR_VALID then m.sendChain true (.event origin)
  else m.count Fld.CHAIN_HOST_ERR_EVT_DROP

/-- The latch of a raised source, and its alarm latch where the mask holds it (R482, R483). -/
def Mach.latchSource (m : Mach) (src : Nat) : Mach :=
  let m := m.setBit (Fld.EVT_LATCH_RAISED (src / 32)) (src % 32)
  if m.bit (Fld.EVT_ALARM_MASK_MASK (src / 32)) (src % 32) then
    m.setBit (Fld.EVT_ALARM_LATCH_LATCH (src / 32)) (src % 32)
  else m

/-- Raise an event source (R478, R480 to R483): latches, sequencer lines, MSI-X vector, ball and
chain, then the counts of raises and of merged raises. A reserved source is never raised. -/
def Mach.raise (m : Mach) (src : Nat) : Mach :=
  if reservedSource src then m else
  let m := m.latchSource src
  let l := m.raiseLines (m.linesOf src)
  let v := if l.1.is (Fld.EVT_ROUTE_MSIX_EN src)
    then l.1.raiseVector (l.1.get (Fld.EVT_ROUTE_VECTOR src)) else (l.1, false)
  let p := if v.1.is (Fld.EVT_ROUTE_PIN_EN src)
    then v.1.raisePin (v.1.get (Fld.EVT_ROUTE_PIN src)) src else (v.1, false)
  let m := if p.1.is (Fld.EVT_ROUTE_CHAIN src) && !p.1.chainRoot
    then p.1.forwardEvent (p.1.get Fld.CHAIN_STATUS_ADDR) else p.1
  let m := m.count (Fld.EVT_CNT_RAISED src)
  if l.2 || v.2 || p.2 then m.count (Fld.EVT_CNT_MERGED src) else m

def Mach.raiseIf (m : Mach) (b : Bool) (src : Nat) : Mach := if b then m.raise src else m

/-! ### Rejected writes (R98) -/

/-- The CFG_REJECT bit of the block in a slot. -/
def cfgRejectFld (slot : Nat) : Option Fld :=
  if 0xA0 ≤ slot ∧ slot < 0xB8 then some (Fld.SEQ_STATUS_CFG_REJECT (slot - 0xA0))
  else if 0x80 ≤ slot ∧ slot < 0x94 then some (Fld.HEAD_STATUS_CFG_REJECT (slot - 0x80))
  else if 0x10 ≤ slot ∧ slot < 0x14 then some (Fld.ETH_STATUS_CFG_REJECT (slot - 0x10))
  else match slot with
    | 0x14 => some Fld.INGEST_STATUS_CFG_REJECT
    | 0x1B => some Fld.DECSCHED_STATUS_CFG_REJECT
    | 0x1D => some Fld.LAYERPOOL_STATUS_CFG_REJECT
    | 0x1C => some Fld.ENCSCHED_STATUS_CFG_REJECT
    | 0x0C => some Fld.TIME_STATUS_CFG_REJECT
    | 0x0D => some Fld.DPLL_STATUS_CFG_REJECT
    | 0x06 => some Fld.DRAMC_STATUS_CFG_REJECT
    | 0x15 => some Fld.PAIR_STATUS_CFG_REJECT
    | 0x16 => some Fld.TOUCH_STATUS_CFG_REJECT
    | 0x18 => some Fld.CHECK_STATUS_CFG_REJECT
    | _ => none

/-- Report a rejected write (R98): the block's CFG_REJECT, the first capture, the count, the event. -/
def Mach.cfgReject (m : Mach) (mst slot off : Nat) : Mach :=
  let m := match cfgRejectFld slot with
    | some f => m.put f 1
    | none => m
  let m := if m.is Fld.SYS_CFG_REJECT_INFO_VALID then m
    else (((m.put Fld.SYS_CFG_REJECT_INFO_VALID 1).put Fld.SYS_CFG_REJECT_INFO_OFFSET (off / 4)).put
      Fld.SYS_CFG_REJECT_INFO_MASTER mst).put Fld.SYS_CFG_REJECT_INFO_SLOT slot
  (m.count Fld.SYS_CFG_REJECT_COUNT_COUNT).raise evCfgReject

/-! ### Monitor channels (R484 to R486) -/

/-- The bin of a sample (R485). -/
def monBin (log : Bool) (base shift v : Nat) : Nat :=
  if !log then (if v < base then 0 else min 63 ((v - base) / 2 ^ shift))
  else
    let u := v / 2 ^ shift
    if u = 0 then 0
    else
      let e := Nat.log2 u
      let k := if 2 ≤ e then u / 2 ^ (e - 2) % 4 else u * 2 ^ (2 - e) % 4
      min 63 (1 + 4 * e + k)

/-- Clear a channel (R486). -/
def Mach.monClear (m : Mach) (c : Nat) : Mach :=
  let m := m.put (Fld.MON_CH_MIN_MIN c) 0xFFFFFFFF
  let m := m.put (Fld.MON_CH_MAX_MAX c) 0
  let m := m.put (Fld.MON_CH_COUNT_COUNT c) 0
  let m := m.put (Fld.MON_CH_LAST_LAST c) 0
  forEach (List.range 64) m fun m b => m.put (Fld.MON_CH_BIN_COUNT c b) 0

/-- One sample of one channel (R485, R486). -/
def Mach.monTake (m : Mach) (c v : Nat) : Mach :=
  if m.is (Fld.MON_CH_CTRL_FREEZE c) then m else
  let v := min v 0xFFFFFFFF
  let m := m.put (Fld.MON_CH_LAST_LAST c) v
  let m := m.put (Fld.MON_CH_MIN_MIN c) (min v (m.get (Fld.MON_CH_MIN_MIN c)))
  let m := m.put (Fld.MON_CH_MAX_MAX c) (max v (m.get (Fld.MON_CH_MAX_MAX c)))
  let m := m.count (Fld.MON_CH_COUNT_COUNT c)
  let b := monBin (m.is (Fld.MON_CH_CFG_MODE c)) (m.get (Fld.MON_CH_BASE_BASE c))
    (m.get (Fld.MON_CH_CFG_SHIFT c)) v
  let m := m.count (Fld.MON_CH_BIN_COUNT c b)
  if m.is (Fld.MON_CH_ALARM_EN c) && decide (m.get (Fld.MON_CH_ALARM_THRESH c) < v) then
    let was := m.bit Fld.MON_STATUS_ALARM c
    (m.setBit Fld.MON_STATUS_ALARM c).raiseIf (!was) evMonAlarm
  else m

/-- A channel takes samples of a source whose selector is `sel`; `anySel` is the selector value
that stands for any, where the source has one (R484). -/
def Mach.monTakes (m : Mach) (c src sel : Nat) (anySel : Option Nat) : Bool :=
  m.is (Fld.MON_CH_CFG_EN c) && m.get (Fld.MON_CH_CFG_SRC c) == src &&
  (m.get (Fld.MON_CH_CFG_SEL c) == sel || some (m.get (Fld.MON_CH_CFG_SEL c)) == anySel)

/-- The channels that any register write has configured: the others are disabled by reset. -/
def Mach.monChannels (m : Mach) : List Nat :=
  (List.range 32).filter fun c => (tabFind m.regs (Reg.MON_CH_CFG c)).isSome

/-- Every enabled channel that matches takes a sample (R484). -/
def Mach.monSample (m : Mach) (src sel : Nat) (anySel : Option Nat) (v : Nat) : Mach :=
  forEach m.monChannels m fun m c => if m.monTakes c src sel anySel then m.monTake c v else m

/-- A sample of a source that has no selector. -/
def Mach.monSampleAll (m : Mach) (src v : Nat) : Mach :=
  forEach m.monChannels m fun m c => if m.monTakes c src 0 (some (m.get (Fld.MON_CH_CFG_SEL c)))
    then m.monTake c v else m

end Sys2Proof.Machine
end

