-- ==== Sys2Proof/Machine/Operands.lean ====
section
/-! DEFINITION. The operand forms of accesses: where a device address lies (R20 to R23), how an
access is cut into parts, and the code words of memory and what a read makes of them (R386 to R388). -/

namespace Sys2Proof.Machine

/-! ### Device addresses -/

/-- Where a device address lies (R20, R22, R23). -/
inductive Place
  | dram
  | frameStore (offset : Nat)
  | seqRam (n offset : Nat)
  | bootRom (offset : Nat)
  | regs (slot offset : Nat)
  | unmapped
  deriving DecidableEq, Repr

/-- The place of a device address. -/
def placeOf (a : Nat) : Place :=
  if a < 0x700000000 then .dram
  else if fsBase ≤ a ∧ a < fsBase + 0x7C00000 then .frameStore (a - fsBase)
  else if 0x1800000000 ≤ a ∧ a < 0x1800180000 ∧ a % 0x10000 < 0xC000 then
    .seqRam ((a - 0x1800000000) / 0x10000) (a % 0x10000)
  else if 0x1F00000000 ≤ a ∧ a < 0x1F00040000 then .bootRom (a - 0x1F00000000)
  else if 0x2000000000 ≤ a ∧ a < 0x2001000000 then
    .regs ((a - 0x2000000000) / 0x10000) (a % 0x10000)
  else .unmapped

/-- Cut `[a, a + n)` at multiples of `size`: starts and lengths. -/
def cut (size : Nat) : Nat → Nat → Nat → List (Nat × Nat)
  | 0, _, _ => []
  | fuel + 1, a, n =>
    if n = 0 then []
    else
      let k := min n (size - a % size)
      (a, k) :: cut size fuel (a + k) (n - k)

/-- The parts of an access in 64 KiB units, in 64-byte lines, and in words. -/
def unitParts (a n : Nat) : List (Nat × Nat) := cut 0x10000 (n / 0x10000 + 2) a n
def lineParts (a n : Nat) : List (Nat × Nat) := cut 64 (n / 64 + 2) a n
def wordParts (size a n : Nat) : List (Nat × Nat) := cut size (n / size + 2) a n

/-- Two byte ranges, given by first and last byte, share a byte. -/
def overlaps (a1 b1 a2 b2 : Nat) : Bool := decide (a1 ≤ b2 ∧ a2 ≤ b1)

/-! Where a visible DRAM address lies (R357, R358): channel, channel-local address, and the bank, row and
column of the byte and of its check byte. -/

def dramChannel (a : Nat) : Nat := a / 256 % 16
def dramLocal (a : Nat) : Nat := a / 4096 * 256 + a % 256
def dramColumn (a : Nat) : Nat := dramLocal a % 2048
def dramBank (a : Nat) : Nat := dramLocal a / 2048 % 16
def dramRow (a : Nat) : Nat := dramLocal a / 32768
def checkRow (a : Nat) : Nat := 57344 + dramRow a / 8
def checkColumn (a : Nat) : Nat := dramRow a % 8 * 256 + dramColumn a / 8

/-! ### CRC-32C (R68, R130) -/

/-- One bit of the reflected update. -/
def crc32cBit (c : Word) : Word :=
  if c.getLsbD 0 then (c >>> 1) ^^^ 0x82F63B78 else c >>> 1

/-- A value updated by one byte, without pre- or post-inversion. -/
def crc32cByte (c : Word) (b : Byte) : Word :=
  let x := c ^^^ b.zeroExtend 32
  crc32cBit (crc32cBit (crc32cBit (crc32cBit (crc32cBit (crc32cBit (crc32cBit (crc32cBit x)))))))

/-- The standard CRC-32C of a byte string. -/
def crc32c (bytes : List Byte) : Word := ~~~ (bytes.foldl crc32cByte 0xFFFFFFFF)

/-! ### Code words (R386 to R388) -/

/-- Positions of the data bits: those that are no power of 2, from 3 upward (R386). -/
def dataPositions : List Nat :=
  (List.range 72).filter fun p => 3 ≤ p && !([4, 8, 16, 32, 64].contains p)

/-- The position of a code bit: data bits first, then check bits; 0 for the overall parity bit.
`data` is the number of data bits and `checks` of Hamming check bits. -/
def codePosition (data checks bit : Nat) : Nat :=
  if bit < data then dataPositions.getD bit 0
  else if bit < data + checks then 2 ^ (bit - data)
  else 0

/-- The numbers of the set bits of a mask below `n`. -/
def setBitsOf (n mask : Nat) : List Nat := (List.range n).filter mask.testBit

/-- Syndrome and parity of a word whose stored bits differ from a valid code word by `mask` (R387). -/
def syndromeOf (data checks mask : Nat) : Nat × Bool :=
  let bits := setBitsOf (data + checks + 1) mask
  (bits.foldl (fun s b => s ^^^ codePosition data checks b) 0, bits.length % 2 == 1)

/-- What a read makes of a code word (R387). -/
inductive EccResult
  | clean
  /-- Corrected at a position; 0 stands for the overall parity bit. -/
  | corrected (pos : Nat)
  | uncorrectable
  deriving DecidableEq, Repr

/-- The classification of R387; `top` is the highest position of the code. -/
def classify (top : Nat) (s : Nat) (p : Bool) : EccResult :=
  if !p then (if s = 0 then .clean else .uncorrectable)
  else if s ≤ top then .corrected s
  else .uncorrectable

/-- The inverted data bits that a read delivers: those stored inverted, with the corrected position
inverted once more. -/
def deliveredMask (data mask : Nat) (r : EccResult) : Nat :=
  let stored := mask % 2 ^ data
  match r with
  | .corrected pos =>
    match (List.range data).find? fun b => dataPositions.getD b 0 == pos with
    | some b => stored ^^^ 2 ^ b
    | none => stored
  | _ => stored

/-- The byte that reports a syndrome: parity in bit 7 (R387). -/
def syndByte (s : Nat) (p : Bool) : Nat := s % 128 + if p then 128 else 0

end Sys2Proof.Machine
end

