-- ==== Sys2Proof/Machine/EncBase.lean ====
section
/-! DEFINITION. What other blocks need of encode streams: their records, errors (R325), the report of a
freeze, and the newest READY picture of a STREAM source (R307). -/

namespace Sys2Proof.Machine

def evEncErr : Nat := 0x80
def evEncDrop : Nat := 0x81
def evEncBudgetShort : Nat := 0x82

def Mach.updEncode (m : Mach) (f : Encode → Encode) : Mach := { m with encode := f m.encode }

def Mach.enc (m : Mach) (e : Nat) : EncStream := tabGet .reset m.encode.streams e
def Mach.updEnc (m : Mach) (e : Nat) (f : EncStream → EncStream) : Mach :=
  m.updEncode fun d => { d with streams := tabSet d.streams e (f (tabGet .reset d.streams e)) }

def Mach.encCell (m : Mach) (c : Nat) : EncCell := tabGet .reset m.encode.cells c
def Mach.updEncCell (m : Mach) (c : Nat) (f : EncCell → EncCell) : Mach :=
  m.updEncode fun d => { d with cells := tabSet d.cells c (f (tabGet .reset d.cells c)) }

def Mach.encEn (m : Mach) (e : Nat) : Bool := m.is (Fld.ENCSCHED_STREAM_CTRL_EN e)

/-- Enabled encode streams: a stream that was ever enabled has a record. -/
def Mach.encOn (m : Mach) : List Nat := (m.encode.streams.map (·.1)).filter m.encEn

/-- EV_ENC_ERR, on a stream whose ERR_EVT in effect asks for it (R323, R325). -/
def Mach.encEvent (m : Mach) (e : Nat) : Mach :=
  m.raiseIf (m.enc e).errEvt evEncErr

/-- A fault of R325. -/
def Mach.encError (m : Mach) (e code : Nat) : Mach :=
  (m.put (Fld.ENCSCHED_STREAM_STATUS_LAST_ERR e) code).encEvent e

def Mach.encCnt (m : Mach) (e k : Nat) (n : Nat := 1) : Mach :=
  m.count (Fld.ENCSCHED_STREAM_CNT_COUNT e k) n

/-- A DRAM freeze, as every enabled stream reports it (ENC_E_FREEZE). -/
def Mach.encFreeze (m : Mach) : Mach := forEach m.encOn m fun m e => m.encError e 0x0A

/-- The stream codes the pictures of decoded stream `x`. -/
def Mach.encReads (m : Mach) (e x : Nat) : Bool :=
  m.is (Fld.ENCSCHED_STREAM_CTRL_SRC_KIND e) && m.get (Fld.ENCSCHED_STREAM_SRC_SRC e) == x

/-- A picture of stream `x` has become READY: it replaces the one that waited to be coded. -/
def Mach.encNoteReady (m : Mach) (x d : Nat) : Mach :=
  forEach (m.encOn.filter fun e => m.encReads e x) m fun m e =>
    let m := if (m.enc e).waiting.isSome then (m.encCnt e 1).raise evEncDrop else m
    m.updEnc e fun s => { s with waiting := some d }

end Sys2Proof.Machine
end

