-- ==== Sys2Proof/Machine/PairBase.lean ====
section
/-! DEFINITION. Possession of the displays by one unit of a pair (R416 to R421, R434, R436, R437):
what other blocks need of it. -/

namespace Sys2Proof.Machine

def evPairTakeover : Nat := 0xC0
def evPairHandover : Nat := 0xC1
def evPairMismatch : Nat := 0xC2
def evPairUnprotected : Nat := 0xC3
def evPairProtected : Nat := 0xC4
def evPairLink : Nat := 0xC5
def evPairSplit : Nat := 0xC6
def evPairMirror : Nat := 0xC7

/-- Causes of PAIR.LAST_CAUSE. -/
def causeReferee : Nat := 1
def causeDramFreeze : Nat := 2
def causeGranuleRetired : Nat := 3
def causeHost : Nat := 4
def causeWdog : Nat := 5
def causeSplit : Nat := 6
def causePartnerLost : Nat := 7
def causeStart : Nat := 8

def Mach.updPair (m : Mach) (f : Pair → Pair) : Mach := { m with pair := f m.pair }

def Mach.paired (m : Mach) : Bool := m.is Fld.PAIR_CTRL_EN

/-- The unit is the standby of a pair with pair operation enabled. -/
def Mach.standby (m : Mach) : Bool := m.paired && !m.pair.poss

/-- Heads balloted and compared (HEAD_MASK). -/
def Mach.headMasked (m : Mach) (h : Nat) : Bool := m.bit Fld.PAIR_HEAD_MASK_HEADS h

def Mach.vActive (m : Mach) (h : Nat) : Nat := m.get (Fld.HEAD_VTIME_A_VACTIVE h)

def Mach.vTotal (m : Mach) (h : Nat) : Nat :=
  m.vActive h + m.get (Fld.HEAD_VTIME_A_VFP h) + m.get (Fld.HEAD_VTIME_B_VSYNC h) +
  m.get (Fld.HEAD_VTIME_B_VBP h)

/-- LATCH_LINE in effect (R273). -/
def Mach.latchLine (m : Mach) (h : Nat) : Nat :=
  let l := m.get (Fld.HEAD_LATCH_LATCH_LINE h)
  if m.vActive h ≤ l ∧ l < m.vTotal h then l else m.vActive h

/-- BALLOT_LAG in effect. -/
def Mach.ballotLag (m : Mach) : Nat := max 2 (min 8 (m.get Fld.PAIR_CTRL_BALLOT_LAG))

/-- A head of the mask whose ballot latch lies within the frame (R427). -/
def Mach.compared (m : Mach) (h : Nat) : Bool :=
  m.headMasked h && decide (m.latchLine h + m.ballotLag < m.vTotal h)

/-- Eligible to hold possession (R419). -/
def Mach.eligible (m : Mach) : Bool :=
  m.paired && m.is Fld.SYS_PWR_STATUS_BOOT_READY && !m.is Fld.PAIR_STATUS_SELF_FAULTY &&
  !(m.pair.refFailed.any m.compared)

/-- PROTECTED as R436 states it. -/
def Mach.protectedNow (m : Mach) : Bool :=
  m.paired && m.is Fld.PAIR_STATUS_LINK_UP && m.is Fld.PAIR_STATUS_PARTNER_PG && m.on &&
  m.is Fld.PAIR_STATUS_SYNCED &&
  (if m.pair.poss then m.pair.partnerEligible else m.pair.partnerPoss && m.eligible)

/-- Bring STATUS.PROTECTED up to date; a change raises its event (R436). -/
def Mach.updProtected (m : Mach) : Mach :=
  if m.protectedNow = m.is Fld.PAIR_STATUS_PROTECTED then m
  else
    let p := m.protectedNow
    (m.putB Fld.PAIR_STATUS_PROTECTED p).raise (if p then evPairProtected else evPairUnprotected)

/-- Record a change of possession (PAIR.LAST_CAUSE). -/
def Mach.recordCause (m : Mach) (takeover : Bool) (cause : Nat) : Mach :=
  let m := m.put Fld.PAIR_LAST_CAUSE_GRID m.pair.grid
  let m := m.putB Fld.PAIR_LAST_CAUSE_DIR takeover
  m.put Fld.PAIR_LAST_CAUSE_CAUSE cause

/-- The pair is no longer in step: SYNCED and its counts start again (R436). -/
def Mach.syncLost (m : Mach) : Mach :=
  (m.updPair fun p => { p with syncRun := 0, unresRun := 0 }).put Fld.PAIR_STATUS_SYNCED 0

/-- Drive POSS_N low (R419). -/
def Mach.acquire (m : Mach) (cause : Nat) : Mach :=
  let m := m.syncLost.updPair fun p =>
    { p with poss := true, grant := none, takeover := List.range 20, announced := none
             kick := m.time.ticks }
  let m := m.put Fld.PAIR_STATUS_POSS_LOW 1
  ((m.recordCause true cause).raise evPairTakeover).updProtected

/-- Release POSS_N by the unit's own decision (R420). -/
def Mach.handOver (m : Mach) (cause : Nat) : Mach :=
  let m := m.syncLost.updPair fun p => { p with poss := false, announced := some cause }
  ((m.recordCause false cause).raise evPairHandover).updProtected

/-- DRAM freeze and granule retirement (R398, R434). -/
def Mach.integrityFault (m : Mach) (cause : Nat) : Mach :=
  if !m.paired then m
  else
    let m := m.put Fld.PAIR_STATUS_SELF_FAULTY 1
    if m.pair.poss then m.handOver cause else m.updProtected

/-- A memory write that the active unit accepts into a mirror window is forwarded (R424). -/
def Mach.inMirrorWindow (m : Mach) (addr : Nat) : Bool :=
  (List.range 4).any fun i =>
    m.is (Fld.PAIR_MWIN_BASE_EN i) && decide (m.get (Fld.PAIR_MWIN_BASE_BASE i) ≤ addr / 0x10000) &&
    decide (addr / 0x10000 ≤ m.get (Fld.PAIR_MWIN_LIMIT_LIMIT i))

/-- Masters whose writes into a window are forwarded. -/
def mirrorMaster (mst : Nat) : Bool :=
  mst == mstHost || mst == mstChain || (0x10 ≤ mst && mst < 0x28) || mst == mstDefl

/-- A write of the master at the address is mirrored. -/
def Mach.mirrors (m : Mach) (mst addr : Nat) : Bool :=
  m.paired && m.pair.poss && m.is Fld.PAIR_CTRL_MIRROR && m.is Fld.PAIR_STATUS_LINK_UP &&
  mirrorMaster mst && m.inMirrorWindow addr

/-- A mirrored write enters the buffer of the port, and goes to the standby. -/
def Mach.mirrorMem (m : Mach) (mst addr : Nat) (bytes : List Byte) : Mach :=
  if m.mirrors mst addr then
    (m.updPair fun p => { p with mirrorFill := p.mirrorFill + 16 * bytes.length }).send
      (.pair (.mirrorMem addr bytes))
  else m

/-- The buffer has no room for what of a write is mirrored; one of more than 64 KiB enters an empty buffer. -/
def Mach.mirrorFull (m : Mach) (mst : Nat) (parts : List (Nat × Nat)) : Bool :=
  let n := (parts.filter fun p => m.mirrors mst p.1).foldl (fun a p => a + p.2) 0
  n != 0 && decide (0x100000 < m.pair.mirrorFill + min (16 * n) 0x100000)

/-- The port empties the buffer at its payload rate of 19.375 Gbit/s: 155/16 bytes in 4 ns (R415). -/
def Mach.mirrorDrains (m : Mach) (n : Nat) : Mach :=
  if m.pair.mirrorFill = 0 then m
  else m.updPair fun p => { p with mirrorFill := p.mirrorFill - 155 * n }

/-! ### The form of a ballot (R426) -/

def BallotEntry.encode (e : BallotEntry) : List Byte :=
  toLE 2 (e.slot % 512 + e.newPic.toNat * 512 + e.arrival.toNat * 1024 + e.pcode % 8 * 2048 +
    e.phase % 4 * 16384) ++
  toLE 2 e.stream ++ toLE 4 e.rtp.toNat ++ toLE 4 e.sig.toNat ++ toLE 4 (min e.age0 0xFFFFFFFF)

def Ballot.encode (b : Ballot) : List Byte :=
  toLE 1 b.head ++ toLE 1 b.entries.length ++ toLE 2 (b.commitTaken.toNat + 2 * b.setRejected.toNat) ++
  toLE 2 b.tag ++ toLE 2 0 ++ toLE 8 b.grid ++ b.entries.flatMap BallotEntry.encode

end Sys2Proof.Machine
end

