-- ==== Sys2Proof/Machine/MemOps.lean ====
section
/-! DEFINITION. Memory as masters reach it: protection rules and violations (R404 to R412), leases
(R259), DRAM with its freeze (R374, R375), the frame store with its granule map and written bits
(R379 to R382, R395), sequencer RAMs (R103 to R105), and the test injection (R399). -/

namespace Sys2Proof.Machine

def evDramFreeze : Nat := 0xA0
def evDramTrainFail : Nat := 0xA1
def evDramFcDone : Nat := 0xA2
def evFsUnwritten : Nat := 0xA3
def evFsUncorr : Nat := 0xA4
def evLeaseViolation : Nat := 0xB8
def evLeaseEnd : Nat := 0xB9
def evLeaseFull : Nat := 0xBA

def Mach.updDram (m : Mach) (f : Dram → Dram) : Mach := { m with dram := f m.dram }
def Mach.updRepair (m : Mach) (f : Repair → Repair) : Mach := { m with repair := f m.repair }

/-! ### Protection (R404 to R408, R412) -/

/-- The class of a master (R404). -/
def masterClass (mst : Nat) : Nat :=
  if mst = 0x01 then 0 else if mst = 0x02 then 1 else if mst = 0x03 then 2
  else if mst = 0x04 then 3
  else if 0x10 ≤ mst ∧ mst ≤ 0x23 then 4
  else if 0x24 ≤ mst ∧ mst ≤ 0x26 then 5
  else if mst = 0x27 then 6
  else if 0x40 ≤ mst ∧ mst ≤ 0x7F then 7
  else if 0x80 ≤ mst ∧ mst ≤ 0x8F then 8
  else if 0x90 ≤ mst ∧ mst ≤ 0xA3 then 9
  else if mst = 0xB0 then 10 else if mst = 0xB1 then 11 else if mst = 0xB2 then 12
  else 13

/-- A rule's code for a master allows the access (R405): READ for reads, READ_WRITE for both. -/
def ruleAllows (rule mst : Nat) (write : Bool) : Bool :=
  let code := bitsOf rule (2 * masterClass mst) 2
  code == 3 || (!write && code == 1)

/-- Kinds of VIOL_INFO. -/
def violRead : Nat := 0
def violWrite : Nat := 1
def violUnmapped (write : Bool) : Nat := if write then 3 else 2
def violLocked : Nat := 4
def violKind (write : Bool) : Nat := if write then violWrite else violRead

/-- Record a violation (R408). -/
def Mach.violate (m : Mach) (kind target mst addr : Nat) : Mach :=
  let m := if m.is Fld.PROT_VIOL_INFO_VALID then m
    else
      let m := m.put Fld.PROT_VIOL_INFO_VALID 1
      let m := m.put Fld.PROT_VIOL_INFO_KIND kind
      let m := m.put Fld.PROT_VIOL_INFO_TARGET target
      let m := m.put Fld.PROT_VIOL_INFO_MASTER mst
      let m := m.put Fld.PROT_VIOL_ADDR_LO_ADDR_LO addr
      m.put Fld.PROT_VIOL_ADDR_HI_ADDR_HI (addr / 2 ^ 32)
  (m.count Fld.PROT_VIOL_COUNT_COUNT).raise evProtViolation

def Mach.locked (m : Mach) : Bool := m.is Fld.PROT_BOOT_LOCK_LOCK

/-- The debug-unlock fuse is blown and DEBUG_OPEN is set (R412). -/
def Mach.debugActive (m : Mach) : Bool :=
  m.is Fld.PROT_DEBUG_OPEN_OPEN && m.is Fld.PROT_STATUS_DEBUG_FUSE

/-- The memory rule for an address and its target number (R405). -/
def Mach.memRule (m : Mach) (addr : Nat) : Nat × Nat :=
  let u := addr / 0x10000
  match (List.range 16).find? fun i =>
      m.is (Fld.PROT_MREG_BASE_EN i) && decide (m.get (Fld.PROT_MREG_BASE_BASE i) ≤ u) &&
      decide (u ≤ m.get (Fld.PROT_MREG_LIMIT_LIMIT i)) with
  | some i => (m.get (Fld.PROT_MREG_RULE_RULE i), 256 + i)
  | none => (m.get Fld.PROT_MEM_DEFAULT_RULE, 272)

/-- Why protection denies a memory access within one 64 KiB unit: kind and target; none when it is
allowed (R86, R406, R412). -/
def Mach.memDenied (m : Mach) (mst addr : Nat) (write : Bool) : Option (Nat × Nat) :=
  match placeOf addr with
  | .unmapped => some (violUnmapped write, 511)
  | _ =>
    if mst = mstDebug ∧ m.debugActive then none
    else if mst = mstDebug ∧ !m.locked then some (violKind write, 273)
    else if !m.locked && (mst == mstHost || mst == mstChain) then
      if fsBase ≤ addr ∧ addr < fsBase + 0x800000 then none else some (violKind write, 273)
    else if ruleAllows (m.memRule addr).1 mst write then none
    else some (violKind write, (m.memRule addr).2)

/-! ### Leases over writes (R259) -/

/-- Masters whose writes leases check. -/
def leaseChecked (mst : Nat) : Bool :=
  mst == mstHost || mst == mstChain || mst == mstDebug || mst == mstPair ||
  (0x10 ≤ mst && mst < 0x28) || mst == mstDefl || mst == mstIngest

/-- The active lease a write would overlap. -/
def Mach.leaseHit (m : Mach) (addr n : Nat) : Option (Nat × Lease) :=
  if n = 0 then none
  else m.leases.table.find? fun e => overlaps addr (addr + n - 1) e.2.first e.2.last

/-- Report a refused write (R263). -/
def Mach.leaseViolation (m : Mach) (mst addr : Nat) (e : Nat × Lease) : Mach :=
  let m := if m.is Fld.LEASE_VIOL_INFO_VALID then m
    else
      let m := m.put Fld.LEASE_VIOL_INFO_VALID 1
      let m := m.put Fld.LEASE_VIOL_INFO_MASTER mst
      let m := m.put Fld.LEASE_VIOL_INFO_HEAD e.2.head
      let m := m.put Fld.LEASE_VIOL_INFO_ENTRY e.1
      let m := m.put Fld.LEASE_VIOL_ADDR_LO_ADDR_LO addr
      m.put Fld.LEASE_VIOL_ADDR_HI_ADDR_HI (addr / 2 ^ 32)
  (m.count Fld.LEASE_VIOL_COUNT_COUNT).raise evLeaseViolation

/-! ### Hard faults, the repair queue and the offline queue (R389, R390, R393, R397) -/

/-- Push a DRAM page as an offline candidate (R397). -/
def Mach.pushOffline (m : Mach) (addr : Nat) (uncorr : Bool) : Mach :=
  let page := addr / 4096
  if m.repair.offline.any fun e => e.1 == page then m
  else if 64 ≤ m.repair.offline.length then
    m.updRepair fun r => { r with offlineOverflow := true }
  else
    (m.updRepair fun r => { r with offline := r.offline ++ [(page, uncorr)] }).raise evPageOffline

def Mach.dramHardFault (m : Mach) (addr : Nat) (uncorr : Bool) : Mach :=
  ((m.count Fld.REPAIR_HARD_DRAM_HARD).raise evHardFault).pushOffline addr uncorr

/-- A hard fault in the frame store joins the repair queue (R393). -/
def Mach.fsHardFault (m : Mach) (phys : Nat) : Mach :=
  let m := (m.count Fld.REPAIR_HARD_FS_HARD).raise evHardFault
  if 8 ≤ m.repair.faults.length then m.put Fld.REPAIR_STATUS_PEND_OVERFLOW 1
  else m.updRepair fun r => { r with faults := r.faults ++ [phys] }

/-- A corrected error in DRAM or the frame store (R389). -/
def Mach.corrected (m : Mach) (fs : Bool) (mst addr key pos : Nat) : Mach :=
  let m := m.count (if fs then Fld.REPAIR_FS_CE_COUNT else Fld.REPAIR_DRAM_CE_COUNT)
  let first := !m.is Fld.REPAIR_CE_INFO_VALID
  let m := if !first then m
    else
      let m := m.put Fld.REPAIR_CE_INFO_VALID 1
      let m := m.putB Fld.REPAIR_CE_INFO_MEM fs
      let m := m.put Fld.REPAIR_CE_INFO_HARD 0
      let m := m.put Fld.REPAIR_CE_INFO_SYND pos
      let m := m.put Fld.REPAIR_CE_INFO_MASTER mst
      let m := m.put Fld.REPAIR_CE_ADDR_LO_ADDR_LO addr
      m.put Fld.REPAIR_CE_ADDR_HI_ADDR_HI (addr / 2 ^ 32)
  (m.updRepair fun r => { r with corr := r.corr ++ [⟨fs, addr, key, pos, first⟩] }).raise evEccCorr

/-! ### The freeze (R374) -/

def Mach.frozen (m : Mach) : Bool := m.is Fld.DRAMC_STATUS_FROZEN

/-- Freeze the controller at once (R374); the active unit of a pair hands over (R434). -/
def Mach.freezeNow (m : Mach) (c : FreezeCause) : Mach :=
  let m := m.put Fld.DRAMC_STATUS_FROZEN 1
  let m := m.put Fld.DRAMC_FREEZE_INFO_VALID 1
  let m := m.putB Fld.DRAMC_FREEZE_INFO_KIND c.command
  let m := m.put Fld.DRAMC_FREEZE_INFO_CHANNEL c.channel
  let m := m.put Fld.DRAMC_FREEZE_INFO_MASTER c.mst
  let m := m.put Fld.DRAMC_FREEZE_INFO_CMD c.cmd
  let m := m.put Fld.DRAMC_FREEZE_ADDR_LO_ADDR_LO c.addr
  let m := m.put Fld.DRAMC_FREEZE_ADDR_HI_ADDR_HI (c.addr / 2 ^ 32)
  let m := m.put Fld.DRAMC_FREEZE_SYND_WORD c.word
  let m := m.put Fld.DRAMC_FREEZE_SYND_SYND c.synd
  (m.raise evDramFreeze).encFreeze.integrityFault causeDramFreeze

/-- A freeze condition: at once, or once a running frequency change has completed (R366). -/
def Mach.freeze (m : Mach) (c : FreezeCause) : Mach :=
  match m.dram.fc with
  | .running _ | .returning =>
    m.updDram fun d => { d with pendingFreeze := some (d.pendingFreeze.getD c) }
  | _ => if m.frozen then m else m.freezeNow c

/-! ### Code words in storage -/

/-- The bits of a storage word that are stored inverted. -/
def Mach.flipMask (m : Mach) (key : Nat) : Nat := tabGet 0 m.flips key

def Mach.setFlips (m : Mach) (key mask : Nat) : Mach :=
  { m with flips := if mask = 0 then tabDel m.flips key else tabSet m.flips key mask }

/-- What reading a word of DRAM or the frame store gives, by R387. -/
def Mach.eccOf (m : Mach) (key : Nat) : EccResult × Nat × Bool :=
  let sp := syndromeOf 64 7 (m.flipMask key)
  (classify 71 sp.1 sp.2, sp.1, sp.2)

/-- The same for a word of a sequencer RAM (R388). -/
def Mach.eccOf32 (m : Mach) (key : Nat) : EccResult × Nat × Bool :=
  let sp := syndromeOf 32 6 (m.flipMask key)
  (classify 38 sp.1 sp.2, sp.1, sp.2)

/-! ### The test injection (R399, R400) -/

/-- The mask the armed injection inverts. -/
def Mach.injectMask (m : Mach) : Nat :=
  2 ^ m.get Fld.REPAIR_INJ_CTRL_BIT0 +
  if m.is Fld.REPAIR_INJ_CTRL_DOUBLE then 2 ^ m.get Fld.REPAIR_INJ_CTRL_BIT1 else 0

/-- The test ends with a result: the correct word is restored (memory holds it; only the inverted bits go). -/
def Mach.injectDone (m : Mach) (key result synd : Nat) : Mach :=
  let m := m.setFlips key 0
  let m := m.updRepair fun r => { r with inject := none }
  let m := m.put Fld.REPAIR_INJ_STATUS_RESULT result
  let m := m.put Fld.REPAIR_INJ_STATUS_SYND synd
  let m := m.put Fld.REPAIR_INJ_STATUS_DONE 1
  (m.put Fld.REPAIR_INJ_CTRL_ARM 0).raise evEccTestDone

/-- The word is the one whose injected error waits for its test read. -/
def Mach.injected (m : Mach) (key : Nat) : Bool := m.repair.inject == some ⟨key, true⟩

/-- The result of a test read: CORRECTED, DETECTED or MISSED (R399). -/
def Mach.injectResult (m : Mach) (r : EccResult) : Nat :=
  match r, m.is Fld.REPAIR_INJ_CTRL_DOUBLE with
  | .corrected _, false => 1
  | .uncorrectable, true => 2
  | _, _ => 3

/-- A whole word is stored: its errors go; an armed injection acts on the first such write, and a
further write ends the test as OVERWRITTEN. -/
def Mach.wordWritten (m : Mach) (key : Nat) : Mach :=
  match m.repair.inject with
  | some i =>
    if i.key ≠ key then m.setFlips key 0
    else if i.injected then m.injectDone key 4 0
    else
      (m.setFlips key m.injectMask).updRepair fun r => { r with inject := some ⟨key, true⟩ }
  | none => m.setFlips key 0

/-! ### Reading stored words -/

/-- Bytes of a word, with the inverted data bits a read delivers. -/
def Mach.wordBytes (m : Mach) (size key mask : Nat) : List Byte :=
  toLE size (leNat (m.bytes key size) ^^^ mask)

/-- Read one 64-bit word of DRAM or the frame store for a master: its bytes, or none when it is
uncorrectable, with the syndrome byte. A test read is exempt from the handling of a real error. -/
def Mach.readWord (m : Mach) (fs : Bool) (mst addr key : Nat) : Mach × Option (List Byte) × Nat :=
  let mask := m.flipMask key
  if mask = 0 then (m, some (m.bytes key 8), 0)
  else
    let e := m.eccOf key
    let out := m.wordBytes 8 key (deliveredMask 64 mask e.1)
    if m.injected key then
      let m := m.injectDone key (m.injectResult e.1) (syndByte e.2.1 e.2.2)
      match e.1 with
      | .uncorrectable => (m, some (toLE 8 0), 0)
      | _ => (m, some out, 0)
    else match e.1 with
      | .clean => (m, some out, 0)
      | .corrected pos => (m.corrected fs mst addr key pos, some out, 0)
      | .uncorrectable => (m, none, syndByte e.2.1 e.2.2)

/-- Bytes `[a, a + n)` of a word that starts at `w`. -/
def sliceOf (bytes : List Byte) (w a n : Nat) : List Byte := (bytes.drop (a - w)).take n

/-! ### DRAM -/

/-- A master accesses DRAM now (R42). -/
def Mach.dramUsed (m : Mach) : Mach := m.updDram fun d => { d with lastUse := m.time.ticks }

/-- FROZEN, or a freeze waits for the frequency change that runs to end (R366): accesses end (R375). -/
def Mach.freezing (m : Mach) : Bool := m.frozen || m.dram.pendingFreeze.isSome

/-- A DRAM access in Idle, or during entry into Idle, returns the module to Run (R43). -/
def Mach.dramWake (m : Mach) : Mach :=
  if m.is Fld.SYS_PWR_STATUS_STATE then
    (m.put Fld.SYS_PWR_STATUS_STATE 0).put Fld.DRAMC_STATUS_SREF 0
  else m

/-- Count one ended access (R375). -/
def Mach.dramEnded (m : Mach) : Mach := m.count Fld.DRAMC_FREEZE_DROPPED_COUNT

/-- An uncorrectable DRAM read: hard fault and freeze (R374, R390). -/
def Mach.dramUncorr (m : Mach) (mst addr cmd synd : Nat) : Mach :=
  (m.dramHardFault addr true).freeze
    ⟨false, dramChannel addr, mst, cmd, addr, synd, addr / 8 % 8⟩

/-- Read words of DRAM; none once a word is uncorrectable. -/
def Mach.dramWords (m : Mach) (mst cmd : Nat) : List (Nat × Nat) → Mach × Option (List Byte)
  | [] => (m, some [])
  | (a, n) :: r =>
    let w := a / 8 * 8
    let p := m.readWord false mst w w
    match p.2.1 with
    | none => (p.1.dramUncorr mst w cmd p.2.2, none)
    | some bs =>
      let q := p.1.dramWords mst cmd r
      (q.1, q.2.map fun l => sliceOf bs w a n ++ l)

/-- The class of a master's DRAM accesses (R368). -/
def dramClass (mst : Nat) : Option Nat :=
  if 0x90 ≤ mst ∧ mst < 0xA4 then some 0
  else if (0x40 ≤ mst ∧ mst < 0x90) ∨ mst = mstIngest then some 1
  else if mst ∈ [mstHost, mstChain, mstDebug, mstPair] then some 2
  else if mst = mstDefl ∨ mst = mstScrub then some 3
  else none

/-- One 64-byte read in every 256 of a class is a sample, of a latency the spec leaves free (R484,
R370, log entry 3). -/
def Mach.dramSampled (m : Mach) (cls : Option Nat) (lines : Nat) : Mach :=
  match cls with
  | none => m
  | some k =>
    let n := tabGet 0 m.dram.reads k + lines
    let m := m.updDram fun d => { d with reads := tabSet d.reads k (n % 256) }
    forEach (List.range (n / 256)) m fun m _ => m.free.2.monSample 8 k none m.free.1.toNat

/-- A DRAM read of a class: its bytes, and whether it was ended, by a freeze before it or by its own error
(R375). -/
def Mach.dramRead (m : Mach) (mst : Nat) (cls : Option Nat) (a n : Nat) : Mach × List Byte × Bool :=
  if m.freezing then (m, List.replicate n 0, true)
  else
    let q := m.dramWords mst (if mst = mstScrub then 3 else 0) (wordParts 8 a n)
    match q.2 with
    | some bs => (q.1.dramSampled cls (lineParts a n).length, bs, false)
    | none => (q.1, List.replicate n 0, true)

/-- Before a write stores anything, the words that it covers in part are read (R359); false where one is
uncorrectable, which ends the write (R375). A word of an armed injection is so test-read (R399, log entry
21). -/
def Mach.dramProbe (m : Mach) (mst : Nat) : List (Nat × Nat) → Mach × Bool
  | [] => (m, true)
  | (a, n) :: r =>
    if n = 8 then m.dramProbe mst r
    else
      let w := a / 8 * 8
      let tested := m.injected w
      let p := m.readWord false mst w w
      match p.2.1 with
      | none => (p.1.dramUncorr mst w 2 p.2.2, false)
      | some old => (if tested then p.1 else p.1.setBytes w old).dramProbe mst r

/-- Store bytes of words whose reads have been made. -/
def Mach.dramStores (m : Mach) (base : Nat) (data : List Byte) : List (Nat × Nat) → Mach
  | [] => m
  | (a, n) :: r =>
    ((m.setBytes a ((data.drop (a - base)).take n)).wordWritten (a / 8 * 8)).dramStores base data r

/-! ### The frame store (R379 to R382, R395) -/

def gmapRetired : Nat := 3

/-- Physical offset of a visible offset, and whether its granule is retired. -/
def Mach.fsPhys (m : Mach) (f : Nat) : Nat × Bool :=
  let g := f / 0x10000
  (m.get (Fld.REPAIR_GMAP_PHYS g) * 0x10000 + f % 0x10000,
   m.get (Fld.REPAIR_GMAP_STATE g) == gmapRetired)

def Mach.lineWritten (m : Mach) (phys : Nat) : Bool := m.written.contains (phys / 64)

/-- Report a read of an unwritten line (R381). -/
def Mach.fsUnwritten (m : Mach) (mst f : Nat) : Mach :=
  let m := m.put Fld.FSTORE_STATUS_UNWRITTEN_READ 1
  let m := m.count Fld.FSTORE_UNW_COUNT_COUNT
  if m.is Fld.FSTORE_UNW_INFO_VALID then m
  else
    let m := m.put Fld.FSTORE_UNW_INFO_VALID 1
    let m := m.put Fld.FSTORE_UNW_INFO_MASTER mst
    (m.put Fld.FSTORE_UNW_ADDR_LINE (f / 64)).raise evFsUnwritten

/-- Clear the written bit of physical lines; an unwritten line reads zero and holds zero for a
partial write (R380, R381). What stands in error in the cells stands until a write (R391). -/
def Mach.clearLines (m : Mach) (first count : Nat) : Mach :=
  let a := fsBase + first * 64
  let b := a + count * 64
  { m with
    written := m.written.filter fun l => !(decide (first ≤ l ∧ l < first + count))
    mem := m.mem.filter fun c => !(decide (a ≤ c.1 ∧ c.1 < b)) }

/-- The reports of an uncorrectable frame-store read of a line (R382). -/
def Mach.fsUncorrReport (m : Mach) (mst f : Nat) : Mach :=
  let m := m.put Fld.FSTORE_STATUS_UNCORR 1
  let m := m.count Fld.FSTORE_UNC_COUNT_COUNT
  let m := if m.is Fld.FSTORE_UNC_INFO_VALID then m
    else
      let m := m.put Fld.FSTORE_UNC_INFO_VALID 1
      let m := m.put Fld.FSTORE_UNC_INFO_MASTER mst
      m.put Fld.FSTORE_UNC_ADDR_LINE (f / 64)
  m.raise evFsUncorr

/-- An uncorrectable frame-store read (R382, R390). -/
def Mach.fsUncorr (m : Mach) (mst f phys : Nat) : Mach :=
  (((m.fsUncorrReport mst f).fsUnwritten mst f).clearLines (phys / 64) 1).fsHardFault phys

/-- Read words of one written line; none when one is uncorrectable. `d` is visible minus physical. -/
def Mach.fsWords (m : Mach) (mst : Nat) (d : Int) : List (Nat × Nat) → Mach × Option (List Byte)
  | [] => (m, some [])
  | (p, n) :: r =>
    let w := p / 8 * 8
    let q := m.readWord true mst (fsBase + (w + d).toNat) (fsBase + w)
    match q.2.1 with
    | none => (q.1, none)
    | some bs =>
      let s := q.1.fsWords mst d r
      (s.1, s.2.map fun l => sliceOf bs w p n ++ l)

/-- Read part of one line; whether the line was written and correctable. -/
def Mach.fsReadLine (m : Mach) (mst f n : Nat) : Mach × List Byte × Bool :=
  let p := m.fsPhys f
  if p.2 || !m.lineWritten p.1 then (m.fsUnwritten mst f, List.replicate n 0, false)
  else
    let q := m.fsWords mst ((f : Int) - p.1) (wordParts 8 p.1 n)
    match q.2 with
    | some bs => (q.1, bs, true)
    | none => (q.1.fsUncorr mst f p.1, List.replicate n 0, false)

def Mach.fsReads (m : Mach) (mst : Nat) : List (Nat × Nat) → Mach × List Byte × Bool
  | [] => (m, [], true)
  | (f, n) :: r =>
    let p := m.fsReadLine mst f n
    let q := p.1.fsReads mst r
    (q.1, p.2.1 ++ q.2.1, p.2.2 && q.2.2)

/-- Read the frame store from a visible offset; whether every line was written. -/
def Mach.fsRead (m : Mach) (mst f n : Nat) : Mach × List Byte × Bool :=
  m.fsReads mst (lineParts f n)

/-- Store bytes within one word of a written line: a part of a word is a read-modify-write (R380), which
test-reads the word of an armed injection (R399, log entry 21); false when its read is uncorrectable. -/
def Mach.fsStoreWord (m : Mach) (mst f p : Nat) (bs : List Byte) : Mach × Bool :=
  let key := fsBase + p / 8 * 8
  if bs.length = 8 then ((m.setBytes (fsBase + p) bs).wordWritten key, true)
  else
    let tested := m.injected key
    let q := m.readWord true mst (fsBase + f / 8 * 8) key
    match q.2.1 with
    | none => (q.1, false)
    | some old =>
      (((if tested then q.1 else q.1.setBytes key old).setBytes (fsBase + p) bs).wordWritten key, true)

def Mach.fsStoreWords (m : Mach) (mst f0 p0 : Nat) (data : List Byte) :
    List (Nat × Nat) → Mach × Bool
  | [] => (m, true)
  | (p, n) :: r =>
    let q := m.fsStoreWord mst (f0 + (p - p0)) p ((data.drop (p - p0)).take n)
    if q.2 then q.1.fsStoreWords mst f0 p0 data r else (q.1, false)

/-- The first write of an unwritten line stores all of it, with zeros in the rest, and sets its written bit
(R380). -/
def Mach.fsFirstWrite (m : Mach) (mst f phys : Nat) (data : List Byte) : Mach :=
  let before := phys % 64
  let line := List.replicate before 0 ++ data ++ List.replicate (64 - before - data.length) 0
  let p := phys - before
  let m := (m.fsStoreWords mst (f - before) p line (wordParts 8 p 64)).1
  { m with written := insertNat m.written (p / 64) }

/-- Write part of one line (R380, R382, R395). -/
def Mach.fsWriteLine (m : Mach) (mst f : Nat) (data : List Byte) : Mach :=
  let p := m.fsPhys f
  if p.2 then m.count Fld.REPAIR_RETIRED_WR_COUNT
  else if !m.lineWritten p.1 then m.fsFirstWrite mst f p.1 data
  else
    let q := m.fsStoreWords mst f p.1 data (wordParts 8 p.1 data.length)
    if q.2 then q.1 else (q.1.fsUncorr mst f p.1).fsFirstWrite mst f p.1 data

def Mach.fsWrites (m : Mach) (mst f0 : Nat) (data : List Byte) : List (Nat × Nat) → Mach
  | [] => m
  | (f, n) :: r => (m.fsWriteLine mst f ((data.drop (f - f0)).take n)).fsWrites mst f0 data r

/-- Write the frame store from a visible offset. -/
def Mach.fsWrite (m : Mach) (mst f : Nat) (data : List Byte) : Mach :=
  m.fsWrites mst f data (lineParts f data.length)

/-! ### Sequencer RAMs (R103 to R105) -/

/-- The sequencer is RUNNING or WAITING (R133). -/
def Mach.seqBusy (m : Mach) (n : Nat) : Bool :=
  m.get (Fld.SEQ_STATUS_STATE n) == 1 || m.get (Fld.SEQ_STATUS_STATE n) == 2

/-- Read one RAM word: its value, or none when it is uncorrectable; corrections count (R103). -/
def Mach.ramWord (m : Mach) (n key : Nat) : Mach × Option Nat :=
  let mask := m.flipMask key
  let v := leNat (m.bytes key 4)
  if mask = 0 then (m, some v)
  else
    let e := m.eccOf32 key
    let out := v ^^^ deliveredMask 32 mask e.1
    if m.injected key then
      let m := m.injectDone key (m.injectResult e.1) (syndByte e.2.1 e.2.2)
      match e.1 with
      | .uncorrectable => (m, some 0)
      | _ => (m, some out)
    else match e.1 with
      | .clean => (m, some out)
      | .corrected _ => (m.count (Fld.SEQ_ECC_CORR n), some out)
      | .uncorrectable => (m.count (Fld.SEQ_ECC_UNCORR n), none)

def Mach.ramReads (m : Mach) (n : Nat) : List (Nat × Nat) → Mach × List Byte
  | [] => (m, [])
  | (a, k) :: r =>
    let w := a / 4 * 4
    let p := m.ramWord n w
    let q := p.1.ramReads n r
    (q.1, sliceOf (toLE 4 (p.2.getD 0)) w a k ++ q.2)

def Mach.ramWrites (m : Mach) (base : Nat) (data : List Byte) : List (Nat × Nat) → Mach
  | [] => m
  | (a, k) :: r =>
    ((m.setBytes a ((data.drop (a - base)).take k)).wordWritten (a / 4 * 4)).ramWrites base data r

/-- Instruction RAM is written only while its sequencer is not BUSY (R105); what a write has beyond it goes
into data RAM. -/
def Mach.ramWrite (m : Mach) (mst n off a : Nat) (data : List Byte) : Mach :=
  if off < 0x8000 ∧ m.seqBusy n = true then
    let k := 0x8000 - off
    let m := m.cfgReject mst (0xA0 + n) 0xFFFC
    if data.length ≤ k then m else m.ramWrites (a + k) (data.drop k) (wordParts 4 (a + k) (data.length - k))
  else m.ramWrites a data (wordParts 4 a data.length)

/-! ### One part of an access, after its checks -/

/-- Read a part: its bytes, and whether DRAM ended the read. -/
def Mach.readPart (m : Mach) (mst : Nat) (cls : Option Nat) (a n : Nat) : Mach × List Byte × Bool :=
  match placeOf a with
  | .dram => m.dramRead mst cls a n
  | .frameStore f => ((m.fsRead mst f n).1, (m.fsRead mst f n).2.1, false)
  | .seqRam q _ => ((m.ramReads q (wordParts 4 a n)).1, (m.ramReads q (wordParts 4 a n)).2, false)
  | .bootRom o => (m, (List.range n).map fun i => Config.bootRom (o + i), false)
  | _ => (m, List.replicate n 0, false)

/-- Write a part; the reads that a DRAM write begins with have been made. -/
def Mach.writePart (m : Mach) (mst a : Nat) (data : List Byte) : Mach :=
  match placeOf a with
  | .dram => m.dramStores a data (wordParts 8 a data.length)
  | .frameStore f => m.fsWrite mst f data
  | .seqRam q off => m.ramWrite mst q off a data
  | _ => m

/-! ### Checked accesses (R406, R407) -/

/-- 0x0BAD_0BAD in every word, little-endian, from an address on (R407). -/
def badBytes (a n : Nat) : List Byte :=
  (List.range n).map fun i => if (a + i) % 2 = 0 then 0xAD else 0x0B

/-- What a denied part reads as (R21, R407). -/
def deniedBytes (a n : Nat) : List Byte :=
  if placeOf a = .unmapped then List.replicate n 0 else badBytes a n

/-- Read the parts of an access, of which `ok` have been allowed: the bytes, and whether DRAM ended it. -/
def Mach.memReads (m : Mach) (mst : Nat) (cls : Option Nat) (ok : List (Nat × Nat)) :
    List (Nat × Nat) → Mach × List Byte × Bool
  | [] => (m, [], false)
  | (a, n) :: r =>
    let p := if ok.contains (a, n) then m.readPart mst cls a n else (m, deniedBytes a n, false)
    let q := p.1.memReads mst cls ok r
    (q.1, p.2.1 ++ q.2.1, p.2.2 || q.2.2)

/-- Cut `[a, a + n)` at one address. -/
def cutAt (x : Nat) (u : Nat × Nat) : List (Nat × Nat) :=
  if u.1 < x ∧ x < u.1 + u.2 then [(u.1, x - u.1), (x, u.1 + u.2 - x)] else [u]

/-- The parts of an access: in a sequencer's window also cut where its unmapped end begins. -/
def partsOf (a n : Nat) : List (Nat × Nat) :=
  (unitParts a n).flatMap fun u =>
    if 0x1800000000 ≤ u.1 ∧ u.1 < 0x1800180000 then cutAt (u.1 / 0x10000 * 0x10000 + 0xC000) u else [u]

/-- Report the denied parts of an access and keep the allowed ones. -/
def Mach.memAllowed (m : Mach) (mst : Nat) (write : Bool) : List (Nat × Nat) → Mach × List (Nat × Nat)
  | [] => (m, [])
  | (a, n) :: r =>
    match m.memDenied mst a write with
    | some (k, t) => (m.violate k t mst a).memAllowed mst write r
    | none =>
      let q := m.memAllowed mst write r
      (q.1, (a, n) :: q.2)

def Mach.memStores (m : Mach) (mst base : Nat) (data : List Byte) : List (Nat × Nat) → Mach
  | [] => m
  | (a, n) :: r =>
    let d := (data.drop (a - base)).take n
    ((m.writePart mst a d).mirrorMem mst a d).memStores mst base data r

/-- The first lease that one of the parts overlaps. -/
def Mach.leaseHits (m : Mach) : List (Nat × Nat) → Option (Nat × Nat × Lease)
  | [] => none
  | (a, n) :: r =>
    match m.leaseHit a n with
    | some e => some (a, e)
    | none => m.leaseHits r

/-- The checks of a write at its issue (R259, R406, R407): the parts that are left to store. Denied parts
are dropped, and a write into an active lease is dropped whole. -/
def Mach.writeChecked (m : Mach) (mst a n : Nat) : Mach × List (Nat × Nat) :=
  let p := m.memAllowed mst true (partsOf a n)
  match if leaseChecked mst then p.1.leaseHits p.2 else none with
  | some e =>
    let m := p.1.leaseViolation mst a e.2
    -- a refused mirrored write is reported on the standby (R425)
    (if mst = mstPair then
      ((m.put Fld.PAIR_STATUS_MIRROR_REFUSED 1).count
        Fld.PAIR_CNT_MIRROR_REFUSED_COUNT).raise evPairMirror
    else m, [])
  | none => p

/-! ### Accesses in flight (R129, R410) -/

/-- The number of the access a waiting sequencer has in flight. -/
def SeqWait.access : SeqWait → Option Nat
  | .read a _ _ _ _ => some a
  | .write a _ _ _ _ => some a
  | .commit a _ _ _ _ => some a
  | _ => Option.none

/-- Every access with a number below `before` has completed. -/
def Mach.drained (m : Mach) (before : Nat) : Bool :=
  (m.seqs.all fun e => match e.2.wait.access with
    | some a => decide (before ≤ a)
    | none => true) &&
  m.dram.held.all fun h => decide (before ≤ h.id)

/-- A number for an access put in flight. -/
def Mach.newAccess (m : Mach) : Nat × Mach := (m.nextAccess, { m with nextAccess := m.nextAccess + 1 })

/-- DRAM accesses wait: before the zero-fill, during a frequency change, and in Idle (R43, R361,
R365). -/
def Mach.dramHolds (m : Mach) : Bool :=
  !m.frozen &&
  (!m.boot.zeroFilled || m.is Fld.SYS_PWR_STATUS_STATE ||
    match m.dram.fc with
    | .running _ | .returning => true
    | _ => false)

/-- Send the data of a completed read where it goes. -/
def Mach.replyRead (m : Mach) (mst : Nat) (bytes : List Byte) : Reply → Mach
  | .data => m.send (.data mst bytes)
  | .host => m.send (.hostRead bytes)
  | .chain tag => m.sendChain true (.completion tag bytes)

/-- The host reaches the module with this master ID, and its accesses take effect in order (R73). -/
def hostOrdered (mst : Nat) : Bool := mst == mstHost || mst == mstChain

/-- An access to register space. -/
def HeldAccess.atRegs (h : HeldAccess) : Bool :=
  match placeOf h.addr with
  | .regs _ _ => true
  | _ => false

/-- One of the parts is in DRAM. -/
def inDramParts (parts : List (Nat × Nat)) : Bool := parts.any fun p => placeOf p.1 == .dram

/-- Bytes from `a` with those that a write of `data` at `b` replaces within its part `[p, p + n)`. -/
def overlaid (a : Nat) (bytes : List Byte) (b : Nat) (data : List Byte) (p n : Nat) : List Byte :=
  bytes.mapIdx fun i x => if p ≤ a + i ∧ a + i < p + n then data.getD (a + i - b) x else x

/-- Bytes from `a` as the writes that are held will leave them, oldest first. -/
def Mach.heldOver (m : Mach) (a : Nat) (bytes : List Byte) : List Byte :=
  m.dram.held.foldl (fun bs h => match h.data with
    | some d => h.parts.foldl (fun bs p => overlaid a bs h.addr d p.1 p.2) bs
    | none => bs) bytes

/-- Read what the checks at the access's issue have allowed. A read that DRAM ends gives zeros and counts
once (R375). -/
def Mach.readAllowed (m : Mach) (mst : Nat) (cls : Option Nat) (a n : Nat) (ok : List (Nat × Nat)) :
    Mach × List Byte :=
  let q := m.memReads mst cls ok (partsOf a n)
  if q.2.2 then
    (q.1.dramEnded, (partsOf a n).flatMap fun p =>
      if ok.contains p then List.replicate p.2 0 else deniedBytes p.1 p.2)
  else (q.1, q.2.1)

/-- Store what the checks at the access's issue have allowed. A write that DRAM ends, or whose own read of a
word in part is uncorrectable, is dropped whole and counts once (R375). -/
def Mach.writeAllowed (m : Mach) (mst a : Nat) (data : List Byte) (ok : List (Nat × Nat)) : Mach :=
  if inDramParts ok then
    if m.freezing then m.dramEnded
    else
      let p := m.dramProbe mst (ok.flatMap fun q => wordParts 8 q.1 q.2)
      if p.2 then p.1.memStores mst a data ok else p.1.dramEnded
  else m.memStores mst a data ok

/-- Perform a memory access that has passed the checks of its issue, and answer a read. -/
def Mach.heldPerform (m : Mach) (h : HeldAccess) : Mach :=
  match h.data with
  | some d => m.writeAllowed h.mst h.addr d h.parts
  | none =>
    let q := m.readAllowed h.mst (dramClass h.mst) h.addr h.len h.parts
    q.1.replyRead h.mst q.2 h.reply

/-! ### The order in which waiting accesses are served (R369) -/

/-- The weight of a class; a weight of 0 acts as 1. -/
def Mach.qosWeight (m : Mach) (cls : Nat) : Nat :=
  max 1 (m.get (match cls with
    | 0 => Fld.DRAMC_QOS_RT_W
    | 1 => Fld.DRAMC_QOS_MEDIA_W
    | 2 => Fld.DRAMC_QOS_CTRL_W
    | _ => Fld.DRAMC_QOS_BULK_W))

/-- The first accesses of a class, as many as its weight has bursts, and the rest; an access is served whole
(log entry 21). -/
def takeBursts : Nat → List HeldAccess → List HeldAccess × List HeldAccess
  | _, [] => ([], [])
  | 0, l => ([], l)
  | w + 1, h :: r =>
    let n := (lineParts h.addr (match h.data with
      | some d => d.length
      | none => h.len)).length
    let q := takeBursts (w + 1 - n) r
    (h :: q.1, q.2)

/-- Rounds over the classes, each with its weight. -/
def Mach.qosRounds (m : Mach) : Nat → List (List HeldAccess) → List HeldAccess
  | 0, l => l.flatten
  | fuel + 1, l =>
    let t := l.mapIdx fun k q => takeBursts (m.qosWeight k) q
    t.flatMap (·.1) ++ m.qosRounds fuel (t.map (·.2))

/-- Waiting accesses in the order of service: the reads of heads in panic before all others, then weighted
round-robin over the classes. Masters without a class follow with the last one (log entry 21). -/
def Mach.qosOrder (m : Mach) (l : List HeldAccess) : List HeldAccess :=
  let urgent (h : HeldAccess) : Bool :=
    h.data.isNone && decide (0x90 ≤ h.mst ∧ h.mst < 0xA4) && m.is (Fld.HEAD_STATUS_PANIC (h.mst - 0x90))
  let rest := l.filter fun h => !urgent h
  l.filter urgent ++
    m.qosRounds l.length ((List.range 4).map fun k => rest.filter fun h => (dramClass h.mst).getD 3 == k)

/-- The held access is a write that finds no room in the buffer of mirrored data (R424). -/
def Mach.heldFull (m : Mach) (h : HeldAccess) : Bool := h.data.isSome && m.mirrorFull h.mst h.parts

/-- Perform held accesses in order, up to the first of each master that cannot go yet: one at a register (R73),
or a mirrored write for which there is no room. -/
def Mach.heldRun (m : Mach) (stuck : List Nat) : List HeldAccess → Mach
  | [] => m
  | h :: r =>
    if h.atRegs || stuck.contains h.mst || m.heldFull h then
      (m.heldRun (h.mst :: stuck) r).updDram fun d => { d with held := h :: d.held }
    else (m.heldPerform h).heldRun stuck r

/-- Perform the memory accesses the controller has held, in the order of service. -/
def Mach.releaseHeld (m : Mach) : Mach :=
  (m.updDram fun d => { d with held := [] }).heldRun [] (m.qosOrder m.dram.held)

/-- An access to DRAM that protection has allowed restarts IDLE_DELAY (R42) and, of a master that does not
wait, ends Idle; what waits goes first (R43). One that is denied does neither (log entry 21). -/
def Mach.awake (m : Mach) (ok : List (Nat × Nat)) : Mach :=
  if inDramParts ok && !m.frozen then
    if m.is Fld.SYS_PWR_STATUS_STATE then m.dramUsed.dramWake.releaseHeld else m.dramUsed
  else m

/-- A memory read by a block of the module, as DRAM traffic of a class. While the controller holds accesses,
its data are those that it returns once they are released (log entry 21). -/
def Mach.memReadAs (m : Mach) (mst : Nat) (cls : Option Nat) (a n : Nat) : Mach × List Byte :=
  let p := m.memAllowed mst false (partsOf a n)
  let q := (p.1.awake p.2).readAllowed mst cls a n p.2
  (q.1, if q.1.dramHolds && inDramParts p.2 then q.1.heldOver a q.2 else q.2)

/-- A memory read by a block of the module. -/
def Mach.memRead (m : Mach) (mst a n : Nat) : Mach × List Byte := m.memReadAs mst (dramClass mst) a n

/-- Hold an access (R43, R73, R361, R365, R424). -/
def Mach.holdAccess (m : Mach) (mst a len : Nat) (data : Option (List Byte)) (r : Reply)
    (parts : List (Nat × Nat)) (ring : List (List Byte) := []) : Mach :=
  m.newAccess.2.updDram fun d =>
    { d with held := d.held ++ [⟨m.newAccess.1, mst, a, len, data, r, parts, ring⟩] }

/-- A memory write by a block of the module: held while the controller holds new accesses (R365), except that
it ends Idle, and while it finds no room to be mirrored (R424). -/
def Mach.memWrite (m : Mach) (mst a : Nat) (data : List Byte) : Mach :=
  let p := m.writeChecked mst a data.length
  if p.2.isEmpty then p.1
  else
    let q := p.1.awake p.2
    if inDramParts p.2 && q.dramHolds || q.mirrorFull mst p.2 then q.holdAccess mst a data.length (some data) .data p.2
    else q.writeAllowed mst a data p.2

/-! ### Accesses whose bytes the spec leaves open -/

/-- Words of DRAM in error that a range touches. -/
def Mach.flipsIn (m : Mach) (a n : Nat) : List (Nat × Nat) :=
  (m.flips.filter fun e => decide (a / 8 * 8 ≤ e.1 ∧ e.1 < a + n)).map fun e => (e.1, 8)

/-- What parts of a read from DRAM report: the errors that they meet; whether the read was ended. -/
def Mach.dramScan (m : Mach) (mst : Nat) : List (Nat × Nat) → Mach × Bool
  | [] => (m, false)
  | (a, n) :: r =>
    if m.freezing then (m, true)
    else
      let q := m.dramWords mst 0 (m.flipsIn a n)
      if q.2.isNone then (q.1, true)
      else (q.1.dramSampled (dramClass mst) (lineParts a n).length).dramScan mst r

/-- A memory read by a block whose data the model has no use for: its checks and its reports. -/
def Mach.memScan (m : Mach) (mst a n : Nat) : Mach :=
  let p := m.memAllowed mst false (partsOf a n)
  let m := p.1.awake p.2
  if inDramParts p.2 then
    let q := m.dramScan mst p.2
    if q.2 then q.1.dramEnded else q.1
  else (m.readAllowed mst (dramClass mst) a n p.2).1

/-- Reads by a block within `[a, a + n)` at places that the spec leaves open: where something would be reported,
a free value says for each 64 KiB unit whether it is read (log entry 15). -/
def Mach.readSomewhere (m : Mach) (mst a n : Nat) : Mach :=
  let parts := partsOf a n
  if parts.all (fun p => (m.memDenied mst p.1 false).isNone) && (m.flipsIn a n).isEmpty then
    let m := m.awake parts
    if inDramParts parts && m.freezing then m.dramEnded else m
  else parts.foldl (fun m p =>
    let f := m.free
    if f.1.getLsbD 0 then f.2.memScan mst p.1 p.2 else f.2) m

/-- Free bytes from an address on (log entry 3). -/
def freeCells (mem : List Host.Cell) (a count : Nat) : Nat → List Host.Cell
  | 0 => mem
  | n + 1 => freeCells (memSet mem a ((Config.freeValue count).setWidth 8)) (a + 1) (count + 1) n

/-- Parts of DRAM are stored with free bytes: their errors go, and an armed injection is met (R399). -/
def Mach.storeFree (m : Mach) : List (Nat × Nat) → Mach
  | [] => m
  | (a, n) :: r =>
    let m := { m with
      mem := freeCells m.mem a m.freeCount n
      flips := match m.repair.inject with
        | some i => m.flips.filter fun e => decide (e.1 < a ∨ a + n ≤ e.1 ∨ e.1 = i.key)
        | none => m.flips.filter fun e => decide (e.1 < a ∨ a + n ≤ e.1)
      freeCount := m.freeCount + n }
    let m := match m.repair.inject with
      | some i => if a ≤ i.key ∧ i.key < a + n then m.wordWritten i.key else m
      | none => m
    m.storeFree r

/-- A write by a block, at 64-byte lines, of bytes whose form the spec does not give: its checks, its reports,
and free bytes (log entry 15). -/
def Mach.writeOpen (m : Mach) (mst a n : Nat) : Mach :=
  let p := m.writeChecked mst a n
  if p.2.isEmpty then p.1
  else
    let m := p.1.awake p.2
    if p.2.all fun q => placeOf q.1 == .dram then
      if m.freezing then m.dramEnded else m.storeFree p.2
    else { m with freeCount := m.freeCount + n }.writeAllowed mst a
      ((List.range n).map fun i => (Config.freeValue (m.freeCount + i)).setWidth 8) p.2

/-- An earlier access of the host waits, and so must a later one (R73). -/
def Mach.hostWaits (m : Mach) (mst : Nat) : Bool :=
  hostOrdered mst && m.dram.held.any fun h => h.mst == mst

/-- An access that passed its checks must wait: for the controller, behind the host's earlier one, or for room
to be mirrored. -/
def Mach.mustHold (m : Mach) (mst : Nat) (write : Bool) (ok : List (Nat × Nat)) : Bool :=
  (inDramParts ok && m.dramHolds) || m.hostWaits mst || write && m.mirrorFull mst ok

/-- A memory access that a master issues: held while DRAM cannot serve it or behind an earlier one of the host,
else performed; a read returns its data. It is checked once, at its issue (R259, R406, R409). -/
def Mach.memAccess (m : Mach) (mst a len : Nat) (data : Option (List Byte)) (r : Reply) : Mach :=
  let p := match data with
    | some d => m.writeChecked mst a d.length
    | none => m.memAllowed mst false (partsOf a len)
  let used := if inDramParts p.2 && !p.1.frozen then p.1.dramUsed else p.1
  if data.isSome && p.2.isEmpty then p.1
  else if p.1.mustHold mst data.isSome p.2 then used.holdAccess mst a len data r p.2
  else match data with
    | some d => used.writeAllowed mst a d p.2
    | none =>
      let q := used.readAllowed mst (dramClass mst) a len p.2
      q.1.replyRead mst q.2 r

end Sys2Proof.Machine
end

