-- ==== Sys2Proof/Machine/SeqTypes.lean ====
section
/-! DEFINITION. The instructions of an Obven sequencer (R106 to R109), as decoded. -/

namespace Sys2Proof.Machine

/-- Register to register operations, opcode 0x01, by fn in this order (R108). -/
inductive AluOp
  | add | sub | and | or | xor | shl | shr | sra | mul | mulh | min | max | slt | sltu
  deriving DecidableEq, Repr

/-- Immediate operations, opcodes 0x02 to 0x05. -/
inductive ImmOp
  | addi | andi | ori | xori
  deriving DecidableEq, Repr

/-- Immediate shifts, opcodes 0x06 to 0x08. -/
inductive ShiftOp
  | shli | shri | srai
  deriving DecidableEq, Repr

/-- Branches, opcodes 0x10 to 0x15. -/
inductive BranchOp
  | beq | bne | blt | bge | bltu | bgeu
  deriving DecidableEq, Repr

/-- The byte counts `crc` accepts (R130). -/
inductive CrcLen
  | one | two | four
  deriving DecidableEq, Repr

/-- A decoded instruction. -/
inductive SeqOp
  | alu (f : AluOp) (rd ra rb : BitVec 5)
  | imm (f : ImmOp) (rd ra : BitVec 5) (i : BitVec 16)
  | shift (f : ShiftOp) (rd ra amount : BitVec 5)
  | lui (rd : BitVec 5) (i : BitVec 16)
  | ld (rd ra : BitVec 5) (i : BitVec 16)
  | st (rd ra : BitVec 5) (i : BitVec 16)
  | setw (sel ra : BitVec 5) (i : BitVec 16)
  | ldr (rd ra : BitVec 5) (i : BitVec 16)
  | str (rd ra : BitVec 5) (i : BitVec 16)
  | branch (f : BranchOp) (ra rb : BitVec 5) (off : BitVec 16)
  | jal (rd : BitVec 5) (off : BitVec 21)
  | jr (ra : BitVec 5)
  | wline (sel ra : BitVec 5) (i : BitVec 16)
  | wtime (dom k : BitVec 5)
  | wevt (rd ra : BitVec 5) (i : BitVec 16)
  | wcyc (ra : BitVec 5) (i : BitVec 16)
  | post (ra : BitVec 5) (i : BitVec 16)
  | cmt (rd : BitVec 5) (win : BitVec 2) (ra : BitVec 5)
  | job (rd ra : BitVec 5) (slot queue : BitVec 8)
  | fprot
  | crc (n : CrcLen) (ra rb : BitVec 5)
  | rdt (rd : BitVec 5) (dom : BitVec 8)
  | halt
  | nop
  | brk (i : BitVec 16)
  deriving DecidableEq, Repr

end Sys2Proof.Machine
end

