-- ==== Sys2Proof/Machine/SeqDecode.lean ====
section
/-! DEFINITION. The instruction words of a sequencer (R106 to R109): the encoder and the decoder,
each written from the format and opcode tables. -/

namespace Sys2Proof.Machine

/-! ### Encoding -/

/-- Formats A, I, B, J, W and X as sums of their fields (R106). -/
def wordA (op d a b fn : Nat) : Word :=
  BitVec.ofNat 32 (op * 2 ^ 26 + d * 2 ^ 21 + a * 2 ^ 16 + b * 2 ^ 11 + fn)
def wordI (op d a i : Nat) : Word :=
  BitVec.ofNat 32 (op * 2 ^ 26 + d * 2 ^ 21 + a * 2 ^ 16 + i)
def wordJ (op d off : Nat) : Word := BitVec.ofNat 32 (op * 2 ^ 26 + d * 2 ^ 21 + off)

def AluOp.fn : AluOp → Nat
  | .add => 0 | .sub => 1 | .and => 2 | .or => 3 | .xor => 4 | .shl => 5 | .shr => 6 | .sra => 7
  | .mul => 8 | .mulh => 9 | .min => 10 | .max => 11 | .slt => 12 | .sltu => 13

def ImmOp.opcode : ImmOp → Nat
  | .addi => 0x02 | .andi => 0x03 | .ori => 0x04 | .xori => 0x05

def ShiftOp.opcode : ShiftOp → Nat
  | .shli => 0x06 | .shri => 0x07 | .srai => 0x08

def BranchOp.opcode : BranchOp → Nat
  | .beq => 0x10 | .bne => 0x11 | .blt => 0x12 | .bge => 0x13 | .bltu => 0x14 | .bgeu => 0x15

def CrcLen.bytes : CrcLen → Nat
  | .one => 1 | .two => 2 | .four => 4

/-- The word of an instruction (R108, R109). -/
def SeqOp.encode : SeqOp → Word
  | .alu f rd ra rb => wordA 0x01 rd.toNat ra.toNat rb.toNat f.fn
  | .imm f rd ra i => wordI f.opcode rd.toNat ra.toNat i.toNat
  | .shift f rd ra n => wordI f.opcode rd.toNat ra.toNat n.toNat
  | .lui rd i => wordI 0x09 rd.toNat 0 i.toNat
  | .ld rd ra i => wordI 0x0A rd.toNat ra.toNat i.toNat
  | .st rd ra i => wordI 0x0B rd.toNat ra.toNat i.toNat
  | .setw sel ra i => wordI 0x0C sel.toNat ra.toNat i.toNat
  | .ldr rd ra i => wordI 0x0D rd.toNat ra.toNat i.toNat
  | .str rd ra i => wordI 0x0E rd.toNat ra.toNat i.toNat
  | .branch f ra rb off => wordI f.opcode ra.toNat rb.toNat off.toNat
  | .jal rd off => wordJ 0x16 rd.toNat off.toNat
  | .jr ra => wordA 0x17 0 ra.toNat 0 0
  | .wline sel ra i => wordI 0x18 sel.toNat ra.toNat i.toNat
  | .wtime dom k => wordI 0x19 dom.toNat k.toNat 0
  | .wevt rd ra i => wordI 0x1A rd.toNat ra.toNat i.toNat
  | .wcyc ra i => wordI 0x1B 0 ra.toNat i.toNat
  | .post ra i => wordI 0x20 0 ra.toNat i.toNat
  | .cmt rd win ra => wordI 0x21 rd.toNat ra.toNat (win.toNat * 2 ^ 14)
  | .job rd ra slot queue => wordI 0x22 rd.toNat ra.toNat (slot.toNat * 2 ^ 8 + queue.toNat)
  | .fprot => wordA 0x23 0 0 0 0
  | .crc n ra rb => wordA 0x24 n.bytes ra.toNat rb.toNat 0
  | .rdt rd dom => wordI 0x25 rd.toNat 0 dom.toNat
  | .halt => wordA 0x26 0 0 0 0
  | .nop => wordA 0x27 0 0 0 0
  | .brk i => wordI 0x28 0 0 i.toNat

/-! ### Decoding -/

def aluOf : Nat → Option AluOp
  | 0 => some .add | 1 => some .sub | 2 => some .and | 3 => some .or | 4 => some .xor
  | 5 => some .shl | 6 => some .shr | 7 => some .sra | 8 => some .mul | 9 => some .mulh
  | 10 => some .min | 11 => some .max | 12 => some .slt | 13 => some .sltu
  | _ => none

def crcOf : Nat → Option CrcLen
  | 1 => some .one | 2 => some .two | 4 => some .four
  | _ => none

/-- A decoded instruction when the fields it does not use are zero (R107). -/
def whenZero (unused : Nat) (o : SeqOp) : Option SeqOp := if unused = 0 then some o else none

/-- The instruction of a word; none for a reserved opcode, an undefined fn or a non-zero unused
field (R107). -/
def seqDecode (w : Word) : Option SeqOp :=
  let x := w.toNat
  let d := BitVec.ofNat 5 (x / 2 ^ 21)
  let a := BitVec.ofNat 5 (x / 2 ^ 16)
  let b := BitVec.ofNat 5 (x / 2 ^ 11)
  let fn := x % 2 ^ 11
  let i := BitVec.ofNat 16 x
  let dn := x / 2 ^ 21 % 2 ^ 5
  let an := x / 2 ^ 16 % 2 ^ 5
  let bn := x / 2 ^ 11 % 2 ^ 5
  let imm := x % 2 ^ 16
  match x / 2 ^ 26 with
  | 0x01 => (aluOf fn).map fun f => .alu f d a b
  | 0x02 => some (.imm .addi d a i)
  | 0x03 => some (.imm .andi d a i)
  | 0x04 => some (.imm .ori d a i)
  | 0x05 => some (.imm .xori d a i)
  | 0x06 => whenZero (imm / 2 ^ 5) (.shift .shli d a (BitVec.ofNat 5 x))
  | 0x07 => whenZero (imm / 2 ^ 5) (.shift .shri d a (BitVec.ofNat 5 x))
  | 0x08 => whenZero (imm / 2 ^ 5) (.shift .srai d a (BitVec.ofNat 5 x))
  | 0x09 => whenZero an (.lui d i)
  | 0x0A => some (.ld d a i)
  | 0x0B => some (.st d a i)
  | 0x0C => some (.setw d a i)
  | 0x0D => some (.ldr d a i)
  | 0x0E => some (.str d a i)
  | 0x10 => some (.branch .beq d a i)
  | 0x11 => some (.branch .bne d a i)
  | 0x12 => some (.branch .blt d a i)
  | 0x13 => some (.branch .bge d a i)
  | 0x14 => some (.branch .bltu d a i)
  | 0x15 => some (.branch .bgeu d a i)
  | 0x16 => some (.jal d (BitVec.ofNat 21 x))
  | 0x17 => whenZero (dn + bn + fn) (.jr a)
  | 0x18 => some (.wline d a i)
  | 0x19 => whenZero imm (.wtime d a)
  | 0x1A => some (.wevt d a i)
  | 0x1B => whenZero dn (.wcyc a i)
  | 0x20 => whenZero dn (.post a i)
  | 0x21 => whenZero (imm % 2 ^ 14) (.cmt d (BitVec.ofNat 2 (imm / 2 ^ 14)) a)
  | 0x22 => some (.job d a (BitVec.ofNat 8 (imm / 2 ^ 8)) (BitVec.ofNat 8 imm))
  | 0x23 => whenZero (dn + an + bn + fn) .fprot
  | 0x24 => (crcOf dn).bind fun n => whenZero fn (.crc n a b)
  | 0x25 => whenZero (an + imm / 2 ^ 8) (.rdt d (BitVec.ofNat 8 imm))
  | 0x26 => whenZero (dn + an + bn + fn) .halt
  | 0x27 => whenZero (dn + an + bn + fn) .nop
  | 0x28 => whenZero (dn + an) (.brk i)
  | _ => none

end Sys2Proof.Machine
end

