-- ==== Sys2Proof/Machine/TimeOps.lean ====
section
/-! DEFINITION. The time counter and its views, the domain trackers and the DPLL (R327 to R351,
R489). Times are whole numbers of 2^-28 ns. -/

namespace Sys2Proof.Machine

/-! ### Units -/

/-- One ns, one s and the span of the counter in units of 2^-28 ns (R327). -/
def unitNs : Nat := 2 ^ 28
def unitSec : Nat := 1000000000 * unitNs
def timeSpan : Nat := 2 ^ 48 * unitSec

def secOf (t : Nat) : Nat := t / unitSec
def nsOf (t : Nat) : Nat := t % unitSec / unitNs
/-- The visible fraction: the top 16 bits of the internal 28 (R327). -/
def fracOf (t : Nat) : Nat := t % unitNs / 2 ^ 12

/-- A time from seconds, nanoseconds and the visible fraction. -/
def timeOf (sec ns frac : Nat) : Nat := sec * unitSec + ns * unitNs + frac * 2 ^ 12

/-- A signed amount of the register form: signed 48-bit seconds, nanoseconds, fraction (R332). -/
def errOf (sec ns frac : Nat) : Int :=
  signedOf 48 sec * (unitSec : Int) + (ns * unitNs + frac * 2 ^ 12 : Nat)

/-- A time modulo the span of the counter. -/
def wrapTime (t : Int) : Nat := (t % (timeSpan : Int)).toNat

/-- A signed number held in 32 bits, saturating. -/
def sat32 (x : Int) : Nat := twosOf 32 (max (-0x80000000) (min 0x7FFFFFFF x))

/-- A rational number of a register's units: exact where it is whole (log entry 7). -/
def wholeOf (x : Rat) : Int := x.floor + if x.den ≠ 1 ∧ Config.roundsUp x = true then 1 else 0

/-- An amount of 2^-28 ns in ns. -/
def toNs (x : Int) : Int := wholeOf ((x : Rat) / (unitNs : Rat))

def clampRat (lo hi x : Rat) : Rat := if x < lo then lo else if hi < x then hi else x

def absInt (x : Int) : Nat := x.natAbs

/-! ### State codes (R334) -/

def stateCode : DomState → Nat
  | .freeRun => 0 | .acquiring => 1 | .locked => 2 | .holdover => 3 | .lost => 4

/-- Rank from best to worst (R336). -/
def stateRank : DomState → Nat
  | .locked => 0 | .holdover => 1 | .acquiring => 2 | .lost => 3 | .freeRun => 4

def worseState (a b : DomState) : DomState := if stateRank a < stateRank b then b else a

/-! ### Access to the two domains -/

def Time.dom (t : Time) (d : Nat) : Domain := if d = 0 then t.domA else t.domB

def Time.setDom (t : Time) (d : Nat) (x : Domain) : Time :=
  if d = 0 then { t with domA := x } else { t with domB := x }

def Mach.dom (m : Mach) (d : Nat) : Domain := m.time.dom d

def Mach.setDom (m : Mach) (d : Nat) (x : Domain) : Mach := { m with time := m.time.setDom d x }

def Mach.updDom (m : Mach) (d : Nat) (f : Domain → Domain) : Mach := m.setDom d (f (m.dom d))

def Mach.updDpll (m : Mach) (f : Dpll → Dpll) : Mach := { m with dpll := f m.dpll }

/-! ### Views (R327, R331) -/

/-- LOCAL. -/
def Mach.now (m : Mach) : Nat := m.time.now

/-- The time of view 0 LOCAL, 1 PTP_A, 2 PTP_B. -/
def Mach.view (m : Mach) (v : Nat) : Nat :=
  if v = 1 then wrapTime (m.now + m.time.domA.ofs)
  else if v = 2 then wrapTime (m.now + m.time.domB.ofs)
  else m.now

/-- The frequency output of the DPLL (R345): the loop on an active input; FREQ_MANUAL in FREE_RUN;
held otherwise. It stays within 10 ppm and SLOPE (R328). -/
def Mach.dpllF (m : Mach) : Rat :=
  let lim : Rat := 10 / 1000000 + (m.get Fld.DPLL_SLOPE_SLOPE : Rat) / 1000000000
  let f : Rat :=
    if m.dpll.active.isSome then m.dpll.trk.integ + m.dpll.trk.pull
    else if m.dpll.st = .freeRun then
      (signedOf 32 (m.get Fld.DPLL_FREQ_MANUAL_F) : Rat) / 1000000000000
    else m.dpll.held
  clampRat (-lim) lim f

/-- TIME.INCR (R328). -/
def Mach.incr (m : Mach) : Nat := ((1 + m.dpllF) * (2 ^ 30 : Nat) + 1 / 2).floor.toNat

/-- The rate of a view relative to LOCAL (R331, R335). -/
def Mach.domRate (m : Mach) (d : Nat) : Rat :=
  if m.dpll.active = some d then 0 else (m.dom d).trk.integ + (m.dom d).trk.pull

/-- DOMd_CFG.TIMEOUT in ticks. -/
def Mach.domTimeoutTicks (m : Mach) (d : Nat) : Nat :=
  max 1 (m.get (Fld.TIME_DOM_CFG_TIMEOUT d)) * 25000000

/-- A domain's own state: the DPLL's while the domain is its active input, else its tracker's (R335). -/
def Mach.domOwn (m : Mach) (d : Nat) : DomState :=
  if m.dpll.active = some d then m.dpll.st else (m.dom d).st

/-- The state a domain reports (R335, R336): with SRC = CHAIN the worse of its own and the upstream one,
for as long as a message has arrived within TIMEOUT. -/
def Mach.domReport (m : Mach) (d : Nat) : DomState :=
  if m.dpll.active = some d then m.dpll.st
  else match m.is (Fld.TIME_DOM_CFG_SRC d), (m.dom d).upState with
    | true, some u =>
      if m.time.ticks < u.1 + m.domTimeoutTicks d then worseState u.2 (m.dom d).st else (m.dom d).st
    | _, _ => (m.dom d).st

/-! ### Steps (R329, R332, R346, R349) -/

/-- Report a step: the event, STEPPED, and the first capture. -/
def Mach.stepReport (m : Mach) (target cause : Nat) (size : Int) : Mach :=
  let m := m.put Fld.TIME_STATUS_STEPPED 1
  let m := if m.is Fld.TIME_STEP_INFO_VALID then m
    else
      let z := twosOf 64 (toNs size)
      let m := m.put Fld.TIME_STEP_INFO_VALID 1
      let m := m.put Fld.TIME_STEP_INFO_TARGET target
      let m := m.put Fld.TIME_STEP_INFO_CAUSE cause
      let m := m.put Fld.TIME_STEP_SIZE_LO_SIZE_LO z
      m.put Fld.TIME_STEP_SIZE_HI_SIZE_HI (z / 2 ^ 32)
  m.raise evTimeStep

/-- Move LOCAL by an amount; the domain offsets take it up, so the views stay (R329). -/
def Mach.moveLocal (m : Mach) (s : Int) : Mach :=
  { m with time := { m.time with
      now := wrapTime (m.now + s)
      domA := { m.time.domA with ofs := m.time.domA.ofs - s }
      domB := { m.time.domB with ofs := m.time.domB.ofs - s } } }

/-- Move a view by an amount. -/
def Mach.moveView (m : Mach) (d : Nat) (s : Int) : Mach :=
  m.updDom d fun x => { x with ofs := x.ofs + s }

def Mach.stepLocal (m : Mach) (cause : Nat) (s : Int) : Mach :=
  (m.moveLocal s).stepReport 0 cause s

def Mach.stepView (m : Mach) (d cause : Nat) (s : Int) : Mach :=
  (m.moveView d s).stepReport (d + 1) cause s

/-! ### Trackers (R333) -/

/-- Mean interval of the history in seconds, once it holds two samples. -/
def Tracker.ts (t : Tracker) : Option Rat :=
  match t.hist with
  | a :: b :: r =>
    some (((a - (b :: r).getLastD a : Nat) : Rat) * 4 / 1000000000 / ((r.length + 1 : Nat) : Rat))
  | _ => none

/-- The loop's step on a sample (R333): `bw` in Hz, `slope` in ns/s, `e` in 2^-28 ns. -/
def Tracker.sample (t : Tracker) (tick : Nat) (bw slope : Rat) (e : Int) : Tracker :=
  let t := { t with hist := (tick :: t.hist).take 17 }
  let es : Rat := (e : Rat) / (unitSec : Rat)
  let lim := slope / 1000000000
  match t.ts with
  | none =>
    { t with pull := clampRat (-lim) lim (2 * (2 * Config.pi * bw) * es) }
  | some ts =>
    let bwEff := if ts = 0 then bw else min bw (1 / (20 * ts))
    let wn := 2 * Config.pi * bwEff
    { t with
      integ := clampRat (-(1 / 100000)) (1 / 100000) (t.integ + wn * wn * es * ts)
      pull := clampRat (-lim) lim (2 * wn * es) }

def Mach.slope (m : Mach) : Rat := (m.get Fld.DPLL_SLOPE_SLOPE : Rat)

/-! ### States -/

/-- Change a domain's own state (R334): entering HOLDOVER or LOST sets pull to 0, entering FREE_RUN
or LOST clears the history; a change raises the domain's event. -/
def Mach.setDomState (m : Mach) (d : Nat) (st : DomState) : Mach :=
  if (m.dom d).st = st then m else
  let m := m.updDom d fun x =>
    { x with
      st := st
      lockRun := 0
      outlierRun := 0
      trk := { x.trk with
        pull := if st = .holdover ∨ st = .lost then 0 else x.trk.pull
        hist := if st = .freeRun ∨ st = .lost then [] else x.trk.hist } }
  m.raise (evDomState d)

/-- The mean of the frequency term over the last HOLD_AVG seconds in LOCKED (R348). -/
def integMean (now window : Nat) : List (Nat × Rat) → Rat
  | [] => 0
  | log =>
    let start := max (now - window) ((log.getLastD (now, 0)).1)
    let rec area (hi : Nat) : List (Nat × Rat) → Rat
      | [] => 0
      | (t, v) :: r =>
        let lo := max t start
        (if lo < hi then ((hi - lo : Nat) : Rat) * v else 0) + area (min hi lo) r
    if now ≤ start then (log.headD (0, 0)).2
    else area now log / ((now - start : Nat) : Rat)

/-- The DPLL takes a state, and what it holds follows (R347, R348). -/
def Mach.dpllInto (m : Mach) (st : DomState) : Mach :=
  if m.dpll.st = st then m else
  let was := m.dpll.st
  let f := m.dpllF
  let tick := m.time.ticks
  let avg := m.get Fld.DPLL_HOLD_HOLD_AVG * 250000000
  let m := m.updDpll fun x =>
    let held := if was = .locked ∧ st = .holdover then integMean tick avg x.integLog
      else if was = .holdover then x.held else f
    { x with
      st := st
      held := held
      lockRun := 0
      farRun := 0
      trk := if st = .holdover then { x.trk with integ := held, pull := 0 } else x.trk
      integLog := if st = .locked then [(tick, x.trk.integ)] else [] }
  m.raise evDpllState

/-- The events of the domains whose own state is not what it was (R334, R335). -/
def Mach.domEvents (m was : Mach) : Mach :=
  let m := m.raiseIf (was.domOwn 0 != m.domOwn 0) (evDomState 0)
  m.raiseIf (was.domOwn 1 != m.domOwn 1) (evDomState 1)

/-- Change the DPLL's state; the domain that is its active input changes with it (R335). -/
def Mach.setDpllState (m : Mach) (st : DomState) : Mach := (m.dpllInto st).domEvents m

/-! ### Selection (R337, R344) -/

/-- Entry i of the priority list. -/
def Mach.prioEntry (m : Mach) (i : Nat) : Nat :=
  if i < 8 then bitsOf (m.get Fld.DPLL_PRIO0_ENTRIES) (4 * i) 4
  else bitsOf (m.get Fld.DPLL_PRIO1_ENTRIES) (4 * (i - 8)) 4

/-- An entry of the list that may be selected: valid, qualified and allowed. -/
def Mach.inputUsable (m : Mach) (k : Nat) : Bool :=
  k < 10 && m.dpll.valid.contains k && m.dpll.qualified.contains k && m.is (Fld.DPLL_IN_CFG_ALLOW k)

/-- The first usable entry of PRIO0 and PRIO1. -/
def Mach.bestInput (m : Mach) : Option Nat :=
  ((List.range 10).map m.prioEntry).find? m.inputUsable

/-- An entry of PRIO0 and PRIO1 names the input. -/
def Mach.inputListed (m : Mach) (k : Nat) : Bool := (List.range 10).any fun i => m.prioEntry i == k

/-- The input that should be active (R344): in AUTO the present one stays while it may be selected, unless REVERT
gives way to a better entry. -/
def Mach.wantedInput (m : Mach) : Option Nat :=
  if !m.is Fld.DPLL_CTRL_EN then none
  else if !m.is Fld.DPLL_CTRL_MODE then
    let k := m.get Fld.DPLL_CTRL_SEL
    if k < 10 && m.dpll.valid.contains k then some k else none
  else match m.dpll.active with
    | some a =>
      if m.inputUsable a && m.inputListed a && !m.is Fld.DPLL_CTRL_REVERT then some a else m.bestInput
    | none => m.bestInput

/-- The DPLL's state once it has lost its input (R347). -/
def stateLeft : DomState → DomState
  | .acquiring => .lost
  | .locked => .holdover
  | st => st

/-- A domain's tracker runs (R335, R337, R350). -/
def Mach.domRuns (m : Mach) (d : Nat) : Bool :=
  m.is (Fld.TIME_DOM_CFG_EN d) || m.domOwn d != .freeRun

/-- Change the active input (R335, R337, R347); `left` is the DPLL's state where it has none then. A loop that had
no input goes on from the frequency that the DPLL gave, so that neither view changes rate (log entry 25). -/
def Mach.setActive (m : Mach) (new : Option Nat) (left : DomState) : Mach :=
  if m.dpll.active = new then m else
  let was := m
  let old := m.dpll.active
  let st := m.dpll.st
  -- the rate of the new input's tracker moves into the DPLL's frequency term
  let dr : Rat := match new with
    | some d => if d < 2 then (m.dom d).trk.integ + (m.dom d).trk.pull else 0
    | none => 0
  -- the domain that stops being the input keeps the state it reported; its own run toward LOCKED starts anew
  let keepOld (d : Nat) (x : Domain) : Domain :=
    if old = some d then { x with st := st, lockRun := 0, trk := { x.trk with integ := 0, pull := 0 } } else x
  let shift (d : Nat) (x : Domain) : Domain :=
    if new = some d then { x with trk := { x.trk with integ := 0, pull := 0 } }
    else if was.domRuns d then { x with trk := { x.trk with integ := x.trk.integ - dr } } else x
  let m := m.updDom 0 fun x => shift 0 (keepOld 0 x)
  let m := m.updDom 1 fun x => shift 1 (keepOld 1 x)
  let m := if new.isNone then m.dpllInto left else m
  let m := m.updDpll fun x =>
    { x with active := new, firstSample := true, freqBase := none
             -- an input lost before its first sample leaves f as it stood
             held := if new.isNone ∧ left = st then was.dpllF else x.held
             trk := if old.isNone then { integ := was.dpllF + dr, pull := 0, hist := [] }
               else { x.trk with integ := x.trk.integ + dr, hist := [] }
             integLog := if x.st = .locked then (m.time.ticks, x.trk.integ + dr) :: x.integLog
               else x.integLog }
  let m := if new.isSome && (m.dpll.st == .freeRun || m.dpll.st == .lost)
    then m.dpllInto .acquiring else m
  ((m.domEvents was).put Fld.DPLL_STATUS_SWITCHED 1).raise evDpllSwitch

/-- A domain that the DPLL has left, and whose last accepted sample is older than TIMEOUT, moves on
the same tick (R335). -/
def Mach.domAged (m : Mach) (d : Nat) : Bool :=
  match (m.dom d).lastAcc with
  | some t => decide (m.domTimeoutTicks d ≤ m.time.ticks - t)
  | none => true

def Mach.domTimeout (m : Mach) (d : Nat) : Mach :=
  match (m.dom d).st with
  | .locked => m.setDomState d .holdover
  | .acquiring => m.setDomState d .lost
  | _ => m

/-- Change the active input, and the state of the domain left where its samples have stopped (R335). -/
def Mach.changeInput (m : Mach) (new : Option Nat) (left : DomState) : Mach :=
  let old := m.dpll.active
  let m := m.setActive new left
  match old with
  | some d =>
    if d < 2 ∧ m.dpll.active ≠ some d ∧ m.domAged d = true then m.domTimeout d else m
  | none => m

/-- Select again after something selection depends on has changed. -/
def Mach.reselect (m : Mach) : Mach := m.changeInput m.wantedInput (stateLeft m.dpll.st)

/-- CTRL.EN of the DPLL written 0: no input is active, a loop that ran is in FREE_RUN, and the total of LOCAL
is cleared (R344, R347, R489). -/
def Mach.dpllDisable (m : Mach) : Mach :=
  let left := if m.dpll.st = .acquiring ∨ m.dpll.st = .locked then .freeRun else m.dpll.st
  ((m.changeInput none left).setDpllState left).updDpll fun x => { x with applied := 0 }

/-- Set an input's validity (R343): a change raises EV_DPLL_INPUT and may change the active input. -/
def Mach.setValid (m : Mach) (k : Nat) (v : Bool) : Mach :=
  if m.dpll.valid.contains k = v then m else
  let m := m.updDpll fun x =>
    { x with valid := if v then insertNat x.valid k else x.valid.filter (· ≠ k)
             qualified := x.qualified.filter (· ≠ k) }
  (m.raise evDpllInput).reselect

/-- A clock input's measured offset from nominal lies within INTOL (R343). -/
def Mach.inputNear (m : Mach) (k : Nat) : Bool :=
  decide (absInt (tabGet 0 m.dpll.fofs k) ≤ m.get Fld.DPLL_QUAL_INTOL * 1000)

/-- Inputs whose frequency a new INTOL does not allow are invalid. -/
def Mach.inputsTested (m : Mach) : Mach :=
  forEach [2, 3, 4, 5, 6, 7, 8] m fun m k => if m.inputNear k then m else m.setValid k false

/-- Inputs 0 and 1 follow their domain (R343). -/
def Mach.domValidity (m : Mach) (d : Nat) (fresh : Bool) : Mach :=
  m.setValid d (fresh && m.is (Fld.TIME_DOM_CFG_EN d) && (m.domReport d != .freeRun))

/-! ### The DPLL's samples (R345 to R347) -/

/-- The input's phase is not used: only its frequency (R345). -/
def Mach.freqMode (m : Mach) (k : Nat) : Bool :=
  (2 ≤ k && k ≤ 4 && !m.is (Fld.DPLL_IN_CFG_PHASE_MODE k)) || (5 ≤ k && k ≤ 8)

/-- A sample of the active input `k` (R345 to R347, R489). -/
def Mach.dpllSample (m : Mach) (k : Nat) (raw : Int) : Mach :=
  let raw := if k = 9 ∨ (2 ≤ k ∧ k ≤ 4) then raw + m.dpll.applied else raw
  let base : Int := if m.freqMode k then ((m.dpll.freqBase.getD (raw : Rat)).floor) else 0
  let e := raw - base
  let m := m.updDpll fun x =>
    { x with freqBase := if m.freqMode k then some (base : Rat) else none }
  let m := m.put Fld.DPLL_PHASE_ERR_E (sat32 (toNs e))
  let thresh := m.get Fld.DPLL_LOCK_LOCK_THRESH * unitNs
  let near (x : Int) : Bool := decide (absInt x ≤ thresh)
  -- the first sample of a new input decides between LOCKED and ACQUIRING
  let m := if m.dpll.firstSample && (m.dpll.st == .locked || m.dpll.st == .holdover)
    then m.setDpllState (if m.freqMode k || near e then .locked else .acquiring) else m
  let m := m.updDpll fun x => { x with firstSample := false }
  let stepMin := m.get Fld.DPLL_QUAL_STEP_MIN * 1000000 * unitNs
  let steps := m.dpll.st == .acquiring && m.is Fld.DPLL_CTRL_STEP_EN && decide (stepMin ≤ absInt e) &&
    !m.freqMode k
  let m := if steps then (if k < 2 then m.stepView k 1 e else m.stepLocal 1 e) else m
  let e : Int := if steps then 0 else e
  let m := match m.dpll.st with
    | .acquiring =>
      let run := if near e then m.dpll.lockRun + 1 else 0
      if m.get Fld.DPLL_LOCK_LOCK_CNT ≤ run ∧ 0 < run then m.setDpllState .locked
      else m.updDpll fun x => { x with lockRun := run }
    | .locked =>
      let far := if 4 * thresh < absInt e then m.dpll.farRun + 1 else 0
      if 4 ≤ far then m.setDpllState .acquiring
      else m.updDpll fun x => { x with farRun := far }
    | _ => m
  let bw : Rat := if m.dpll.st = .acquiring then 30
    else (m.get Fld.DPLL_BW_TRACK_BW : Rat) / 100
  let trk := m.dpll.trk.sample m.time.ticks bw m.slope e
  m.updDpll fun x =>
    { x with trk := trk
             integLog := if x.st = .locked then (m.time.ticks, trk.integ) :: x.integLog
               else x.integLog }

/-! ### Domain samples (R332, R334, R335) -/

def Mach.domThresh (m : Mach) (d : Nat) : Nat := m.get (Fld.TIME_DOM_LOCK_LOCK_THRESH d) * unitNs

/-- Reject a sample (R332); an outlier counts toward leaving LOCKED (R334). -/
def Mach.domReject (m : Mach) (d : Nat) (outlier : Bool) : Mach :=
  let m := (m.count (Fld.TIME_DOM_CNT_REJECTED d)).raise evTimeReject
  if !outlier then m else
  let m := m.updDom d fun x => { x with outlierRun := x.outlierRun + 1 }
  if (m.dom d).outlierRun ≥ 4 ∧ (m.dom d).st = .locked ∧ m.dpll.active ≠ some d
  then m.setDomState d .acquiring else m

/-- An accepted sample's state change before any step (R332, R334). -/
def Mach.domEnter (m : Mach) (d : Nat) (e : Int) (stepsNow : Bool) : Mach :=
  match (m.dom d).st with
  | .freeRun | .lost => m.setDomState d .acquiring
  | .holdover =>
    if stepsNow || !decide (absInt e ≤ m.domThresh d) then m.setDomState d .acquiring
    else m.setDomState d .locked
  | _ => m

/-- Count toward LOCKED in ACQUIRING (R334). -/
def Mach.domLockRun (m : Mach) (d : Nat) (e : Int) : Mach :=
  if (m.dom d).st ≠ .acquiring then m else
  let run := if absInt e ≤ m.domThresh d then (m.dom d).lockRun + 1 else 0
  if max 1 (m.get (Fld.TIME_DOM_LOCK_LOCK_CNT d)) ≤ run then m.setDomState d .locked
  else m.updDom d fun x => { x with lockRun := run }

/-- Take an accepted sample of domain d, `e` after R489. -/
def Mach.domAccept (m : Mach) (d : Nat) (e : Int) : Mach :=
  let m := m.count (Fld.TIME_DOM_CNT_ACCEPTED d)
  let m := m.put (Fld.TIME_DOM_LAST_ERR_ERR d) (sat32 (toNs e))
  let m := m.updDom d fun x => { x with lastAcc := some m.time.ticks, outlierRun := 0 }
  let active := m.dpll.active == some d
  let st := m.domOwn d
  let stepMin := max 1 (m.get (Fld.TIME_DOM_LIMITS_STEP_MIN d)) * 1000000 * unitNs
  let steps := st != .locked && m.is (Fld.TIME_DOM_CFG_STEP_EN d) && decide (stepMin ≤ absInt e)
  let m := if active then (if steps && st == .holdover then m.setDpllState .acquiring else m)
    else m.domEnter d e steps
  let m := if steps then m.stepView d 2 e else m
  let e : Int := if steps then 0 else e
  let m := if active then m.dpllSample d e
    else
      let m := m.domLockRun d e
      let bw : Rat := if (m.dom d).st = .acquiring then 30
        else (m.get (Fld.TIME_DOM_BW_TRACK_BW d) : Rat) / 100
      m.updDom d fun x => { x with trk := x.trk.sample m.time.ticks bw m.slope e }
  m.domValidity d true

/-- A sample offered to domain d: from software or from the chain (R332, R336). -/
def Mach.domSample (m : Mach) (d : Nat) (fromChain badNs : Bool) (raw : Int) : Mach :=
  let e := raw + (m.dom d).applied
  let outlier := m.domOwn d == .locked &&
    decide (m.get (Fld.TIME_DOM_LIMITS_OUTLIER d) * 1000 * unitNs ≤ absInt e)
  if badNs || !m.is (Fld.TIME_DOM_CFG_EN d) || m.is (Fld.TIME_DOM_CFG_SRC d) != fromChain then
    m.domReject d false
  else if outlier then m.domReject d true
  else m.domAccept d e

/-- EN of a domain written 0 (R334, R489). -/
def Mach.domDisable (m : Mach) (d : Nat) : Mach :=
  let m := (m.domValidity d false).setDomState d .freeRun
  m.updDom d fun x =>
    { x with trk := .reset, applied := 0, lastAcc := none, upState := none, lockRun := 0, outlierRun := 0 }

/-! ### Ticks and slews (R327, R331, R349) -/

/-- Apply an amount PHASE_STEP asked for to its target and to the target's total (R489). -/
def Mach.applyPhase (m : Mach) (target : Nat) (q : Int) : Mach :=
  match target with
  | 0 => (m.moveLocal q).updDpll fun x => { x with applied := x.applied + q }
  | t + 1 => (m.moveView t q).updDom t fun x => { x with applied := x.applied + q }

/-- What a slew at a slope in ns/s has moved its target by in a number of ticks of 4 ns, in units of 2^-28 ns. -/
def slewUnits (slope ticks : Nat) : Nat :=
  (ticks * slope * 2 ^ 30 * 65536 + Config.slewPhase % 65536 * 1000000000) / (1000000000 * 65536)

/-- The part of a slew that one tick applies (R349). -/
def Mach.slewTick (m : Mach) : Mach :=
  if m.dpll.remain = 0 then m else
  let slope := m.get Fld.DPLL_SLOPE_SLOPE
  let q := min m.dpll.remain.natAbs (slewUnits slope (m.time.ticks + 1) - slewUnits slope m.time.ticks)
  let s : Int := if m.dpll.remain < 0 then -(q : Int) else q
  (m.applyPhase m.dpll.slewTarget s).updDpll fun x => { x with remain := x.remain - s }

/-- One TIME_CLK tick (R327, R331). -/
def Mach.tick (m : Mach) : Mach :=
  let incr := m.incr
  let ra := m.domRate 0
  let rb := m.domRate 1
  let m := { m with time := { m.time with
    ticks := m.time.ticks + 1
    prior := (m.domReport 0, m.domReport 1)
    now := (m.time.now + incr) % timeSpan
    domA := { m.time.domA with ofs := m.time.domA.ofs + wholeOf ((incr : Rat) * ra) }
    domB := { m.time.domB with ofs := m.time.domB.ofs + wholeOf ((incr : Rat) * rb) } } }
  m.slewTick

/-- Several ticks. -/
def Mach.tickN (m : Mach) : Nat → Mach
  | 0 => m
  | n + 1 => m.tick.tickN n

/-- A write of PHASE_STEP (R349, R489). TARGET 3 is ignored. -/
def Mach.phaseStep (m : Mach) (v : Word) : Mach :=
  let t := m.get Fld.DPLL_PHASE_CTRL_TARGET
  let s : Int := v.toInt * (unitNs : Int)
  if t = 3 then m
  else if m.is Fld.DPLL_PHASE_CTRL_MODE then
    m.updDpll fun x => { x with remain := x.remain + s, slewTarget := t, slewing := true }
  else (m.applyPhase t s).stepReport t 3 s

/-! ### What TIME and DPLL registers read (R328, R331, R343, R489) -/

/-- Sample one view into its SNAP registers (R330). -/
def Mach.snapView (m : Mach) (v : Nat) : Mach :=
  let t := m.view v
  let m := m.put (Fld.TIME_SNAP_SEC_LO_SEC_LO v) (secOf t)
  let m := m.put (Fld.TIME_SNAP_HI_FRAC v) (fracOf t)
  let m := m.put (Fld.TIME_SNAP_HI_SEC_HI v) (secOf t / 2 ^ 32)
  m.put (Fld.TIME_SNAP_NS_NS v) (nsOf t)

def Mach.snapAll (m : Mach) : Mach := forEach [0, 1, 2] m Mach.snapView

/-- One domain's status registers, as they read now. -/
def Mach.showDom (m : Mach) (d : Nat) : Mach :=
  let o := m.dom d |>.ofs
  let sec := o / (unitSec : Int)
  let rest := (o % (unitSec : Int)).toNat
  let s48 := twosOf 48 sec
  let m := m.put (Fld.TIME_DOM_RATE_RATE d) (twosOf 32 (wholeOf (m.domRate d * 1000000000000)))
  let m := m.put (Fld.TIME_DOM_OFS_SEC_LO_SEC_LO d) s48
  let m := m.put (Fld.TIME_DOM_OFS_HI_SEC_HI d) (s48 / 2 ^ 32)
  let m := m.put (Fld.TIME_DOM_OFS_HI_FRAC d) (fracOf rest)
  m.put (Fld.TIME_DOM_OFS_NS_NS d) (nsOf rest)

/-- The TIME registers that follow the counter. -/
def Mach.showTime (m : Mach) : Mach :=
  let m := m.put Fld.TIME_STATUS_STATE_A (stateCode (m.domReport 0))
  let m := m.put Fld.TIME_STATUS_STATE_B (stateCode (m.domReport 1))
  let m := m.put Fld.TIME_INCR_INCR m.incr
  (m.showDom 0).showDom 1

/-- The DPLL registers that follow the loop. -/
def Mach.showDpll (m : Mach) : Mach :=
  let m := m.put Fld.DPLL_STATUS_STATE (stateCode m.dpll.st)
  let m := m.put Fld.DPLL_STATUS_ACTIVE (m.dpll.active.getD 0xF)
  let m := m.put Fld.DPLL_STATUS_VALID (m.dpll.valid.foldl (fun a k => a + 2 ^ k) 0)
  let m := m.put Fld.DPLL_FREQ_F (twosOf 32 (wholeOf (m.dpllF * 1000000000000)))
  let m := m.put Fld.DPLL_PHASE_REMAIN_R (sat32 (toNs m.dpll.remain))
  let m := m.put (Fld.DPLL_PHASE_APPLIED_TOTAL 0) (sat32 (toNs m.dpll.applied))
  let m := m.put (Fld.DPLL_PHASE_APPLIED_TOTAL 1) (sat32 (toNs m.time.domA.applied))
  let m := m.put (Fld.DPLL_PHASE_APPLIED_TOTAL 2) (sat32 (toNs m.time.domB.applied))
  forEach (List.range 10) m fun m k =>
    let m := m.putB (Fld.DPLL_IN_STATUS_VALID k) (m.dpll.valid.contains k)
    let m := m.putB (Fld.DPLL_IN_STATUS_QUALIFIED k) (m.dpll.qualified.contains k)
    let o : Int := max (-32768) (min 32767 (tabGet 0 m.dpll.fofs k))
    m.put (Fld.DPLL_IN_STATUS_FOFS k) (twosOf 16 o)

/-! ### Register write effects of TIME and DPLL -/

/-- What a write to a TIME register does beyond its fields. -/
def Mach.timeWrote (m : Mach) (off : Nat) (v : Word) : Mach :=
  if off = 0x008 then (if v.getLsbD 0 then m.snapAll else m)
  else if off = 0x100 ∨ off = 0x140 then
    let d := (off - 0x100) / 0x40
    if m.is (Fld.TIME_DOM_CFG_EN d) then m else m.domDisable d
  else if off = 0x118 ∨ off = 0x158 then
    let d := (off - 0x118) / 0x40
    let sec := m.get (Fld.TIME_DOM_ERR_SEC_LO_SEC_LO d) +
      m.get (Fld.TIME_DOM_ERR_HI_SEC_HI d) * 2 ^ 32
    let ns := m.get (Fld.TIME_DOM_ERR_NS_NS d)
    m.domSample d false (decide (1000000000 ≤ ns))
      (errOf sec ns (m.get (Fld.TIME_DOM_ERR_HI_FRAC d)))
  else if 0x300 ≤ off ∧ off < 0x340 ∧ off % 0x10 = 0 then
    -- an output with EN = 0 is low
    let k := (off - 0x300) / 0x10
    if m.is (Fld.TIME_FRAME_OUT_CFG_EN k) then m
    else { m with pins := { m.pins with frameOut := m.pins.frameOut.filter (· ≠ k) } }
  else if off = 0x340 then
    if m.is Fld.TIME_PPS_OUT_CFG_EN then m else { m with pins := { m.pins with ppsOut := false } }
  else m

/-- What a write to a DPLL register does beyond its fields. -/
def Mach.dpllWrote (m : Mach) (off : Nat) (v : Word) : Mach :=
  if off = 0x000 then (if m.is Fld.DPLL_CTRL_EN then m.reselect else m.dpllDisable)
  else if off = 0x030 then m.inputsTested
  else if off = 0x008 ∨ off = 0x00C ∨ (0x100 ≤ off ∧ off < 0x1A0 ∧ off % 0x10 = 0) then m.reselect
  else if off = 0x044 then m.phaseStep v
  else m

end Sys2Proof.Machine
end

