-- ==== Sys2Proof/Machine/SeqCtl.lean ====
section
/-! DEFINITION. How a sequencer issues, completes, waits, faults, stops and starts (R101, R102,
R115, R132 to R136, R138). -/

namespace Sys2Proof.Machine

def sqIdle : Nat := 0
def sqRunning : Nat := 1
def sqWaiting : Nat := 2
def sqHalted : Nat := 3
def sqFaulted : Nat := 4

/-! ### Registers and program counter -/

/-- A register: w0 reads zero (R101). -/
def Seq.reg (q : Seq) (r : BitVec 5) : Word := if r = 0 then 0 else tabGet 0 q.w r.toNat

/-- Write a register: a write to w0 is discarded. -/
def Seq.setReg (q : Seq) (r : BitVec 5) (v : Word) : Seq :=
  if r = 0 then q else { q with w := tabSet q.w r.toNat v }

def Mach.wreg (m : Mach) (n : Nat) (r : BitVec 5) : Word := (m.seq n).reg r

def Mach.setWreg (m : Mach) (n : Nat) (r : BitVec 5) (v : Word) : Mach :=
  m.updSeq n fun q => q.setReg r v

/-- SEQ23 fetches from the boot ROM until the handover (R102). -/
def Mach.romMode (m : Mach) (n : Nat) : Bool := n == 23 && decide (m.get Fld.BOOT_STATUS_STAGE < 6)

/-- Bytes of the space a sequencer executes from. -/
def Mach.pcLimit (m : Mach) (n : Nat) : Nat := if m.romMode n then 0x40000 else 0x8000

/-- The program counter as a byte address. -/
def Mach.pcOf (m : Mach) (n : Nat) : Nat :=
  (m.get (Fld.SEQ_PC_PC n) + m.get (Fld.SEQ_PC_PC_HI n) * 2 ^ 13) * 4

def Mach.setPc (m : Mach) (n a : Nat) : Mach :=
  (m.put (Fld.SEQ_PC_PC n) (a / 4)).put (Fld.SEQ_PC_PC_HI n) (a / 4 / 2 ^ 13)

def Mach.seqState (m : Mach) (n : Nat) : Nat := m.get (Fld.SEQ_STATUS_STATE n)

/-- Count cycles spent BUSY. -/
def Mach.spend (m : Mach) (n k : Nat) : Mach := m.countWrap (Fld.SEQ_CYCLES_COUNT n) k

/-- Count cycles whose number the spec only bounds. -/
def Mach.spendFree (m : Mach) (n : Nat) : Mach := m.free.2.spend n m.free.1.toNat

/-! ### Stopping -/

/-- Leave execution for a stopped state. -/
def Mach.seqLeave (m : Mach) (n st cause : Nat) : Mach :=
  let m := m.put (Fld.SEQ_STATUS_STATE n) st
  let m := m.put (Fld.SEQ_STATUS_WAIT_KIND n) 0
  let m := m.put (Fld.SEQ_CAUSE_CODE n) cause
  m.updSeq n fun q => { q with wait := .none, stopReq := false, stepping := false, passBkpt := false }

def Mach.seqHalt (m : Mach) (n cause : Nat) : Mach := m.seqLeave n sqHalted cause

/-- Enter FAULTED and raise EV_SEQn_FAULT (R132). -/
def Mach.seqFault (m : Mach) (n cause info : Nat) : Mach :=
  let m := (m.seqLeave n sqFaulted cause).put (Fld.SEQ_FAULT_INFO_INFO n) info
  (m.setBit Fld.EVT_SEQ_FAULT_STATUS_FAULT n).raise evSeqFault

def fIllegal : Nat := 0x10
def fPcRange : Nat := 0x11
def fPcAlign : Nat := 0x12
def fDataRange : Nat := 0x13
def fDataAlign : Nat := 0x14
def fRegAlign : Nat := 0x15
def fBadOperand : Nat := 0x16
def fAccessDenied : Nat := 0x17
def fWaitTimeout : Nat := 0x18
def fMemEcc : Nat := 0x19
def fJobTarget : Nat := 0x1A
def fBrk : Nat := 0x1B

/-! ### Completion -/

/-- The instruction has executed: an instruction boundary (R134, R138). -/
def Mach.seqBoundary (m : Mach) (n : Nat) : Mach :=
  if (m.seq n).stepping && !(m.seq n).stopReq then m.seqHalt n 0x05
  else m.updSeq n fun q => { q with passBkpt := false }

/-- Move past the instruction: the last word of the range leaves PC where it is (R115). -/
def Mach.seqAdvance (m : Mach) (n : Nat) : Mach :=
  if m.pcOf n + 4 < m.pcLimit n then m.setPc n (m.pcOf n + 4)
  else m.updSeq n fun q => { q with runOn := true }

/-- The instruction completes and the next one follows. -/
def Mach.seqNext (m : Mach) (n : Nat) : Mach := (m.seqAdvance n).seqBoundary n

/-- Jump to a target, or fault where it lies beyond the last word's address (R115). -/
def Mach.seqJump (m : Mach) (n target : Nat) (link : BitVec 5) : Mach :=
  if m.pcLimit n - 4 < target then m.seqFault n fPcRange target
  else if target % 4 ≠ 0 then m.seqFault n fPcAlign target
  else ((m.setWreg n link (BitVec.ofNat 32 (m.pcOf n + 4))).setPc n target).seqBoundary n

/-! ### Waiting -/

/-- Enter WAITING with a WAIT_KIND. -/
def Mach.seqWait (m : Mach) (n kind : Nat) (w : SeqWait) : Mach :=
  let m := m.put (Fld.SEQ_STATUS_STATE n) sqWaiting
  let m := m.put (Fld.SEQ_STATUS_WAIT_KIND n) kind
  m.updSeq n fun q => { q with wait := w }

/-- The wait ends and its instruction completes. -/
def Mach.seqWaitEnd (m : Mach) (n : Nat) : Mach :=
  let m := m.put (Fld.SEQ_STATUS_STATE n) sqRunning
  let m := m.put (Fld.SEQ_STATUS_WAIT_KIND n) 0
  ((m.updSeq n fun q => { q with wait := .none }).spendFree n).seqNext n

/-- What a sequencer waits for, unless a STOP abandons the wait. -/
def Mach.seqWaitOf (m : Mach) (n : Nat) : SeqWait :=
  if m.seqState n = sqWaiting ∧ (m.seq n).stopReq = false then (m.seq n).wait else .none

/-! ### Issue -/

/-- The word at PC, with corrections counted; none where it is uncorrectable (R103). -/
def Mach.seqFetch (m : Mach) (n : Nat) : Mach × Option Nat :=
  if m.romMode n then
    (m, some (leNat ((List.range 4).map fun i => Config.bootRom (m.pcOf n + i))))
  else m.ramWord n (seqRamBase n + m.pcOf n)

/-- An enabled breakpoint stands at PC (R138). -/
def Mach.atBreakpoint (m : Mach) (n : Nat) : Bool :=
  !(m.seq n).passBkpt &&
  ((m.is (Fld.SEQ_BKPT_EN n 0) && m.get (Fld.SEQ_BKPT_ADDR n 0) * 4 == m.pcOf n) ||
   (m.is (Fld.SEQ_BKPT_EN n 1) && m.get (Fld.SEQ_BKPT_ADDR n 1) * 4 == m.pcOf n))

/-- The sequencer is about to fetch an instruction. -/
def Mach.seqReady (m : Mach) (n : Nat) : Bool :=
  m.seqState n == sqRunning && !(m.seq n).stopReq && !(m.seq n).runOn

/-- Issue an instruction whose word satisfies a test: the word at PC is fetched; an uncorrectable one
faults (R103); one that fails the test is not this command's, which then leaves the state as it is. -/
def Mach.seqIssueIf (m : Mach) (n : Nat) (test : Word → Bool) (f : Mach → Word → Mach) : Mach :=
  if !m.seqReady n || m.atBreakpoint n then m
  else match m.seqFetch n with
    | (m', none) => m'.seqFault n fMemEcc (m.pcOf n + 2 ^ 31)
    | (m', some w) =>
      if test (BitVec.ofNat 32 w) then f m' (BitVec.ofNat 32 w) else m

/-- Issue one decoded instruction. -/
def Mach.seqIssue (m : Mach) (n : Nat) (op : SeqOp) (f : Mach → Mach) : Mach :=
  m.seqIssueIf n (fun w => seqDecode w == some op) fun m _ => f m

/-- An instruction that writes one register and takes a fixed number of cycles. -/
def Mach.seqWrites (m : Mach) (n cycles : Nat) (rd : BitVec 5) (v : Word) : Mach :=
  ((m.setWreg n rd v).spend n cycles).seqNext n

/-! ### Control (R134 to R136) -/

def Mach.seqRun (m : Mach) (n : Nat) (q : Seq → Seq) : Mach :=
  let m := m.put (Fld.SEQ_STATUS_STATE n) sqRunning
  m.updSeq n fun s => q { s with runOn := false, stopReq := false, wait := .none }

/-- START: registers, pending lines, cycles and cause are cleared; windows name the own slot. -/
def Mach.seqStart (m : Mach) (n : Nat) : Mach :=
  let m := m.put (Fld.SEQ_EVT_PEND_PEND n) 0
  let m := m.put (Fld.SEQ_CYCLES_COUNT n) 0
  let m := m.put (Fld.SEQ_WIN_WIN0 n) (0xA0 + n)
  let m := m.put (Fld.SEQ_WIN_WIN1 n) (0xA0 + n)
  let m := m.put (Fld.SEQ_WIN_WIN2 n) (0xA0 + n)
  let m := m.put (Fld.SEQ_WIN_WIN3 n) (0xA0 + n)
  let m := m.put (Fld.SEQ_CAUSE_CODE n) 0
  m.seqRun n fun q => { q with w := [], stepping := false, passBkpt := false }

def Mach.seqResume (m : Mach) (n : Nat) : Mach :=
  (m.put (Fld.SEQ_CAUSE_CODE n) 0).seqRun n fun q => { q with stepping := false, passBkpt := true }

def Mach.seqStep (m : Mach) (n : Nat) : Mach :=
  m.seqRun n fun q => { q with stepping := true, passBkpt := true }

/-- STOP: takes effect at the next instruction boundary. -/
def Mach.seqStop (m : Mach) (n : Nat) : Mach := m.updSeq n fun q => { q with stopReq := true }

/-- A write of CTRL (R134): the first set action bit in the order STOP, START, RESUME, STEP. -/
def Mach.seqControl (m : Mach) (n : Nat) (v : Word) : Mach :=
  let st := m.seqState n
  let stopped := st == sqHalted || st == sqFaulted
  if v.getLsbD 3 then (if st = sqRunning ∨ st = sqWaiting then m.seqStop n else m)
  else if v.getLsbD 0 then (if st == sqIdle || stopped then m.seqStart n else m)
  else if v.getLsbD 1 then (if stopped then m.seqResume n else m)
  else if v.getLsbD 2 then (if stopped then m.seqStep n else m)
  else m

/-- DBG_DATA as it reads: w(REG) (R138). -/
def Mach.showSeq (m : Mach) (n : Nat) : Mach :=
  m.put (Fld.SEQ_DBG_DATA_VALUE n) (m.wreg n (BitVec.ofNat 5 (m.get (Fld.SEQ_DBG_SEL_REG n)))).toNat

/-- What a write to a SEQn register does beyond its fields. -/
def Mach.seqWrote (m : Mach) (n off : Nat) (v : Word) : Mach :=
  if off = 0x000 then m.seqControl n v
  else if off = 0x02C then
    if m.seqBusy n then m
    else m.setWreg n (BitVec.ofNat 5 (m.get (Fld.SEQ_DBG_SEL_REG n))) v
  else m

end Sys2Proof.Machine
end

