-- ==== Sys2Proof/Machine/TouchOps.lean ====
section
/-! DEFINITION. Console touch keys: scans, hopping, baselines, press and release, suppression,
reporting, self-tests and wake scans (R441 to R454). -/

namespace Sys2Proof.Machine

def evTouchPress : Nat := 0xC8
def evTouchRelease : Nat := 0xC9
def evTouchStuck : Nat := 0xCA
def evTouchHop : Nat := 0xCB
def evTouchFault : Nat := 0xCC
def evTouchTestDone : Nat := 0xCD
def evTouchRebase : Nat := 0xCE

def stReleased : Nat := 0
def stPressed : Nat := 1
def stSuppressed : Nat := 2
def stFault : Nat := 3

def Mach.updTouch (m : Mach) (f : Touch → Touch) : Mach := { m with touch := f m.touch }

def Mach.elem (m : Mach) (e : Nat) : TouchElem := tabGet .reset m.touch.elems e

def Mach.updElem (m : Mach) (e : Nat) (f : TouchElem → TouchElem) : Mach :=
  m.updTouch fun t => { t with elems := tabSet t.elems e (f (tabGet .reset t.elems e)) }

/-! ### Modes, elements and frequencies (R441 to R443) -/

def Mach.touchMatrix (m : Mach) : Bool := m.is Fld.TOUCH_CTRL_MODE
def Mach.touchRows (m : Mach) : Nat := m.get Fld.TOUCH_CTRL_ROWS
def Mach.touchCols (m : Mach) : Nat := m.get Fld.TOUCH_CTRL_COLS

/-- Elements of the mode; an index beyond selects nothing. -/
def Mach.touchCount (m : Mach) : Nat := if m.touchMatrix then m.touchRows * m.touchCols else 48

/-- ROWS, COLS and their sum are in range. -/
def Mach.touchRangeOk (m : Mach) : Bool :=
  !m.touchMatrix ||
    (1 ≤ m.touchRows && m.touchRows ≤ 24 && 1 ≤ m.touchCols && m.touchCols ≤ 24 &&
      m.touchRows + m.touchCols ≤ 48)

/-- The enabled hop frequencies; HOP_EN = 0 acts as 0x01. -/
def Mach.touchHops (m : Mach) : List Nat :=
  let l := (List.range 8).filter (m.bit Fld.TOUCH_HOP_CTRL_HOP_EN)
  if l.isEmpty then [0] else l

def Mach.touchBurst (m : Mach) : Nat := max 16 (m.get Fld.TOUCH_SCAN_BURST)

/-- The scan time at the lowest enabled frequency exceeds SCAN_PERIOD (R443). -/
def Mach.touchTooLong (m : Mach) : Bool :=
  let f := (m.touchHops.map fun k => m.get (Fld.TOUCH_HOP_FREQ k)).foldl min 1024
  let r := if m.touchMatrix then m.touchRows else 1
  decide (m.get Fld.TOUCH_SCAN_SCAN_PERIOD * 100 * f < (r + 2) * m.touchBurst * 1000 + 20 * f)

/-- The next enabled hop frequency in round-robin order to listen to (R443). -/
def Mach.touchListen (m : Mach) : Nat :=
  let l := m.touchHops.filter (· ≠ m.get Fld.TOUCH_STATUS_HOP)
  match l.find? (m.touch.listen < ·) with
  | some k => k
  | none => l.headD (m.get Fld.TOUCH_STATUS_HOP)

/-! ### Enable and disable -/

/-- A write of CTRL that turns EN on (R443): refused, or the calibration scans start (R445). A hop frequency that is
not enabled gives way to the lowest-numbered one that is (log entry 9). -/
def Mach.touchEnable (m : Mach) : Mach :=
  if !m.touchRangeOk || m.touchTooLong then
    (m.put Fld.TOUCH_CTRL_EN 0).put Fld.TOUCH_STATUS_TIMING_REJECT 1
  else
    let hop := m.get Fld.TOUCH_STATUS_HOP
    (m.put Fld.TOUCH_STATUS_HOP (if m.touchHops.contains hop then hop else m.touchHops.headD 0)).updTouch
      fun t => { t with calibrating := true }

/-- A test ends (R451). -/
def Mach.testEnds (m : Mach) (result : Nat) : Mach :=
  let m := (m.updTouch fun t => { t with test := none }).put Fld.TOUCH_STATUS_TEST_BUSY 0
  ((m.put Fld.TOUCH_TEST_STATUS_RESULT result).put Fld.TOUCH_TEST_STATUS_DONE 1).raise evTouchTestDone

/-- A write of CTRL that turns EN off: a test that runs ends too, with a RESULT that no rule gives (log entry 9). -/
def Mach.touchDisable (m : Mach) : Mach :=
  let m := (m.put Fld.TOUCH_STATUS_SCANNING 0).updTouch fun t => { t with calibrating := false, scan := none }
  if m.touch.test.isNone then m
  else
    let f := m.free
    f.2.testEnds (f.1.toNat % 4)

/-! ### Reporting (R449) -/

def Mach.pushChange (m : Mach) (e st : Nat) : Mach :=
  if 64 ≤ m.touch.change.length then m.updTouch fun t => { t with changeOverflow := true }
  else m.updTouch fun t => { t with change := t.change ++ [(e, st)] }

/-- Set a bit of the PRESSED bitmaps. -/
def Mach.setPressed (m : Mach) (e : Nat) (b : Bool) : Mach :=
  let f := Fld.TOUCH_PRESSED_BITS (e / 32)
  let v := m.get f
  let bit := 2 ^ (e % 32)
  m.put f (if b then v ||| bit else v - (v &&& bit))

/-- Bring an element to a state, with a CHANGE entry when it changes among RELEASED, PRESSED and
SUPPRESSED; a FAULT is reported as a release. -/
def Mach.setElemState (m : Mach) (e st : Nat) : Mach :=
  let old := m.get (Fld.TOUCH_ELEM_STATUS_STATE e)
  if old = st then m else
  let m := m.put (Fld.TOUCH_ELEM_STATUS_STATE e) st
  let m := m.setPressed e (st == stPressed)
  let m := m.updElem e fun x =>
    { x with since := if st = stPressed then m.time.ticks else x.since }
  let shown (s : Nat) : Nat := if s = stFault then stReleased else s
  if shown old = shown st then m else m.pushChange e (shown st)

/-- The states of elements before a scan or test, to find what became pressed or released. -/
def Mach.elemStates (m : Mach) (es : List Nat) : List (Nat × Nat) :=
  es.map fun e => (e, m.get (Fld.TOUCH_ELEM_STATUS_STATE e))

/-- Raise EV_TOUCH_PRESS and EV_TOUCH_RELEASE, each at most once (R449). -/
def Mach.raiseTouch (m : Mach) (before : List (Nat × Nat)) : Mach :=
  let now := before.map fun p => (p.2, m.get (Fld.TOUCH_ELEM_STATUS_STATE p.1))
  let pressed := now.any fun p => p.1 != stPressed && p.2 == stPressed
  let released := now.any fun p => (p.1 == stPressed || p.1 == stSuppressed) &&
    (p.2 == stReleased || p.2 == stFault)
  (m.raiseIf pressed evTouchPress).raiseIf released evTouchRelease

/-! ### Signals and baselines (R442, R445, R446) -/

/-- A count brought to the lowest-numbered enabled frequency: the count divided by the ratio of the
frequency it was measured at. -/
def normCount (count ck c0 : Nat) : Nat :=
  let v := wholeOf ((count : Rat) * c0 / ck)
  if ck = 0 ∨ c0 = 0 ∨ v < 0 ∨ 65535 < v then Config.touchSignal count ck c0 % 65536
  else v.toNat

/-- SIGNAL of an element from its count at hop `k`; inverted in matrix mode. -/
def Mach.touchSignal (m : Mach) (e k count : Nat) : Nat :=
  let cal := (m.elem e).cal
  let c0 := tabGet 0 cal (m.touchHops.headD 0)
  let v := if k = m.touchHops.headD 0 then count % 65536 else normCount count (tabGet 0 cal k) c0
  if m.touchMatrix then 65535 - v else v

def Mach.setBaseline (m : Mach) (e s : Nat) : Mach := m.put (Fld.TOUCH_ELEM_DATA_BASELINE e) s

/-- Store SIGNAL and DELTA of a scan; an element without a baseline takes SIGNAL. -/
def Mach.takeSignal (m : Mach) (e s : Nat) : Mach :=
  let m := if (m.elem e).hasBase then m
    else (m.setBaseline e s).updElem e fun x => { x with hasBase := true }
  let m := m.put (Fld.TOUCH_ELEM_DATA_SIGNAL e) s
  m.put (Fld.TOUCH_ELEM_STATUS_DELTA e)
    (twosOf 16 ((s : Int) - m.get (Fld.TOUCH_ELEM_DATA_BASELINE e)))

/-- BASELINE becomes SIGNAL and the element is released (R447 steps 1 and 4). -/
def Mach.rebaseline (m : Mach) (e : Nat) : Mach :=
  (m.setBaseline e (m.get (Fld.TOUCH_ELEM_DATA_SIGNAL e))).updElem e fun x =>
    { x with negRun := 0, trackRun := 0, onRun := 0, offRun := 0, down := false, rebase := false }

/-- The enabled elements of a snapshot of ELEM_CFG that are in the mode and not in FAULT. -/
def Mach.scanned (m : Mach) (cfg : List (Nat × Word)) : List (Nat × Word) :=
  cfg.filter fun p => decide (p.1 < m.touchCount) && p.2.getMsbD 0 &&
    m.get (Fld.TOUCH_ELEM_STATUS_STATE p.1) != stFault

/-- ELEM_CFG of the elements that any write has configured, in ascending order. -/
def Mach.elemCfgs (m : Mach) : List (Nat × Word) :=
  (m.regs.filter fun r => r.1 % 0x1000000 == Reg.TOUCH_ELEM_CFG 0).map fun r =>
    (r.1 / 0x1000000, r.2)

/-- Channels in use. -/
def Mach.touchChannels (m : Mach) : List Nat :=
  List.range (if m.touchMatrix then m.touchRows + m.touchCols else 48)

/-- The noise that a listen burst gives: the mean absolute count over the channels in use (R444). -/
def Mach.listenNoise (m : Mach) (counts : List Int) : Nat :=
  let n := m.touchChannels.length
  let sum : Nat := ((counts.take n).map Int.natAbs).foldl (· + ·) 0
  min 65535 (wholeOf ((sum : Rat) / (max 1 n : Nat))).toNat

/-- One element after the calibration scans: its counts are recorded, enabled or not, and an enabled one takes its
baseline; all start released but those in FAULT. -/
def Mach.elemCalibrated (m : Mach) (cal : List (Nat × Nat)) (enabled : Bool) (e : Nat) : Mach :=
  let first := m.touchHops.headD 0
  let m := m.updElem e fun x =>
    { x with cal := cal, hasBase := false, negRun := 0, trackRun := 0, onRun := 0, offRun := 0, down := false }
  let m := if enabled then m.takeSignal e (m.touchSignal e first (tabGet 0 cal first)) else m
  if m.get (Fld.TOUCH_ELEM_STATUS_STATE e) = stFault then m else m.setElemState e stReleased

/-- Elements of the mode that the calibration scans or the state tell anything of, in ascending order. -/
def Mach.touchElems (m : Mach) (counts : List (Nat × List (Nat × Nat))) : List Nat :=
  let known := counts.map (·.1) ++ m.elemCfgs.map (·.1) ++ m.touch.elems.map (·.1)
  (List.range (min 576 m.touchCount)).filter known.contains

/-- The calibration scans end (R444 to R446). They wait while a test runs. -/
def Mach.touchCalibrated (m : Mach) (cal : TouchCalibration) : Mach :=
  if !m.touch.calibrating || !m.is Fld.TOUCH_CTRL_EN || m.touch.scan.isSome || m.touch.test.isSome then m else
  let on := (m.scanned m.elemCfgs).map Prod.fst
  let es := m.touchElems cal.counts
  let before := m.elemStates es
  let m := forEach es m fun m e => m.elemCalibrated (tabGet [] cal.counts e) (on.contains e) e
  let m := forEach m.touchHops m fun m k => match tabFind cal.noise k with
    | some l => m.put (Fld.TOUCH_HOP_NOISE k) (m.listenNoise l)
    | none => m
  let m := m.updTouch fun t => { t with calibrating := false, listen := m.get Fld.TOUCH_STATUS_HOP }
  (m.put Fld.TOUCH_STATUS_SCANNING 1).raiseTouch before

/-! ### Scans -/

/-- A paced scan starts, or the test that takes its place (R443, R450). -/
def Mach.touchScanStart (m : Mach) : Mach :=
  if !m.is Fld.TOUCH_STATUS_SCANNING || m.touch.calibrating || m.touch.scan.isSome ||
      m.touch.test.isSome then m
  else match m.touch.go, m.touch.auto with
    | some k, _ =>
      (m.updTouch fun t => { t with go := none, test := some k }).put Fld.TOUCH_STATUS_TEST_BUSY 1
    | none, k :: r =>
      (m.updTouch fun t => { t with auto := r, test := some k }).put Fld.TOUCH_STATUS_TEST_BUSY 1
    | none, [] => m.updTouch fun t => { t with scan := some m.elemCfgs }

/-- Steps 2 and 3 of R447 for one element, up to its debounced state. -/
def Mach.elemTrack (m : Mach) (e : Nat) (cfg : Word) (d neg : Int) : Mach :=
  -- step 2
  let released := m.get (Fld.TOUCH_ELEM_STATUS_STATE e) == stReleased
  let m := if released && decide (-neg ≤ d) && decide (d ≤ m.get Fld.TOUCH_TRACK_TRACK_BAND) then
      let run := (m.elem e).trackRun + 1
      if max 1 (m.get Fld.TOUCH_TRACK_TRACK_DIV) ≤ run then
        let b := m.get (Fld.TOUCH_ELEM_DATA_BASELINE e)
        let s := m.get (Fld.TOUCH_ELEM_DATA_SIGNAL e)
        (m.setBaseline e (if b < s then b + 1 else if s < b then b - 1 else b)).updElem e
          fun x => { x with trackRun := 0 }
      else m.updElem e fun x => { x with trackRun := run }
    else m
  -- step 3
  let th := bitsOf cfg.toNat 12 12
  let rel := min th (bitsOf cfg.toNat 0 12)
  let x := m.elem e
  if x.down then
    let off := if d < rel then x.offRun + 1 else 0
    m.updElem e fun x =>
      if max 1 (m.get Fld.TOUCH_DEB_DEB_OFF) ≤ off then
        { x with down := false, offRun := 0, onRun := 0 }
      else { x with offRun := off }
  else
    let on := if th ≤ d then x.onRun + 1 else 0
    m.updElem e fun x =>
      if max 1 (m.get Fld.TOUCH_DEB_DEB_ON) ≤ on then
        { x with down := true, onRun := 0, offRun := 0 }
      else { x with onRun := on }

/-- Steps 1 to 3 of R447 for one element. One whose baseline is set again, by step 1 or a REBASE, is released
with this scan. -/
def Mach.elemStep (m : Mach) (e : Nat) (cfg : Word) : Mach :=
  let d : Int := signedOf 16 (m.get (Fld.TOUCH_ELEM_STATUS_DELTA e))
  let neg : Int := m.get Fld.TOUCH_RECAL_NEG_RECAL
  let x := m.elem e
  let negRun := if d < -neg then x.negRun + 1 else 0
  if x.rebase || 8 ≤ negRun then (m.rebaseline e).raise evTouchRebase
  else (m.updElem e fun x => { x with negRun := negRun }).elemTrack e cfg d neg

/-- Step 4 of R447. -/
def Mach.elemMaxOn (m : Mach) (e : Nat) (cfg : Word) : Mach :=
  let lim := m.get Fld.TOUCH_RECAL_MAX_ON
  let x := m.elem e
  if lim ≠ 0 ∧ m.get (Fld.TOUCH_ELEM_STATUS_STATE e) = stPressed ∧ x.down = true ∧
      cfg.getLsbD 30 = false ∧ x.since + lim * 250000000 ≤ m.time.ticks then
    ((m.rebaseline e).put (Fld.TOUCH_ELEM_STATUS_STUCK e) 1).raise evTouchStuck
  else m

def aksOf (cfg : Word) : Nat := bitsOf cfg.toNat 27 3

/-- DELTA − TOUCH_TH of an element. -/
def Mach.elemMargin (m : Mach) (p : Nat × Word) : Int :=
  signedOf 16 (m.get (Fld.TOUCH_ELEM_STATUS_DELTA p.1)) - (bitsOf p.2.toNat 12 12 : Nat)

/-- The element of a group that is pressed: largest margin, the lower index on a tie (R448). -/
def Mach.groupBest (m : Mach) : List (Nat × Word) → Option Nat
  | [] => none
  | p :: r =>
    match m.groupBest r with
    | none => some p.1
    | some b => if r.any fun q => q.1 == b && decide (m.elemMargin p < m.elemMargin q)
        then some b else some p.1

/-- The state an element reports after its debounced state is known (R448). -/
def Mach.elemReport (m : Mach) (es : List (Nat × Word)) (before : List (Nat × Nat))
    (p : Nat × Word) : Nat :=
  if !(m.elem p.1).down then stReleased
  else if aksOf p.2 = 0 then stPressed
  else
    let group := es.filter fun q => aksOf q.2 == aksOf p.2
    match group.find? fun q => tabGet 0 before q.1 == stPressed with
    | some q => if q.1 = p.1 then stPressed else stSuppressed
    | none =>
      if m.groupBest (group.filter fun q => (m.elem q.1).down) = some p.1 then stPressed
      else stSuppressed

/-- Change to the frequency with the lowest noise (R444). -/
def Mach.touchHop (m : Mach) : Mach :=
  let k := m.get Fld.TOUCH_STATUS_HOP
  let noise (i : Nat) : Nat := m.get (Fld.TOUCH_HOP_NOISE i)
  let best := m.touchHops.foldl (fun b i => if noise i < noise b then i else b)
    (m.touchHops.headD 0)
  if m.get Fld.TOUCH_HOP_CTRL_NOISE_HI < noise k ∧ 2 * noise best < noise k then
    (m.put Fld.TOUCH_STATUS_HOP best).raise evTouchHop
  else m

/-- A scan ends (R444, R446 to R449): counts by element, and the counts of the two listen
bursts by channel in use. -/
def Mach.touchScanEnd (m : Mach) (counts : List (Nat × Nat)) (noise noiseNext : List Int) :
    Mach :=
  match m.touch.scan with
  | none => m
  | some cfg =>
    let m := m.updTouch fun t => { t with scan := none }
    let k := m.get Fld.TOUCH_STATUS_HOP
    let next := m.touchListen
    let m := m.put (Fld.TOUCH_HOP_NOISE next) (m.listenNoise noiseNext)
    let m := m.put (Fld.TOUCH_HOP_NOISE k) (m.listenNoise noise)
    let m := m.updTouch fun t => { t with listen := next }
    let inMode := cfg.filter fun p => decide (p.1 < m.touchCount)
    let es := m.scanned inMode
    let off := inMode.filter fun p => !p.2.getMsbD 0 &&
      m.get (Fld.TOUCH_ELEM_STATUS_STATE p.1) != stFault
    let before := m.elemStates (inMode.map Prod.fst)
    let m := es.foldl (fun m p =>
      let m := m.takeSignal p.1 (m.touchSignal p.1 k (tabGet 0 counts p.1))
      m.elemStep p.1 p.2) m
    let m := off.foldl (fun m p => m.updElem p.1 fun x =>
      { x with hasBase := false, down := false, onRun := 0, offRun := 0, negRun := 0 }) m
    let m := es.foldl (fun m p => m.elemMaxOn p.1 p.2) m
    let states := es.map fun p => (p.1, m.elemReport es before p)
    let m := inMode.foldl (fun m p =>
      if m.get (Fld.TOUCH_ELEM_STATUS_STATE p.1) = stFault then m
      else m.setElemState p.1 (tabGet stReleased states p.1)) m
    (m.raiseTouch before).touchHop

/-! ### Self-tests (R450, R451) -/

/-- Channels that a test of a kind covers: REFCAP the columns, the others every channel in use (R450). -/
def Mach.testChannels (m : Mach) (kind : Nat) : List Nat :=
  if kind = 2 then m.touchChannels.filter (m.touchRows ≤ ·) else m.touchChannels

/-- A reading fails its test (R450). -/
def readingFails (kind : Nat) (r : TouchReading) : Bool :=
  match kind with
  | 1 => decide (r.level < 1 / 2 ∨ 1 / 2 < r.beside)
  | 2 => decide (r.level < 19 / 20 ∨ 21 / 20 < r.level)
  | _ => decide (r.level < 2)

/-- The bits of two maps, as channels. -/
def Mach.mapFails (m : Mach) (ch : Nat) : Bool :=
  let inMap (f0 f1 : Fld) : Bool := if ch < 32 then m.bit f0 ch else m.bit f1 (ch - 32)
  inMap Fld.TOUCH_OPEN_MAP0_CH Fld.TOUCH_OPEN_MAP1_CH ||
  inMap Fld.TOUCH_SHORT_MAP0_CH Fld.TOUCH_SHORT_MAP1_CH ||
  (m.touchMatrix && decide (m.touchRows ≤ ch) && m.bit Fld.TOUCH_REF_MAP_COL (ch - m.touchRows))

/-- An element has a channel that failed a test. -/
def Mach.elemFails (m : Mach) (e : Nat) : Bool :=
  if m.touchMatrix then m.mapFails (e / m.touchCols) || m.mapFails (m.touchRows + e % m.touchCols)
  else m.mapFails e

/-- Mark or unmark a channel that a test covered. -/
def Mach.markMap (m : Mach) (kind ch : Nat) (bad : Bool) : Mach :=
  let mark (m : Mach) (f : Fld) (i : Nat) : Mach :=
    let v := m.get f
    m.put f (if bad then v ||| 2 ^ i else v - (v &&& 2 ^ i))
  if kind = 2 then mark m Fld.TOUCH_REF_MAP_COL (ch - m.touchRows)
  else if kind = 1 then
    (if ch < 32 then mark m Fld.TOUCH_SHORT_MAP0_CH ch else mark m Fld.TOUCH_SHORT_MAP1_CH (ch - 32))
  else if ch < 32 then mark m Fld.TOUCH_OPEN_MAP0_CH ch else mark m Fld.TOUCH_OPEN_MAP1_CH (ch - 32)

/-- A REFCAP test is refused in this configuration. -/
def Mach.refcapRefused (m : Mach) : Bool :=
  !(m.touchMatrix && 16 ≤ m.touchRows && 16 ≤ m.touchCols)

/-- Elements whose channels a test has judged enter FAULT or leave it (R451). -/
def Mach.elemJudged (m : Mach) (e : Nat) : Mach :=
  let faulty := m.get (Fld.TOUCH_ELEM_STATUS_STATE e) == stFault
  if m.elemFails e then
    if faulty then m
    else (m.setElemState e stFault).updElem e fun x =>
      { x with down := false, onRun := 0, offRun := 0, negRun := 0 }
  else if faulty then (m.setElemState e stReleased).updElem e fun x => { x with hasBase := false }
  else m

/-- A test ends (R450, R451): what it measured on the channels that it covers, and whether REFCAP measures an open
circuit. -/
def Mach.touchTestDone (m : Mach) (readings : List TouchReading) (refOpen : Bool) : Mach :=
  match m.touch.test with
  | none => m
  | some kind =>
    if kind = 2 ∧ (m.refcapRefused || refOpen) = true then m.testEnds 3
    else
      let rs := readings.filter fun r => (m.testChannels kind).contains r.channel
      let failed := rs.any (readingFails kind)
      let es := List.range m.touchCount
      let before := m.elemStates es
      let m := rs.foldl (fun m r => m.markMap kind r.channel (readingFails kind r)) m
      let m := forEach es m Mach.elemJudged
      ((m.raiseTouch before).raiseIf failed evTouchFault).testEnds (if failed then 2 else 1)

/-- TEST_CTRL.GO (R450). -/
def Mach.touchTestGo (m : Mach) : Mach :=
  if m.is Fld.TOUCH_STATUS_TEST_BUSY then m
  else
    let k := m.get Fld.TOUCH_TEST_CTRL_KIND
    m.updTouch fun t => { t with go := some (if k = 3 then 0 else k) }

/-- TEST_PERIOD passes: OPEN, then SHORT (R450). -/
def Mach.touchTestPeriod (m : Mach) : Mach :=
  if m.get Fld.TOUCH_TEST_CTRL_TEST_PERIOD = 0 ∨ m.is Fld.TOUCH_CTRL_EN = false then m
  else m.updTouch fun t => { t with auto := t.auto ++ [0, 1] }

/-! ### Commands and reads -/

/-- What a write to a TOUCH register does beyond its fields. -/
def Mach.touchWrote (m was : Mach) (mst off : Nat) (v : Word) : Mach :=
  if off = 0x000 then
    match was.is Fld.TOUCH_CTRL_EN, m.is Fld.TOUCH_CTRL_EN with
    | false, true => m.touchEnable
    | true, false => m.touchDisable
    | _, _ => m
  else if off = 0x050 then (if v.getLsbD 31 then m.touchTestGo else m)
  else if off = 0x080 then
    let m := if v.getLsbD 0 then
        let e := m.get (Fld.TOUCH_ELEM_INDEX_INDEX mst)
        if e < m.touchCount then m.updElem e fun x => { x with rebase := true } else m
      else m
    if v.getLsbD 1 then
      let m := (m.elemCfgs.map Prod.fst).foldl (fun m e => m.updElem e fun x =>
        { x with rebase := true }) m
      if m.is Fld.TOUCH_CTRL_EN then
        (m.updTouch fun t => { t with calibrating := true }).put Fld.TOUCH_STATUS_SCANNING 0
      else m
    else m
  else m

/-- A read of CHANGE: the oldest entry, removed; OVERFLOW clears (R449). -/
def Mach.touchChange (m : Mach) : Mach × Word :=
  let ovf := m.touch.changeOverflow.toNat * 2 ^ 30
  match m.touch.change with
  | [] => (m.updTouch fun t => { t with changeOverflow := false }, BitVec.ofNat 32 ovf)
  | (e, st) :: r =>
    (m.updTouch fun t => { t with change := r, changeOverflow := false },
     BitVec.ofNat 32 (2 ^ 31 + ovf + st * 2 ^ 24 + e))

/-! ### Wake from Keep (R452) -/

/-- The TOUCH registers that survive Keep. -/
def touchKept : List Nat :=
  [Reg.TOUCH_WAKE_MASK0, Reg.TOUCH_WAKE_MASK1, Reg.TOUCH_WAKE_CFG, Reg.TOUCH_HOP 0]

/-- Channels that wake. -/
def Mach.wakeChannels (m : Mach) : List Nat :=
  (List.range 48).filter fun c =>
    if c < 32 then m.bit Fld.TOUCH_WAKE_MASK0_CH c else m.bit Fld.TOUCH_WAKE_MASK1_CH (c - 32)

/-- One wake channel after a wake scan; the first finds a delta of 0. -/
def wakeStep (neg th : Nat) (old : Option WakeChan) (s : Nat) : WakeChan :=
  match old with
  | none => ⟨s, 0, if th = 0 then 1 else 0⟩
  | some w =>
    let d : Int := (s : Int) - w.base
    let n := if d < -(neg : Int) then w.negRun + 1 else 0
    if 8 ≤ n then ⟨s, 0, 0⟩ else ⟨w.base, n, if (th : Int) ≤ d then w.onRun + 1 else 0⟩

/-- A wake scan's effect on its channels; whether one ends Keep. -/
def Mach.wakeScan (m : Mach) (counts : List (Nat × Nat)) : Mach × Bool :=
  let new := m.wakeChannels.map fun c =>
    (c, wakeStep m.touch.wakeNeg (m.get Fld.TOUCH_WAKE_CFG_WAKE_TH) (tabFind m.touch.wake c)
      (tabGet 0 counts c % 65536))
  (m.updTouch fun t => { t with wake := new },
   m.is Fld.SYS_PWR_CTRL_TOUCH_WAKE && new.any fun p => decide (2 ≤ p.2.onRun))

end Sys2Proof.Machine
end

