-- ==== Sys2Proof/Machine/PowerOps.lean ====
section
/-! DEFINITION. Power states, resets, boot and board management (R41 to R56, R84 to R94, R102). -/

namespace Sys2Proof.Machine

def Mach.updPwr (m : Mach) (f : Power → Power) : Mach := { m with pwr := f m.pwr }
def Mach.updBoot (m : Mach) (f : Boot → Boot) : Mach := { m with boot := f m.boot }

/-- The module enters a power phase. -/
def Mach.toPhase (m : Mach) (p : PwrPhase) : Mach := m.updPwr fun x => { x with phase := p }

/-! ### Resets (R53) -/

/-- The levels of the pair's lines are the partner's and the board's: a reset leaves them, but for the
unit's own drive of POSS_N. -/
def Mach.pairLines (m was : Mach) : Mach :=
  (m.putB Fld.PAIR_STATUS_POSS_LOW (was.is Fld.PAIR_STATUS_POSS_LOW && !was.pair.poss)).putB
    Fld.PAIR_STATUS_PARTNER_PG (was.is Fld.PAIR_STATUS_PARTNER_PG)

/-- Everything at its reset value, in a power phase; what has left the module stays recorded. -/
def Mach.resetTo (m : Mach) (p : PwrPhase) : Mach :=
  Mach.pairLines { Mach.reset with
    freeCount := m.freeCount
    sent := m.sent
    pwr := { Power.reset with
      phase := p
      railLatched := m.pwr.railLatched
      tripLatched := m.pwr.tripLatched
      resetLow := m.pwr.resetLow } } m

/-- A power-on, also as the exit from Dormant: nothing is kept (R53, log entry 24). -/
def Mach.powerOn (m : Mach) (wakeCause : Nat) : Mach :=
  (((m.resetTo .softStart).updPwr fun p => { p with railLatched := false, tripLatched := false }).put
    Fld.SYS_PWR_STATUS_WAKE_CAUSE wakeCause)

/-- Registers taken over from the state before a reset. -/
def Mach.keepRegs (m was : Mach) (keys : List Nat) : Mach :=
  { m with regs := keys.foldl (fun l k => match tabFind was.regs k with
      | some w => tabSet l k w
      | none => l) m.regs }

/-- RESET_N (R53): after a thermal trip the cause says so. -/
def Mach.resetN (m : Mach) : Mach :=
  let tripped := m.pwr.phase == .tripped
  let r := (m.resetTo (if tripped then .tripped else .railsUp)).updPwr fun p =>
    { p with resetLow := true }
  (r.put Fld.SYS_RESET_CAUSE_CAUSE 3).putB Fld.SYS_RESET_CAUSE_THERMAL_TRIP tripped

/-- A register that a soft reset keeps (R53): of the TIME block, the DPLL, or a channel's training results. -/
def softKept (key : Nat) : Bool :=
  let slot := key / 0x10000 % 0x100
  slot == 0x0C || slot == 0x0D ||
  (List.range 16).any fun c => key == (Fld.DRAMC_CH_TRAIN_FAIL (c / 4) (c % 4)).key

/-- A soft reset (R53): the results of DRAM training, the TIME block and the DPLL stay (R329, R334, R347);
the ports that inputs 5 to 9 come from are down. A pulse of a TIME output runs on behind its ball, which is
low until boot-ready (R49, log entry 25). -/
def Mach.softReset (m : Mach) : Mach :=
  let r := m.resetTo .on
  let r := { r with
    regs := m.regs.filter fun e => softKept e.1
    dpll := m.dpll
    time := { m.time with exchange := none }
    pins := { m.pins with evtOut := r.pins.evtOut }
    boot := { Boot.reset with trained := m.boot.trained, trainFail := m.boot.trainFail } }
  let r := (r.pairLines m).put Fld.SYS_RESET_CAUSE_CAUSE 4
  forEach [5, 6, 7, 8, 9] r fun r k => r.setValid k false

/-! ### Keep and Dormant (R44 to R48, R350) -/

/-- The SYS power registers, which survive Keep (R47). -/
def powerKept : List Nat := [Reg.SYS_PWR_CTRL, Reg.SYS_PWR_STATUS, Reg.SYS_IDLE_DELAY]

/-- Why a request for Keep or Dormant is rejected (R44); of several reasons the first in the rule's order
(log entry 24). -/
def Mach.requestReject (m : Mach) (v : Word) (wakeLow : Bool) : Nat :=
  if bitsOf v.toNat 16 16 ≠ 0xA5C3 then 1
  else if m.paired && m.pair.poss then 2
  else if wakeLow then 3 else 0

/-- WAKE_N as a write finds it: as the command tells it, else free (log entry 24). -/
def Mach.wakeLevel (m : Mach) : Mach × Bool :=
  match m.pwr.wakeLow with
  | some low => (m.updPwr fun p => { p with wakeLow := none }, low)
  | none => (m.free.2, m.free.1.getLsbD 0)

/-- A write of PWR_CTRL (R42, R44). A rejected request leaves TARGET unchanged; TOUCH_WAKE is stored, and TARGET =
RUN does not end Idle (log entry 24). -/
def Mach.pwrWrote (m was : Mach) (v : Word) : Mach :=
  let t := bitsOf v.toNat 0 2
  if t < 2 then m
  else
    let w := m.wakeLevel
    let m := w.1
    let c := m.requestReject v w.2
    if c = 0 then m.updPwr fun p => { p with phase := .entering, toDormant := t == 3 }
    else
      let m := m.put Fld.SYS_PWR_CTRL_TARGET (was.get Fld.SYS_PWR_CTRL_TARGET)
      (m.put Fld.SYS_PWR_STATUS_REQ_REJECT 1).put Fld.SYS_PWR_STATUS_REJECT_CAUSE c

/-- Keep is reached: what R47, R350 and R452 name stays. -/
def Mach.keepState (m : Mach) : Mach :=
  let r := (m.resetTo .keep).keepRegs m (powerKept ++ touchKept)
  let r := { r with time := m.time, dpll := { m.dpll with held := m.dpllF } }
  let r := r.put Fld.SYS_PWR_STATUS_BOOT_READY 0
  let r := r.put Fld.SYS_PWR_STATUS_STATE 0
  r.updTouch fun t =>
    { t with wakeBurst := m.touchBurst, wakeNeg := m.get Fld.TOUCH_RECAL_NEG_RECAL }

/-- A domain as it starts after Keep, by the state it had: the DPLL's where it was its active input (R335, R350). -/
def domAfterKeep (long : Bool) (own : DomState) (d : Domain) : Domain :=
  { Domain.reset with
    st := match own with
      | .locked | .holdover => if long then .lost else .holdover
      | x => x
    trk := { Tracker.reset with integ := d.trk.integ + d.trk.pull }
    ofs := d.ofs }

/-- Exit from Keep (R47, R48, R350): the rails come up again, and LOCAL runs on from the TCXO until they
have (log entry 24). -/
def Mach.keepExit (m : Mach) (wakeCause : Nat) : Mach :=
  -- 600 s of TCXO periods of 25 ns
  let long := decide (24000000000 < m.pwr.keepTicks)
  let r := (m.resetTo .railsRise).keepRegs m (powerKept ++ touchKept)
  let r := { r with
    time := { m.time with
      domA := domAfterKeep long (m.domOwn 0) m.time.domA
      domB := domAfterKeep long (m.domOwn 1) m.time.domB
      exchange := none }
    dpll := { Dpll.reset with
      st := if long then .lost else .holdover
      held := m.dpll.held
      trk := { Tracker.reset with integ := m.dpll.held } } }
  let r := r.put Fld.SYS_PWR_STATUS_WAKE_CAUSE wakeCause
  r.put Fld.SYS_RESET_CAUSE_CAUSE 2

/-- One TCXO period in Keep: 6.25 × TIME.INCR, at the frequency held (R47). -/
def Mach.keepTick (m : Mach) : Mach :=
  let incr := ((1 + m.dpll.held) * (2 ^ 30 : Nat) + 1 / 2).floor
  let step := wholeOf ((25 : Rat) * (incr : Rat) / 4)
  let m := m.updPwr fun p => { p with keepTicks := p.keepTicks + 1 }
  { m with time := { m.time with
      now := wrapTime ((m.time.now : Int) + step)
      domA := { m.time.domA with ofs := m.time.domA.ofs + wholeOf ((step : Rat) * m.domRate 0) }
      domB := { m.time.domB with ofs := m.time.domB.ofs + wholeOf ((step : Rat) * m.domRate 1) } } }

def Mach.keepTickN (m : Mach) : Nat → Mach
  | 0 => m
  | n + 1 => m.keepTick.keepTickN n

/-! ### Boot (R84 to R94) -/

def bootESel : Nat := 0x01
def bootEDramTrain : Nat := 0x02
def bootEQspi : Nat := 0x03
def bootEMagic : Nat := 0x04
def bootEFormat : Nat := 0x05
def bootELength : Nat := 0x06
def bootEKey : Nat := 0x07
def bootESignature : Nat := 0x08
def bootESegment : Nat := 0x09
def bootEEntry : Nat := 0x0A
def bootENoLock : Nat := 0x0B

def Mach.stage (m : Mach) : Nat := m.get Fld.BOOT_STATUS_STAGE
def Mach.setStage (m : Mach) (n : Nat) : Mach := m.put Fld.BOOT_STATUS_STAGE n

/-- Boot stops at a check (R92). -/
def Mach.bootHalt (m : Mach) (code : Nat) : Mach :=
  (m.put Fld.BOOT_STATUS_CODE code).updBoot fun b => { b with halted := true }

/-- The boot ROM starts (R50 step 4, R92 step 1). -/
def Mach.bootStart (m : Mach) (sel : Nat) : Mach :=
  let m := (m.toPhase .on).updBoot fun b => { b with romStarted := true }
  let m := m.put Fld.BOOT_STATUS_SEL sel
  if sel % 4 = 3 then m.bootHalt bootESel else m

/-- The written bits are cleared (R92 step 2); the boot source comes next (steps 3, R88). -/
def Mach.bootCleared (m : Mach) : Mach :=
  let m := { m with written := [] }
  let m := m.updBoot fun b => { b with fsCleared := true }
  if m.boot.halted || !m.boot.romStarted || m.stage != 0 then m
  else if m.get Fld.BOOT_STATUS_SEL = 0 then (m.setStage 1).send (.qspi 0x13 25 0 0)
  else m.setStage 2

/-- An image in the staging region, as the boot ROM on SEQ23 reads it. -/
def Mach.staged (m : Mach) (off n : Nat) : Mach × List Byte :=
  let r := m.fsRead (mstSeq 23) off n
  (r.1, r.2.1)

/-- Bytes of an image that R89 reserves, and segment entries from SEG_COUNT onward. -/
def headerReserved (h : List Byte) : Bool :=
  let zero (off n : Nat) : Bool := ((h.drop off).take n).all (· == 0)
  let count := leNat ((h.drop 6).take 2)
  zero 0x00C 4 && bitsOf (leNat ((h.drop 0x11).take 1)) 1 3 == 0 && zero 0x012 2 &&
  zero 0x018 40 && zero 0x0A1 31 && zero 0x220 480 &&
  zero (0x0C0 + 16 * count) (256 - 16 * count)

/-- The header checks of R92, steps 4 to 7; `len` is the length a host announced. -/
def headerCheck (h : List Byte) (len : Option Nat) : Option Nat :=
  let num (off n : Nat) : Nat := leNat ((h.drop off).take n)
  let total := num 8 4
  let key := (h.drop 0x40).take 97
  if h.take 4 ≠ [0x4E, 0x56, 0x42, 0x49] then some bootEMagic
  else if num 4 2 ≠ 1 ∨ num 6 2 = 0 ∨ 16 < num 6 2 ∨ headerReserved h = false then some bootEFormat
  else if total < 0x400 ∨ 0x800000 < total ∨ (len.getD total) ≠ total then some bootELength
  else if sha384 key ≠ Config.keyHash then some bootEKey
  else none

/-- The signature check of R90. -/
def signatureOk (image : List Byte) : Bool :=
  let key := (image.drop 0x40).take 97
  key.headD 0 == 4 &&
  ecdsaValid (sha384 (image.take 0x1C0 ++ image.drop 0x400))
    (beNat ((key.drop 1).take 48)) (beNat (key.drop 49))
    (beNat ((image.drop 0x1C0).take 48)) (beNat ((image.drop 0x1F0).take 48))

/-- A segment of an image: destination, length, offset. -/
structure Segment where
  dest : Nat
  len : Nat
  off : Nat
  deriving DecidableEq, Repr

def segmentsOf (h : List Byte) : List Segment :=
  (List.range (leNat ((h.drop 6).take 2))).map fun i =>
    let e := h.drop (0x0C0 + 16 * i)
    ⟨leNat (e.take 8), leNat ((e.drop 8).take 4), leNat ((e.drop 12).take 4)⟩

/-- The regions a segment may lie in (R91). -/
def segmentRegion (s : Segment) : Bool :=
  let within (lo hi : Nat) : Bool := decide (lo ≤ s.dest ∧ s.dest + s.len ≤ hi)
  within 0 0x700000000 || within (fsBase + 0x800000) (fsBase + 0x7C00000) ||
  (List.range 24).any fun n =>
    within (seqRamBase n) (seqRamBase n + 0x8000) ||
    within (seqDataBase n) (seqDataBase n + 0x4000)

def segmentOk (total : Nat) (s : Segment) : Bool :=
  s.dest % 4 == 0 && s.len % 4 == 0 && s.len != 0 && segmentRegion s &&
  decide (0x400 ≤ s.off) && decide (s.off + s.len ≤ total)

/-- Segments that share no byte. -/
def segmentsApart : List Segment → Bool
  | [] => true
  | a :: r =>
    (r.all fun b => !overlaps a.dest (a.dest + a.len - 1) b.dest (b.dest + b.len - 1)) &&
      segmentsApart r

/-- The segment and entry checks of R91. -/
def segmentCheck (h : List Byte) : Option Nat :=
  let segs := segmentsOf h
  let seq := leNat ((h.drop 0x10).take 1)
  let pc := leNat ((h.drop 0x14).take 4)
  if (segs.all (segmentOk (leNat ((h.drop 8).take 4)))) = false ∨ segmentsApart segs = false then
    some bootESegment
  else if 24 ≤ seq ∨ pc % 4 ≠ 0 ∨ 0x8000 ≤ pc ∨
      (segs.any fun s => decide (s.dest ≤ seqRamBase seq + pc ∧
        seqRamBase seq + pc + 4 ≤ s.dest + s.len)) = false then some bootEEntry
  else none

/-- The image is in staging: stage 3 and the checks before the signature (R92 steps 4 to 7). -/
def Mach.bootVerify (m : Mach) (len : Option Nat) : Mach :=
  let r := (m.setStage 3).staged 0 0x400
  match headerCheck r.2 len with
  | some c => r.1.bootHalt c
  | none => r.1.updBoot fun b => { b with imageLen := some (leNat ((r.2.drop 8).take 4)) }

/-- Step 10 of R92: wait for the zero-fill, or report a training failure. -/
def Mach.bootWait (m : Mach) : Mach :=
  if m.stage ≠ 4 ∨ m.boot.halted = true then m
  else match m.boot.trainFail with
    | some lane => (m.put Fld.BOOT_STATUS_LANE lane).bootHalt bootEDramTrain
    | none => if m.boot.zeroFilled then m.setStage 5 else m

/-- The signature verification ends (R92 steps 8 and 9). -/
def Mach.bootSigned (m : Mach) : Mach :=
  if m.stage ≠ 3 ∨ m.boot.halted = true then m
  else match m.boot.imageLen with
    | none => m
    | some n =>
      let r := m.staged 0 n
      if !signatureOk r.2 then r.1.bootHalt bootESignature
      else match segmentCheck r.2 with
        | some c => r.1.bootHalt c
        | none => ((r.1.updBoot fun b => { b with verified := true }).setStage 4).bootWait

/-- The read of the flash after its first 1 KiB, as QSPI_CFG of the header sets it (R87). -/
def Mach.flashRest (m : Mach) (image : List Byte) : Mach :=
  let cfg := leNat ((image.drop 0x11).take 1)
  m.send (if cfg % 2 = 1 then .qspi 0xEC 100 (cfg / 16) 0x400 else .qspi 0x13 25 0 0x400)

/-- The boot image read from flash (R87): a flash that returns all 0xFF or all 0x00 fails. -/
def Mach.bootFlash (m : Mach) (image : List Byte) : Mach :=
  if m.stage ≠ 1 ∨ m.boot.halted = true then m
  else
    let m := m.flashRest image
    let four := image.take 4
    if four = List.replicate 4 0xFF ∨ four = List.replicate 4 0 then m.bootHalt bootEQspi
    else (m.fsWrite (mstSeq 23) 0 (image.take 0x800000)).bootVerify none

/-- A write of HOST_LOAD (R88): GO is accepted only at STAGE 2. -/
def Mach.bootWrote (m : Mach) (off : Nat) (v : Word) : Mach :=
  if off = 0x004 ∧ v.getLsbD 31 = true ∧ m.stage = 2 ∧ m.boot.halted = false then
    m.bootVerify (some (bitsOf v.toNat 0 24))
  else m

/-- Copy one segment from staging (R92 step 11); one for SEQ23's own instruction RAM is copied as well, though
SEQ23 is RUNNING (R105, log entry 24). -/
def Mach.copySegment (m : Mach) (s : Segment) : Mach :=
  let r := m.staged s.off s.len
  match placeOf s.dest with
  | .seqRam _ _ => r.1.ramWrites s.dest r.2 (wordParts 4 s.dest s.len)
  | _ => r.1.memWrite (mstSeq 23) s.dest r.2

/-- The segments are copied and the boot code starts (R92 steps 11 and 12). -/
def Mach.bootCopied (m : Mach) : Mach :=
  if m.stage ≠ 5 ∨ m.boot.halted = true then m
  else
    let r := m.staged 0 0x400
    let m := (segmentsOf r.2).foldl Mach.copySegment r.1
    let entry := leNat ((r.2.drop 0x10).take 1)
    let pc := leNat ((r.2.drop 0x14).take 4)
    -- SEQ23 leaves ROM mode and is IDLE, with PC and w1 to w31 at 0 (log entry 24)
    let m := m.setStage 6
    let m := (m.put (Fld.SEQ_STATUS_STATE 23) sqIdle).put (Fld.SEQ_STATUS_WAIT_KIND 23) 0
    let m := (m.setSeq 23 .reset).setPc 23 0
    (m.setPc entry pc).seqStart entry

/-- The write that sets PROT.BOOT_LOCK is the instant of boot-ready (R93, R94); a CODE of BOOT_E_NO_LOCK stays
(log entry 24). -/
def Mach.bootLocked (m : Mach) : Mach :=
  let m := m.put Fld.SYS_PWR_STATUS_BOOT_READY 1
  ((m.setStage 7).raise evBootLock).updProtected

/-- A byte lane passes at a point: its read and write eyes are at least 25 % of a unit interval wide, and its
command eye is at least 30 % (R360). -/
def lanePasses (e : LaneEyes) : Bool := decide (25 ≤ e.read ∧ 25 ≤ e.write ∧ 30 ≤ e.command)

/-- A byte lane of a channel failed at some point. -/
def laneFails (r : ChannelTraining) (b : Nat) : Bool :=
  r.eyes.any fun e => e.byte == b && !lanePasses e

/-- The failing byte lanes of a channel: bit b for byte lane b. -/
def failingLanes (r : ChannelTraining) : Nat := (laneFails r 0).toNat + 2 * (laneFails r 1).toNat

/-- The points at which both byte lanes were trained and passed. -/
def passedPoints (r : ChannelTraining) : Nat :=
  ((List.range 4).filter fun p =>
    [0, 1].all fun b => r.eyes.any (fun e => e.point == p && e.byte == b) &&
      r.eyes.all fun e => e.point != p || e.byte != b || lanePasses e).foldl (fun a p => a + 2 ^ p) 0

/-- The smallest eye measured. -/
def smallestEye (r : ChannelTraining) : Nat :=
  ((r.eyes.flatMap fun e => [e.read, e.write, e.command]).min?).getD 0

/-- Byte lanes of a channel failed; `kind` is the FAIL_KIND. -/
def Mach.lanesFail (m : Mach) (kind : Nat) (f : LaneFailure) : Mach :=
  let g := f.channel / 4
  let c := f.channel % 4
  ((m.put (Fld.DRAMC_CH_TRAIN_FAIL g c) 1).put (Fld.DRAMC_CH_TRAIN_FAIL_KIND g c) kind).put
    (Fld.DRAMC_CH_TRAIN_FAIL_BYTE g c) f.bytes

/-- Record what training found on a channel; `kind` is the FAIL_KIND of a failure. -/
def Mach.trainResult (m : Mach) (kind : Nat) (r : ChannelTraining) : Mach :=
  let m := m.put (Fld.DRAMC_CH_TRAIN_MARGIN (r.channel / 4) (r.channel % 4)) (smallestEye r)
  if failingLanes r = 0 then m else m.lanesFail kind ⟨r.channel, failingLanes r⟩

/-- The failing byte lanes of a channel, channel × 2 + byte. -/
def trainLanes (r : ChannelTraining) : List Nat :=
  ([0, 1].filter (laneFails r)).map fun b => r.channel * 2 + b

/-- DRAM training ends at power-up (R360). -/
def Mach.bootTrained (m : Mach) (rs : List ChannelTraining) : Mach :=
  let m := rs.foldl (fun m r =>
    (m.trainResult 1 r).put (Fld.DRAMC_CH_TRAIN_OP_TRAINED (r.channel / 4) (r.channel % 4)) (passedPoints r)) m
  let fails := rs.flatMap trainLanes
  (m.updBoot fun b => { b with trained := fails.isEmpty, trainFail := fails.min? }).bootWait

/-- The zero-fill ends (R361): all DRAM reads zero with valid check bytes, and masters reach it. -/
def Mach.bootZeroFilled (m : Mach) : Mach :=
  if !m.boot.trained then m
  else
    let m := { m with
      mem := m.mem.filter fun c => decide (0x700000000 ≤ c.1)
      flips := m.flips.filter fun e => decide (0x700000000 ≤ e.1) }
    (m.updBoot fun b => { b with zeroFilled := true }).releaseHeld.bootWait

/-! ### Board management over I²C (R55) -/

/-- STATE of the telemetry. -/
def Mach.telemetryState (m : Mach) : Nat :=
  (if m.pwr.phase = .keep then 2 else m.get Fld.SYS_PWR_STATUS_STATE) +
  (if m.pwr.tripLatched then 2 ^ 8 else 0) +
  (if m.is Fld.SYS_PWR_STATUS_VIN_LOW then 2 ^ 9 else 0) +
  (if m.pwr.railLatched then 2 ^ 10 else 0)

/-- The eight bytes of telemetry: measured temperature, VIN and current, and STATE. -/
def Mach.telemetry (m : Mach) (temp : Int) (vin cur : Nat) : List Byte :=
  toBE 2 (twosOf 16 temp) ++ toBE 2 vin ++ toBE 2 cur ++ toBE 2 m.telemetryState

/-- A byte of telemetry; the spec gives nothing at offsets from 8 on, where the byte is free. -/
def Mach.telemetryBytes (m : Mach) (t : List Byte) : List Nat → Mach × List Byte
  | [] => (m, [])
  | o :: r =>
    if o < 8 then
      let q := m.telemetryBytes t r
      (q.1, t.getD o 0 :: q.2)
    else
      let q := m.free.2.telemetryBytes t r
      (q.1, m.free.1.truncate 8 :: q.2)

/-- An upper-case hexadecimal digit in ASCII. -/
def hexDigit (d : Nat) : Byte := BitVec.ofNat 8 (if d < 10 then 0x30 + d else 0x37 + d)

/-- A byte of the identity EEPROM. -/
def eepromByte (uid : Nat) (o : Nat) : Byte :=
  let code : List Byte := [0x4E, 0x56, 0x2D, 0x57, 0x36, 0x34, 0x34, 0x30, 0x2D]
  let grade : Byte := if Config.industrial then 0x49 else 0x43
  if o < 9 then code.getD o 0
  else if o = 9 then grade
  else if o < 0x10 then 0
  else if o = 0x10 then grade
  else if 0x20 ≤ o ∧ o < 0x28 then hexDigit (uid / 16 ^ (0x27 - o) % 16)
  else if 0x28 ≤ o ∧ o < 0x30 then 0
  else 0xFF

/-- The I²C target answers from power-up step 4 on, in Keep, and where R51 has it report a latched rail
failure. During an entry into Keep or Dormant it is silent (log entry 24). -/
def Mach.i2cActive (m : Mach) : Bool :=
  (m.pwr.phase == .on && m.boot.romStarted) || m.pwr.phase == .keep ||
  (m.pwr.phase == .off && m.pwr.railLatched)

end Sys2Proof.Machine
end

