-- ==== Sys2Proof/Machine/ChainOps.lean ====
section
/-! DEFINITION. The PCI Express endpoint, the Apbud chain and its enumeration (R58 to R83, R481). -/

namespace Sys2Proof.Machine

def Mach.updPcie (m : Mach) (f : Pcie → Pcie) : Mach := { m with pcie := f m.pcie }

/-! ### Roles and enumeration (R79 to R83) -/

/-- Complete a remote read with all ones and count it (R74). -/
def Mach.readTimedOut (m : Mach) (r : RemoteRead) : Mach :=
  ((m.send (.hostRead (List.replicate r.len 0xFF))).count Fld.CHAIN_HOST_ERR_TIMEOUT).monSample 11 r.target
    (some 0x3F) (m.time.now / 2 ^ 28 - r.sentNs)

/-- End every outstanding read to a chain address above `p` (R74). -/
def Mach.endReadsAbove (m : Mach) (p : Nat) : Mach :=
  (m.chain.reads.filter fun r => decide (p < r.target)).foldl Mach.readTimedOut
    (m.updChain fun c => { c with reads := c.reads.filter fun r => decide (r.target ≤ p) })

/-- An enumeration ends (R80). -/
def Mach.enumFinish (m : Mach) (count : Nat) (overflow : Bool) : Mach :=
  let m := m.put Fld.CHAIN_STATUS_COUNT count
  let m := m.putB Fld.CHAIN_STATUS_OVERFLOW overflow
  let m := m.put Fld.CHAIN_STATUS_ENUM_BUSY 0
  (m.updChain fun c => { c with routed := count }).raise evChainEnumDone

/-- The head starts an enumeration (R80). -/
def Mach.enumStart (m : Mach) : Mach :=
  let m := m.countWrap Fld.CHAIN_STATUS_GEN
  let m := (m.put Fld.CHAIN_STATUS_ADDR 0).put Fld.CHAIN_STATUS_ADDR_VALID 1
  if m.portUp false then
    (m.put Fld.CHAIN_STATUS_ENUM_BUSY 1).sendChain false (.token 1 (m.get Fld.CHAIN_STATUS_GEN))
  else m.enumFinish 1 false

/-- Take the role the links give (R79). Becoming the head for the first time enumerates (R80). -/
def Mach.takeRole (m : Mach) : Mach :=
  let head := m.pcie.linkUp && !m.portUp true
  let m := m.putB Fld.CHAIN_STATUS_HEAD head
  let m := if m.pcie.linkUp && m.portUp true then m.put Fld.CHAIN_STATUS_ROLE_CONFLICT 1 else m
  if head && !m.chain.wasHead then
    (m.updChain fun c => { c with wasHead := true }).enumStart
  else m

/-- The head learns of a link change at position `p` (R74, R81). -/
def Mach.linkChangeAt (m : Mach) (p : Nat) : Mach :=
  ((m.endReadsAbove p).updChain fun c => { c with routed := min c.routed (p + 1) }).enumStart

/-- A port changes between UP and not UP (R71, R80, R81). A member without a chain address has none to report
and sends nothing (log entry 14). -/
def Mach.linkChange (m : Mach) (up : Bool) : Mach :=
  let m := if up && !m.portUp true then
      (m.put Fld.CHAIN_STATUS_ADDR_VALID 0).updChain fun c => { c with enumPass := false }
    else m
  let m := m.raise evChainLink
  if up then m.takeRole
  else if m.isHead then m.linkChangeAt 0
  else if m.is Fld.CHAIN_STATUS_ADDR_VALID then
    m.sendChain true (.report (m.get Fld.CHAIN_STATUS_ADDR))
  else m

def portField (up : Bool) : Fld := if up then Fld.CHAIN_STATUS_UP_UP else Fld.CHAIN_STATUS_DOWN_UP

/-- A port reaches UP. -/
def Mach.portRises (m : Mach) (up : Bool) : Mach :=
  if m.portUp up then m
  else ((m.updPort up fun _ => ApPort.reset).put (portField up) 1).linkChange up

/-- A port goes down (R71). -/
def Mach.portFalls (m : Mach) (up : Bool) : Mach :=
  if m.portUp up then
    ((m.updPort up fun _ => ApPort.reset).put (portField up) 0).linkChange up
  else m

/-- A report of a link change arrives (R81). -/
def Mach.reportArrives (m : Mach) (p : Nat) : Mach :=
  if m.isHead then m.linkChangeAt p else m.sendChain true (.report p)

/-- A token arrives at the UP port of a member (R80). -/
def Mach.tokenArrives (m : Mach) (value gen : Nat) : Mach :=
  if m.isHead || !m.portUp true then m
  else if value ≤ 63 then
    let m := m.put Fld.CHAIN_STATUS_ADDR value
    let m := (m.put Fld.CHAIN_STATUS_ADDR_VALID 1).put Fld.CHAIN_STATUS_GEN gen
    let m := m.updChain fun c => { c with enumPass := m.portUp false }
    if m.portUp false then m.sendChain false (.token (value + 1) gen)
    else m.sendChain true (.endOf (value + 1) false)
  else
    ((m.put Fld.CHAIN_STATUS_ADDR_VALID 0).put Fld.CHAIN_STATUS_OVERFLOW 1).sendChain true
      (.endOf 64 true)

/-- END arrives from below (R80). -/
def Mach.endArrives (m : Mach) (count : Nat) (overflow : Bool) : Mach :=
  if m.isHead then m.enumFinish count overflow
  else (m.updChain fun c => { c with enumPass := false }).sendChain true (.endOf count overflow)

/-- A forwarded event arrives from below (R67, R78, R60). -/
def Mach.eventArrives (m : Mach) (origin : Nat) : Mach :=
  if m.chainRoot then (m.raiseVector origin).1 else m.forwardEvent origin

/-- A write of ENUM_CTRL: START on the head, unless an enumeration runs. -/
def Mach.chainWrote (m : Mach) (off : Nat) (v : Word) : Mach :=
  if off = 0x004 ∧ v.getLsbD 0 = true ∧ m.isHead = true ∧
      m.is Fld.CHAIN_STATUS_ENUM_BUSY = false then m.enumStart
  else m

/-! ### Flits (R70, R71) -/

/-- The flit that the port expects has come, or one of class TIME that will not be replayed: the port then
expects the first number that has not passed. -/
def Mach.flitTaken (m : Mach) (up : Bool) (seq : Nat) : Mach :=
  m.updPort up fun p =>
    let l := if p.rxNext ≤ seq then insertNat p.passed seq else p.passed
    let next := l.foldl (fun n s => if s = n then n + 1 else n) p.rxNext
    { p with rxNext := next, passed := l.filter fun s => decide (next ≤ s) }

/-- A flit arrives: acknowledged, or refused and counted within the last millisecond. More than 32
refusals take the port down. A flit of class TIME is taken at once, or discarded when refused; it is not
replayed, and the port does not wait for it. -/
def Mach.flitArrives (m : Mach) (up : Bool) (seq : Nat) (time : Bool) (bytes : List Byte)
    (crc : Word) : Mach :=
  if !m.portUp up then m
  else if crc32c bytes = crc then
    if time ∨ seq = (m.apPort up).rxNext then
      (m.flitTaken up seq).send (if up then .chainUpAck seq else .chainDownAck seq)
    else m
  else
    let recent := ((m.apPort up).refusals.filter fun t => decide (m.time.ticks < t + 250000))
    let m := m.updPort up fun p => { p with refusals := m.time.ticks :: recent }
    let n := if time then seq else (m.apPort up).rxNext
    let m := if time then m.flitTaken up seq else m
    let m := m.send (if up then .chainUpRefuse n else .chainDownRefuse n)
    if 32 < recent.length + 1 then m.portFalls up else m

/-- The neighbour refuses from a flit on: it and those after it are sent again, oldest first. -/
def Mach.replayFrom (m : Mach) (up : Bool) (seq : Nat) : Mach :=
  let l := ((m.apPort up).replay.filter fun e => decide (seq ≤ e.1)).reverse
  l.foldl (fun m e => m.send (if up then .chainUp e.2 else .chainDown e.2)) m

/-! ### Relay traffic (R77) -/

/-- A RELAY packet waits at a port for the other classes and for credit. -/
def Mach.sendRelay (m : Mach) (up : Bool) (item : RelayItem) : Mach :=
  if !m.portUp up then m else m.updPort up fun p => { p with relayHeld := p.relayHeld ++ [item] }

/-- The neighbour gives or withdraws RELAY credit. -/
def Mach.relayCredit (m : Mach) (up credit : Bool) : Mach := m.updPort up fun p => { p with credit := credit }

/-- Drop the packet a port holds; what it belonged to. -/
def Mach.relayDrop (m : Mach) (up : Bool) : Mach × Option RelayItem :=
  match (m.apPort up).relayHeld with
  | [] => (m, none)
  | i :: r => (m.updPort up fun p => { p with relayHeld := r }, some i)

/-- Host memory can be reached for a host queue: at the head by its link, from a member up the chain (R59,
R60, R77). -/
def Mach.hostReaches (m : Mach) : Bool :=
  (m.pcie.linkUp && !m.pcie.d3hot && m.isHead) ||
  !(m.chainRoot || !m.is Fld.CHAIN_STATUS_ADDR_VALID || !m.portUp true)

/-- Write to host memory for a host queue: at the head, or up the chain; false where the traffic is
dropped (R60, R77, R83). In D3hot no write leaves, and the packet is dropped as with the link down (R59, log
entry 29). -/
def Mach.hostWrite (m : Mach) (hq addr : Nat) (bytes : List Byte) : Mach × Bool :=
  if m.pcie.linkUp && !m.pcie.d3hot && m.isHead then (m.send (.hostWrite addr bytes), true)
  else if m.chainRoot || !m.is Fld.CHAIN_STATUS_ADDR_VALID || !m.portUp true then (m, false)
  else (m.sendRelay true ⟨true, hq, .hostWrite addr bytes⟩, true)

/-- Host-queue traffic arrives from below: written at the head, passed on by a member, dropped and
counted by an orphan. -/
def Mach.relayArrives (m : Mach) (hq addr : Nat) (bytes : List Byte) : Mach :=
  let r := m.hostWrite hq addr bytes
  if r.2 then r.1 else r.1.count (Fld.INGEST_HQ_DROP_COUNT hq)

/-! ### Links of the PCIE block (R59, R60, R79) -/

/-- The link goes down; a reset of the block also clears its registers and its MSI-X table (R53). -/
def Mach.pcieDown (m : Mach) (reset : Bool) : Mach :=
  let m := m.updPcie fun p => { p with linkUp := false, d3hot := false }
  let m := if reset then
      { m.updPcie fun p => { p with vecs := [] } with
        regs := m.regs.filter fun e => e.1 / 0x10000 % 0x100 != 0x0E }
    else m
  m.takeRole

/-- Send the message of a vector whose pending bit is set, once it may go. -/
def Mach.deliverPending (m : Mach) (v : Nat) : Mach :=
  if (m.vec v).pendingBit && !(m.vec v).masked && m.pcie.linkUp && !m.pcie.d3hot then
    (m.setVec v { m.vec v with pendingBit := false }).send (.msix v)
  else m

def Mach.d3Enter (m : Mach) : Mach :=
  if m.pcie.linkUp then m.updPcie fun p => { p with d3hot := true } else m

/-- The messages whose vectors are not masked go. -/
def Mach.deliverAll (m : Mach) : Mach := forEach (List.range 64) m Mach.deliverPending

/-- The link comes up: the role it gives, and what became pending in D3hot before it fell. -/
def Mach.pcieUp (m : Mach) : Mach := (m.updPcie fun p => { p with linkUp := true }).takeRole.deliverAll

def Mach.d3Exit (m : Mach) : Mach :=
  (m.updPcie fun p => { p with d3hot := false }).deliverAll

/-! ### The MSI-X table (R58, R481) -/

/-- A word of the table or of the pending bit array, as a read through BAR4 finds it. -/
def Mach.msixWord (m : Mach) (o : Nat) : Word :=
  if o < 0x400 then
    let v := m.vec (o / 16)
    match o / 4 % 4 with
    | 0 => v.addrLo
    | 1 => v.addrHi
    | 2 => v.data
    | _ => if v.masked then 1 else 0
  else if o = 0x2000 ∨ o = 0x2004 then
    BitVec.ofNat 32 (((List.range 32).filter fun b =>
      (m.vec (b + (o - 0x2000) * 8)).pendingBit).foldl (fun a b => a + 2 ^ b) 0)
  else 0

/-- A write through BAR4: the pending bit array is read-only; unmasking delivers what is pending. -/
def Mach.msixWrite (m : Mach) (o : Nat) (w : Word) : Mach :=
  if 0x400 ≤ o then m
  else
    let i := o / 16
    let v := m.vec i
    match o / 4 % 4 with
    | 0 => m.setVec i { v with addrLo := w }
    | 1 => m.setVec i { v with addrHi := w }
    | 2 => m.setVec i { v with data := w }
    | _ => (m.setVec i { v with masked := w.getLsbD 0 }).deliverPending i

/-- The host reaches the BARs: link up, in D0. -/
def Mach.barsOpen (m : Mach) : Bool := m.pcie.linkUp && !m.pcie.d3hot

/-- An access to a BAR of a module that is no head is refused (R79). -/
def Mach.barRefused (m : Mach) : Mach := (m.send .unsupported).put Fld.CHAIN_STATUS_ROLE_CONFLICT 1

/-- An access to the table or the pending bits takes effect. -/
def Mach.msixDo (m : Mach) (o : Nat) (w : Option Word) : Mach :=
  match w with
  | some w => m.msixWrite o w
  | none => m.send (.hostRead (wordLE (m.msixWord o)))

/-- Where a held access through BAR4 stands among device addresses: beyond them all. -/
def msixBase : Nat := 0x20000000000

/-- An access through BAR4; it waits behind an earlier one of the host that does (R73). -/
def Mach.msixAccess (m : Mach) (o : Nat) (w : Option Word) : Mach :=
  if !m.barsOpen then m
  else if !m.isHead then m.barRefused
  else if m.hostWaits mstHost then m.holdAccess mstHost (msixBase + o) 4 (w.map wordLE) .host []
  else m.msixDo o w

/-! ### Remote accesses (R62 to R66, R72 to R74) -/

/-- An access to a window without a module (R62). -/
def Mach.absentAccess (m : Mach) (len : Nat) (write : Bool) : Mach :=
  let m := m.count Fld.CHAIN_HOST_ERR_ABSENT
  if write then m else m.send (.hostRead (List.replicate len 0xFF))

/-- The head sends a REG request down the chain; at most 128 reads are outstanding, beyond which the
access waits at the host (R72). -/
def Mach.remoteRequest (m : Mach) (target addr len : Nat) (bar2 : Bool)
    (data : Option (List Byte)) : Mach :=
  if m.chain.routed ≤ target then m.absentAccess len data.isSome
  else if data.isSome then m.sendChain false (.request 0 target addr len bar2 data)
  else if 128 ≤ m.chain.reads.length then m
  else
    let tag := m.chain.nextTag
    let m := m.updChain fun c =>
      { c with nextTag := tag + 1, reads := c.reads ++ [⟨tag, target, len, m.time.now / 2 ^ 28⟩] }
    m.sendChain false (.request tag target addr len bar2 none)

/-- A completion arrives: at the head it ends the read; a member passes it on (R72). -/
def Mach.completionArrives (m : Mach) (tag : Nat) (data : List Byte) : Mach :=
  if m.isHead then
    match m.chain.reads.find? fun r => r.tag == tag with
    | some r =>
      let m := (m.updChain fun c => { c with reads := c.reads.filter fun r => r.tag != tag }).send
        (.hostRead data)
      m.monSample 11 r.target (some 0x3F) (m.time.now / 2 ^ 28 - r.sentNs)
    | none => m
  else m.sendChain true (.completion tag data)

/-- No completion for 120 µs (R74). -/
def Mach.readTimeout (m : Mach) (tag : Nat) : Mach :=
  (m.chain.reads.filter fun r => r.tag == tag).foldl Mach.readTimedOut
    (m.updChain fun c => { c with reads := c.reads.filter fun r => r.tag != tag })

/-- A memory access through a BAR2 sub-window that reaches register space or the boot ROM, or lies
beyond the address space, is unmapped (R64, R65). -/
def Mach.apertureAccess (m : Mach) (mst addr len : Nat) (data : Option (List Byte)) (r : Reply) :
    Mach :=
  let outside := match placeOf addr with
    | .regs _ _ | .bootRom _ | .unmapped => true
    | _ => decide (0x10000000000 ≤ addr)
  if outside then
    let m := m.violate (violUnmapped data.isSome) 511 mst addr
    if data.isSome then m
    else if m.hostWaits mst then m.holdAccess mst 0x10000000000 len none r []
    else m.replyRead mst (List.replicate len 0) r
  else m.memAccess mst addr len data r

/-- A host access through BAR2 (R64 to R66). -/
def Mach.bar2 (m : Mach) (off len : Nat) (data : Option (List Byte)) : Mach :=
  if !m.barsOpen then m
  else if !m.isHead then m.barRefused
  else
    let n := off / 0x40000000 % 4
    if !m.is (Fld.PCIE_AP_EN n) then
      let m := m.count Fld.CHAIN_HOST_ERR_AP_OFF
      if data.isSome then m else m.send (.hostRead (List.replicate len 0))
    else
      let addr := m.get (Fld.PCIE_AP_BASE n) * 0x100000 + off % 0x40000000
      let target := m.get (Fld.PCIE_AP_MODULE n)
      if target = 0 then m.apertureAccess mstHost addr len data .host
      else m.remoteRequest target addr len true data

end Sys2Proof.Machine
end

