-- ==== Sys2Proof/Machine/NetOps.lean ====
section
/-! DEFINITION. Frames as a port's parser reads them: Ethernet, IPv4, IPv6 and UDP (R140, R143, R144), RTP
and its header extensions (R150, R160, R161), the accepted packetizations (R151), NAL units and the SEI
message of R162. Multi-byte fields of packets are big-endian. -/

namespace Sys2Proof.Machine

/-! ### Ethernet (R140) -/

/-- One bit of the reflected IEEE 802.3 CRC-32. -/
def crc32Bit (c : Word) : Word := if c.getLsbD 0 then (c >>> 1) ^^^ 0xEDB88320 else c >>> 1

def crc32Byte (c : Word) (b : Byte) : Word :=
  let x := c ^^^ b.zeroExtend 32
  crc32Bit (crc32Bit (crc32Bit (crc32Bit (crc32Bit (crc32Bit (crc32Bit (crc32Bit x)))))))

/-- The FCS of a frame's bytes. -/
def fcs (bytes : List Byte) : Word := ~~~ (bytes.foldl crc32Byte 0xFFFFFFFF)

/-- Bytes `[a, a + n)` as a big-endian number. -/
def be (l : List Byte) (a n : Nat) : Nat := beNat ((l.drop a).take n)

/-- A byte as a number; 0 past the end. -/
def byteAt (l : List Byte) (a : Nat) : Nat := (l.getD a 0).toNat

/-- A frame as the parser sees it: no tag, one tag, or a second or S-tag (R143). -/
structure EthFrame where
  dst : Nat
  vid : Option Nat
  deepTag : Bool
  etherType : Nat
  /-- From the byte after the EtherType to the end, without FCS. -/
  body : List Byte
  deriving DecidableEq, Repr

/-- Read a frame without its FCS. -/
def ethFrame (f : List Byte) : EthFrame :=
  let t := be f 12 2
  if t = 0x8100 then
    let t2 := be f 16 2
    { dst := be f 0 6, vid := some (be f 14 2 % 0x1000), deepTag := t2 == 0x8100 || t2 == 0x88A8
      etherType := t2, body := f.drop 18 }
  else { dst := be f 0 6, vid := none, deepTag := t == 0x88A8, etherType := t, body := f.drop 14 }

def broadcastMac : Nat := 0xFFFFFFFFFFFF
def EthFrame.group (f : EthFrame) : Bool := f.dst / 2 ^ 40 % 2 == 1

/-! ### IP and UDP (R144) -/

/-- What the parser takes from an IP packet: version, addresses, upper-layer protocol, whether IPv6
extension headers stood before it, and the upper layer's bytes. -/
structure IpPacket where
  v6 : Bool
  src : Nat
  dst : Nat
  proto : Nat
  ext : Bool
  data : List Byte
  deriving DecidableEq, Repr

/-- One's complement sum of 16-bit words. -/
def onesSum : List Byte → Nat
  | [] => 0
  | [a] => a.toNat * 256
  | a :: b :: r => a.toNat * 256 + b.toNat + onesSum r

/-- The folded sum is all ones: a checksum that holds. -/
def sumGood (n : Nat) : Bool := n != 0 && n % 0xFFFF == 0

/-- What reading an IP packet gives. -/
inductive IpResult
  | ip (p : IpPacket)
  | malformed
  deriving DecidableEq, Repr

def ipv4 (b : List Byte) : IpResult :=
  let ihl := byteAt b 0 % 16 * 4
  let total := be b 2 2
  if byteAt b 0 / 16 != 4 || decide (ihl < 20) || decide (b.length < ihl) || decide (total < ihl) ||
      decide (b.length < total) || !sumGood (onesSum (b.take ihl)) || be b 6 2 % 0x4000 != 0
  then .malformed
  else .ip { v6 := false, src := be b 12 4, dst := be b 16 4, proto := byteAt b 9, ext := false
             data := (b.take total).drop ihl }

/-- Pass over Hop-by-Hop Options, Routing and Destination Options headers; a fragment header, or a header
that does not fit, gives none. -/
def skipExt : Nat → Nat → List Byte → Option (Nat × List Byte)
  | 0, _, _ => none
  | n + 1, proto, d =>
    if proto = 44 then none
    else if proto = 0 ∨ proto = 43 ∨ proto = 60 then
      let len := (byteAt d 1 + 1) * 8
      if d.length < len then none else skipExt n (byteAt d 0) (d.drop len)
    else some (proto, d)

/-- Protocol numbers of IPv6 extension headers. -/
def isExt (p : Nat) : Bool := [0, 43, 44, 50, 51, 60, 135, 139, 140, 253, 254].contains p

def ipv6 (b : List Byte) : IpResult :=
  let len := be b 4 2
  if byteAt b 0 / 16 != 6 || decide (b.length < 40 + len) then .malformed
  else
    let first := byteAt b 6
    match skipExt (b.length + 1) first ((b.drop 40).take len) with
    | none => .malformed
    | some (p, d) => .ip { v6 := true, src := be b 8 16, dst := be b 24 16, proto := p
                           ext := isExt first, data := d }

/-- A UDP datagram: destination port and payload; none where its length or its checksum is wrong. -/
def udpOf (p : IpPacket) : Option (Nat × List Byte) :=
  let len := be p.data 4 2
  let pseudo := onesSum (toBE 16 p.src ++ toBE 16 p.dst) + 17 + len
  if len < 8 ∨ len ≠ p.data.length then none
  else if be p.data 6 2 != 0 && !sumGood (pseudo + onesSum p.data) then none
  else some (be p.data 2 2, p.data.drop 8)

/-! ### RTP (R150) -/

structure RtpPacket where
  pt : Nat
  marker : Bool
  seq : Nat
  time : Word
  ssrc : Word
  /-- Profile and bytes of the header extension. -/
  ext : Option (Nat × List Byte)
  payload : List Byte
  deriving DecidableEq, Repr

/-- Read an RTP packet; none for a version other than 2 or a packet shorter than its headers. -/
def rtpOf (d : List Byte) : Option RtpPacket :=
  let b0 := byteAt d 0
  let head := 12 + 4 * (b0 % 16)
  let x := b0 / 16 % 2 == 1
  let xl := if x then be d (head + 2) 2 * 4 + 4 else 0
  let pad := if b0 / 32 % 2 == 1 then (d.getLastD 0).toNat else 0
  if b0 / 64 ≠ 2 ∨ d.length < head ∨ (x && decide (d.length < head + 4)) = true ∨
      d.length < head + xl + pad ∨ (b0 / 32 % 2 = 1 ∧ pad = 0) then none
  else some
    { pt := byteAt d 1 % 128, marker := byteAt d 1 / 128 == 1, seq := be d 2 2
      time := BitVec.ofNat 32 (be d 4 4), ssrc := BitVec.ofNat 32 (be d 8 4)
      ext := if x then some (be d head 2, (d.drop (head + 4)).take (xl - 4)) else none
      payload := (d.drop (head + xl)).take (d.length - head - xl - pad) }

/-! ### Header extensions and the liveness element (R160, R161) -/

/-- Elements of a one-byte form block: ID and data; none where the block is malformed. -/
def oneByteElems : Nat → List Byte → Option (List (Nat × List Byte))
  | 0, _ => some []
  | _, [] => some []
  | n + 1, b :: r =>
    let id := b.toNat / 16
    let len := b.toNat % 16 + 1
    if b.toNat = 0 then oneByteElems n r
    -- ID 15, and ID 0 with a length, end the block (RFC 8285)
    else if id = 15 ∨ id = 0 then some []
    else if r.length < len then none
    else (oneByteElems n (r.drop len)).map fun l => (id, r.take len) :: l

/-- Elements of a two-byte form block. -/
def twoByteElems : Nat → List Byte → Option (List (Nat × List Byte))
  | 0, _ => some []
  | _, [] => some []
  | n + 1, b :: r =>
    if b.toNat = 0 then twoByteElems n r
    else match r with
      | [] => none
      | l :: r =>
        if r.length < l.toNat then none
        else (twoByteElems n (r.drop l.toNat)).map fun e => (b.toNat, r.take l.toNat) :: e

/-- The elements of a header extension; a profile of neither form holds none. -/
def extElems (profile : Nat) (d : List Byte) : Option (List (Nat × List Byte)) :=
  if profile = 0xBEDE then oneByteElems d.length d
  else if profile / 16 = 0x100 then twoByteElems d.length d
  else some []

/-- Liveness data from the layout of R160, the valid bits of its counter alone; none where it is to be
ignored. -/
def livenessOf (d : List Byte) : Option Liveness :=
  let b0 := byteAt d 0
  let bits := byteAt d 1
  if (d.length = 4 ∨ d.length = 8) ∧ b0 / 16 = 1 ∧ 4 ≤ bits ∧ bits ≤ 16 then
    some { word := BitVec.ofNat 32 (be d 2 2 % 2 ^ bits * 2 ^ 16 + 2 ^ 15 + b0 / 8 % 2 * 2 ^ 14 +
             b0 / 4 % 2 * 2 ^ 13 + b0 / 2 % 2 * 2 ^ 12 + bits)
           adj := if d.length = 8 then signedOf 32 (be d 4 4) else 0 }
  else none

/-- What a packet's header extension gives. -/
inductive ExtResult
  | absent
  /-- The block is malformed: ignored whole. -/
  | badBlock
  /-- The liveness element is to be ignored. -/
  | badElem
  | live (l : Liveness)
  deriving DecidableEq, Repr

def extLive (livId : Nat) (ext : Option (Nat × List Byte)) : ExtResult :=
  match ext with
  | none => .absent
  | some (profile, d) => match extElems profile d with
    | none => .badBlock
    | some es =>
      if livId = 0 then .absent
      else match es.find? fun e => e.1 == livId with
        | none => .absent
        | some e => match livenessOf e.2 with
          | some l => .live l
          | none => .badElem

/-! ### Packetizations (R151) -/

/-- The payload's form is one that PAYLOAD accepts. -/
def packetizationOk (payload : Nat) (d : List Byte) : Bool :=
  let b0 := byteAt d 0
  match payload with
  | 0 =>
    let t := b0 % 32
    !d.isEmpty && (decide (1 ≤ t ∧ t ≤ 24) || (t == 28 && decide (2 ≤ d.length)))
  | 1 =>
    let t := b0 / 2 % 64
    decide (2 ≤ d.length) && (decide (t ≤ 48) || (t == 49 && decide (3 ≤ d.length)))
  | 2 =>
    let t := byteAt d 4
    let q := byteAt d 5
    let restart := t == 64 || t == 65 || t == 129
    let table := if restart then 12 else 8
    decide (8 ≤ d.length) && [0, 1, 64, 65, 128, 129].contains t &&
    (decide (1 ≤ q ∧ q ≤ 99) ||
     (decide (128 ≤ q) && (be d 1 3 != 0 || (decide (table + 4 ≤ d.length) && be d (table + 2) 2 != 0))))
  | _ => false

/-! ### NAL units and the SEI message (R162) -/

/-- NAL units of an aggregation packet, each with its 16-bit size. -/
def aggregated : Nat → List Byte → List (List Byte)
  | 0, _ => []
  | n + 1, d =>
    let len := be d 0 2
    if d.length < 2 ∨ len = 0 ∨ d.length < 2 + len then []
    else (d.drop 2).take len :: aggregated n (d.drop (2 + len))

/-- NAL units of packets in sequence order; `part` is the fragmented unit read so far, with the number
that its next fragment has. -/
def nalsOf (h265 : Bool) : Option (Nat × List Byte) → List IngPacket → List (List Byte)
  | _, [] => []
  | part, p :: r =>
    let d := p.payload
    let t := if h265 then byteAt d 0 / 2 % 64 else byteAt d 0 % 32
    let hdr := if h265 then 2 else 1
    if t = (if h265 then 48 else 24) then aggregated d.length (d.drop hdr) ++ nalsOf h265 none r
    else if t = (if h265 then 49 else 28) then
      let fu := byteAt d hdr
      let head : List Byte := if h265
        then [BitVec.ofNat 8 (byteAt d 0 / 128 * 128 + fu % 64 * 2 + byteAt d 0 % 2), d.getD 1 0]
        else [BitVec.ofNat 8 (byteAt d 0 / 32 * 32 + fu % 32)]
      let body := d.drop (hdr + 1)
      let now : Option (List Byte) := if fu / 128 = 1 then some (head ++ body)
        else match part with
          | some (n, l) => if n = p.seq then some (l ++ body) else none
          | none => none
      match now with
      | some l =>
        if fu / 64 % 2 = 1 then l :: nalsOf h265 none r else nalsOf h265 (some (p.seq + 1, l)) r
      | none => nalsOf h265 none r
    else d :: nalsOf h265 none r

/-- Remove emulation-prevention bytes; the count is of zero bytes just read. -/
def unescape : Nat → List Byte → List Byte
  | _, [] => []
  | z, b :: r =>
    if 2 ≤ z ∧ b = 3 then unescape 0 r
    else b :: unescape (if b = 0 then z + 1 else 0) r

/-- A value in the form of SEI messages: bytes of 0xFF add 255 each. -/
def seiValue : Nat → List Byte → Nat × List Byte
  | _, [] => (0, [])
  | 0, l => (0, l)
  | n + 1, b :: r => if b = 0xFF then ((seiValue n r).1 + 255, (seiValue n r).2) else (b.toNat, r)

/-- Messages of an SEI NAL unit's payload: type, size and bytes. -/
def seiMessages : Nat → List Byte → List (Nat × Nat × List Byte)
  | 0, _ => []
  | n + 1, d =>
    if d.length < 2 then []
    else
      let t := seiValue d.length d
      let s := seiValue d.length t.2
      (t.1, s.1, s.2.take s.1) :: seiMessages n (s.2.drop s.1)

/-- The uuid of R162. -/
def seiUuid : List Byte :=
  [0x4E, 0x56, 0x4C, 0x56, 0x2D, 0x53, 0x61, 0x72, 0x64, 0x75, 0x6E, 0x2D, 0x4C, 0x49, 0x56, 0x45]

/-- The SEI messages with this uuid in a unit's packets: the data that follows it, or none where the
message is to be ignored. -/
def seiLiveness (h265 : Bool) (ps : List IngPacket) : List (Option Liveness) :=
  (nalsOf h265 none ps).flatMap fun nal =>
    let sei := if h265 then byteAt nal 0 / 2 % 64 == 39 else byteAt nal 0 % 32 == 6
    if !sei then []
    else (seiMessages nal.length (unescape 0 (nal.drop (if h265 then 2 else 1)))).filterMap fun m =>
      if m.1 = 5 ∧ m.2.2.take 16 = seiUuid then
        some (if m.2.1 = 20 ∨ m.2.1 = 24 then livenessOf (m.2.2.drop 16) else none)
      else none

end Sys2Proof.Machine
end

