-- ==== Sys2Proof/Machine/Inflate.lean ====
section
/-! DEFINITION. Decoding of DEFLATE, zlib and gzip streams (R460, R461), with the conditions at which the
engine stops (R462). Bits count from the least significant bit of the first byte. -/

namespace Sys2Proof.Machine

/-! ### Codes of R462 -/

def dDone : Nat := 0x00
def dSuspended : Nat := 0x01
def dDesc : Nat := 0x10
def dHeader : Nat := 0x11
def dIllegal : Nat := 0x12
def dDistance : Nat := 0x13
def dLength : Nat := 0x14
def dCheck : Nat := 0x15
def dTrunc : Nat := 0x16
def dOverflow : Nat := 0x17
def dResume : Nat := 0x18
def dAccess : Nat := 0x19
def dFreeze : Nat := 0x1A

/-- A block that a stream held: BTYPE, where its output starts and its length, and the bit it starts at and
how many it takes. -/
structure DeflBlock where
  kind : Nat
  start : Nat
  len : Nat
  pos : Nat
  bits : Nat
  deriving DecidableEq, Repr

/-- Where decoding stands: bits read, and output, newest byte first. -/
structure Inf where
  pos : Nat
  out : List Byte
  deriving DecidableEq, Repr

/-- What a stage of decoding ends in: a value, a code of R462, or the end of the input. -/
inductive InfRes (α : Type)
  | ok (v : α) (s : Inf)
  | stop (code : Nat) (s : Inf)
  | short (s : Inf)
  deriving DecidableEq, Repr

def InfRes.bind {α β : Type} (r : InfRes α) (f : α → Inf → InfRes β) : InfRes β :=
  match r with
  | .ok v s => f v s
  | .stop c s => .stop c s
  | .short s => .short s

/-- Read `n` bits. -/
def readBits (d : List Byte) (n : Nat) (s : Inf) : InfRes Nat :=
  if 8 * d.length < s.pos + n then .short s
  else .ok (leNat ((d.drop (s.pos / 8)).take (n / 8 + 2)) / 2 ^ (s.pos % 8) % 2 ^ n)
    { s with pos := s.pos + n }

/-! ### Huffman codes (RFC 1951, 3.2.2) -/

def countLen (lens : List Nat) (l : Nat) : Nat := (lens.filter (· == l)).length

/-- The first code of each length from 1 up. -/
def firstCode (lens : List Nat) : Nat → Nat
  | 0 => 0
  | l + 1 => if l = 0 then 0 else (firstCode lens l + countLen lens l) * 2

/-- The symbol of a code of a length. -/
def symbolOf (lens : List Nat) (l code : Nat) : Option Nat :=
  let f := firstCode lens l
  if code < f then none
  else (((lens.zipIdx.filter fun e => e.1 == l).map (·.2)).drop (code - f)).head?

/-- How full the code space is, in units of 2^-15. -/
def codeSpace (lens : List Nat) : Nat :=
  (lens.map fun l => if l = 0 then 0 else 2 ^ (15 - l)).foldl (· + ·) 0

/-- Code lengths that make a code: complete, or for distances at most one code. -/
def lensOk (dist : Bool) (lens : List Nat) : Bool :=
  codeSpace lens == 2 ^ 15 || (dist && decide ((lens.filter (· != 0)).length ≤ 1))

/-- Read one symbol: `n` more bits may follow the `l` read so far. -/
def readSymbol (d : List Byte) (lens : List Nat) : Nat → Nat → Nat → Inf → InfRes Nat
  | 0, _, _, s => .stop dIllegal s
  | n + 1, l, code, s => (readBits d 1 s).bind fun b s =>
    match symbolOf lens (l + 1) (code * 2 + b) with
    | some v => .ok v s
    | none => readSymbol d lens n (l + 1) (code * 2 + b) s

/-! ### Lengths and distances -/

/-- Base and extra bits of a length symbol from 257 on. -/
def lengthCode (sym : Nat) : Nat × Nat :=
  let i := sym - 257
  if i < 8 then (i + 3, 0)
  else if i = 28 then (258, 0)
  else
    let e := (i - 4) / 4
    ((4 + i % 4) * 2 ^ e + 3, e)

def distCode (sym : Nat) : Nat × Nat :=
  if sym < 4 then (sym + 1, 0)
  else
    let e := (sym - 2) / 2
    ((2 + sym % 2) * 2 ^ e + 1, e)

/-- Copy from a distance back. -/
def copyBack (dist : Nat) : Nat → List Byte → List Byte
  | 0, out => out
  | n + 1, out => copyBack dist n (out.getD (dist - 1) 0 :: out)

/-! ### Blocks -/

/-- Symbols of a compressed block up to its end; each reads at least one bit. -/
def inflateSymbols (d : List Byte) (lit dist : List Nat) : Nat → Inf → InfRes Unit
  | 0, s => .short s
  | n + 1, s => (readSymbol d lit 15 0 0 s).bind fun sym s =>
    if sym < 256 then inflateSymbols d lit dist n { s with out := BitVec.ofNat 8 sym :: s.out }
    else if sym = 256 then .ok () s
    else if 285 < sym then .stop dIllegal s
    else
      let lc := lengthCode sym
      (readBits d lc.2 s).bind fun le s => (readSymbol d dist 15 0 0 s).bind fun ds s =>
        if 29 < ds then .stop dIllegal s
        else
          let dc := distCode ds
          (readBits d dc.2 s).bind fun de s =>
            let back := dc.1 + de
            if s.out.length < back ∨ 32768 < back then .stop dDistance s
            else inflateSymbols d lit dist n { s with out := copyBack back (lc.1 + le) s.out }

/-- Code lengths of the literal and distance codes, run-length coded: `acc` is newest first. -/
def readLengths (d : List Byte) (cl : List Nat) (total : Nat) : Nat → List Nat → Inf → InfRes (List Nat)
  | 0, _, s => .short s
  | n + 1, acc, s =>
    if total ≤ acc.length then
      (if total < acc.length then .stop dIllegal s else .ok acc.reverse s)
    else (readSymbol d cl 7 0 0 s).bind fun sym s =>
      if sym < 16 then readLengths d cl total n (sym :: acc) s
      else if sym = 16 then
        match acc with
        | [] => .stop dIllegal s
        | p :: _ => (readBits d 2 s).bind fun r s =>
            readLengths d cl total n (List.replicate (r + 3) p ++ acc) s
      else if sym = 17 then (readBits d 3 s).bind fun r s =>
        readLengths d cl total n (List.replicate (r + 3) 0 ++ acc) s
      else (readBits d 7 s).bind fun r s =>
        readLengths d cl total n (List.replicate (r + 11) 0 ++ acc) s

def clOrder : List Nat := [16, 17, 18, 0, 8, 7, 9, 6, 10, 5, 11, 4, 12, 3, 13, 2, 14, 1, 15]

/-- `n` values of 3 bits. -/
def readThrees (d : List Byte) : Nat → List Nat → Inf → InfRes (List Nat)
  | 0, acc, s => .ok acc.reverse s
  | n + 1, acc, s => (readBits d 3 s).bind fun v s => readThrees d n (v :: acc) s

/-- The two codes of a dynamic block. -/
def readCodes (d : List Byte) (s : Inf) : InfRes (List Nat × List Nat) :=
  (readBits d 5 s).bind fun hlit s => (readBits d 5 s).bind fun hdist s =>
  (readBits d 4 s).bind fun hclen s => (readThrees d (hclen + 4) [] s).bind fun three s =>
    let cl := (List.range 19).map fun v => three.getD (clOrder.findIdx (· == v)) 0
    if !lensOk false cl then .stop dIllegal s
    else (readLengths d cl (hlit + 257 + hdist + 1) (8 * d.length + 1) [] s).bind fun lens s =>
      let lit := lens.take (hlit + 257)
      let dist := lens.drop (hlit + 257)
      if lensOk false lit && lensOk true dist then .ok (lit, dist) s else .stop dIllegal s

def fixedLit : List Nat :=
  List.replicate 144 8 ++ List.replicate 112 9 ++ List.replicate 24 7 ++ List.replicate 8 8

/-- Bytes of a stored block, as far as the input holds them. -/
def storedBytes (d : List Byte) (len : Nat) (s : Inf) : InfRes Unit :=
  let bytes := (d.drop (s.pos / 8)).take len
  let t : Inf := ⟨s.pos + 8 * bytes.length, bytes.reverse ++ s.out⟩
  if bytes.length < len then .short t else .ok () t

/-- One block of a DEFLATE stream: whether it is the last, and what it was. -/
def inflateBlock (d : List Byte) (first : Inf) : InfRes (Bool × DeflBlock) :=
  (readBits d 1 first).bind fun last s => (readBits d 2 s).bind fun kind s =>
    let start := s.out.length
    let body : InfRes Unit :=
      if kind = 0 then
        (readBits d 32 { s with pos := (s.pos + 7) / 8 * 8 }).bind fun v s =>
          let len := v % 65536
          if v / 65536 ≠ 65535 - len then .stop dLength s else storedBytes d len s
      else if kind = 1 then
        inflateSymbols d fixedLit (List.replicate 32 5) (8 * d.length + 1) s
      else if kind = 2 then
        (readCodes d s).bind fun c s => inflateSymbols d c.1 c.2 (8 * d.length + 1) s
      else .stop dHeader s
    body.bind fun _ s =>
      .ok (last == 1, ⟨kind, start, s.out.length - start, first.pos, s.pos - first.pos⟩) s

/-- The blocks of a DEFLATE stream; what they were. -/
def inflateBlocks (d : List Byte) : Nat → List DeflBlock → Inf → InfRes (List DeflBlock)
  | 0, _, s => .short s
  | n + 1, acc, s => (inflateBlock d s).bind fun b s =>
    if b.1 then .ok (acc ++ [b.2]) s else inflateBlocks d n (acc ++ [b.2]) s

/-- The blocks that a stream holds whole, and where the one after them starts, if the last is not among them. -/
def wholeBlocks (d : List Byte) : Nat → Inf → List DeflBlock × Option Inf
  | 0, s => ([], some s)
  | n + 1, s => match inflateBlock d s with
    | .ok b t =>
      let r := if b.1 then ([], none) else wholeBlocks d n t
      (b.2 :: r.1, r.2)
    | _ => ([], some s)

/-- A raw stream. -/
def inflate (d : List Byte) (s : Inf) : InfRes (List DeflBlock) := inflateBlocks d (8 * d.length + 1) [] s

/-! ### Wrappers (R460, R461) -/

def adler32 (l : List Byte) : Nat :=
  let p := l.foldl (fun (a, b) x => ((a + x.toNat) % 65521, (b + (a + x.toNat)) % 65521)) (1, 0)
  p.2 * 65536 + p.1

def readByte (d : List Byte) (s : Inf) : InfRes Nat := readBits d 8 s

def toByte (s : Inf) : Inf := { s with pos := (s.pos + 7) / 8 * 8 }

/-- A zlib stream. -/
def inflateZlib (d : List Byte) (s : Inf) : InfRes (List DeflBlock) :=
  (readByte d s).bind fun cmf s =>
  if cmf % 16 ≠ 8 ∨ 7 < cmf / 16 then .stop dHeader s
  else (readByte d s).bind fun flg s =>
    if (cmf * 256 + flg) % 31 ≠ 0 ∨ flg / 32 % 2 = 1 then .stop dHeader s
    else (inflate d s).bind fun bs s => (readBits d 32 (toByte s)).bind fun v s =>
      if beNat (toLE 4 v) ≠ adler32 s.out.reverse then .stop dCheck s else .ok bs s

/-- Pass over a zero-terminated field. -/
def skipZero (d : List Byte) : Nat → Inf → InfRes Unit
  | 0, s => .short s
  | n + 1, s => (readByte d s).bind fun b s => if b = 0 then .ok () s else skipZero d n s

/-- A part of a gzip header that a flag calls for. -/
def whenFlag (b : Bool) (f : Inf → InfRes Unit) (s : Inf) : InfRes Unit := if b then f s else .ok () s

/-- The header of a gzip member. -/
def gzipHeader (d : List Byte) (s : Inf) : InfRes Unit :=
  (readByte d s).bind fun a s => if a ≠ 0x1F then .stop dHeader s else
  (readByte d s).bind fun b s => if b ≠ 0x8B then .stop dHeader s else
  (readByte d s).bind fun cm s => if cm ≠ 8 then .stop dHeader s else
  (readByte d s).bind fun flg s => if 32 ≤ flg then .stop dHeader s else
  (readBits d 48 s).bind fun _ s =>
  (whenFlag (flg.testBit 2) (fun s => (readBits d 16 s).bind fun n s =>
      (readBits d (8 * n) s).bind fun _ s => .ok () s) s).bind fun _ s =>
  (whenFlag (flg.testBit 3) (skipZero d (d.length + 1)) s).bind fun _ s =>
  (whenFlag (flg.testBit 4) (skipZero d (d.length + 1)) s).bind fun _ s =>
  whenFlag (flg.testBit 1) (fun s =>
    let want := (fcs (d.take (s.pos / 8))).toNat % 65536
    (readBits d 16 s).bind fun v s => if v ≠ want then .stop dHeader s else .ok () s) s

/-- One gzip member. -/
def inflateGzip (d : List Byte) (s : Inf) : InfRes (List DeflBlock) :=
  (gzipHeader d s).bind fun _ s => (inflate d s).bind fun bs s =>
  (readBits d 32 (toByte s)).bind fun c s =>
    if c ≠ (fcs s.out.reverse).toNat then .stop dCheck s
    else (readBits d 32 s).bind fun n s =>
      if n ≠ s.out.length % 2 ^ 32 then .stop dLength s else .ok bs s

/-- A stream in a format of R458 other than NBC, from its first byte. -/
def inflateFormat (format : Nat) (d : List Byte) : InfRes (List DeflBlock) :=
  let s : Inf := ⟨0, []⟩
  if format = 1 then inflateZlib d s else if format = 2 then inflateGzip d s else inflate d s

/-- The state that decoding ended in. -/
def InfRes.at {α : Type} : InfRes α → Inf
  | .ok _ s => s
  | .stop _ s => s
  | .short s => s

end Sys2Proof.Machine
end

