-- ==== Sys2Proof/Machine/DeflOps.lean ====
section
/-! DEFINITION. The compression engine (R455 to R467): queues and tickets, descriptors, jobs with their
accesses, contexts of suspended jobs, and completion records. -/

namespace Sys2Proof.Machine

def evDeflDone : Nat := 0xD0
def evDeflErr : Nat := 0xD1
def evDeflSuspend : Nat := 0xD2

/-! ### Queues (R456, R457) -/

def Mach.updDefl (m : Mach) (f : Defl → Defl) : Mach := { m with defl := f m.defl }
def Mach.deflQ (m : Mach) (q : Nat) : DeflQueue := tabGet .reset m.defl.queues q
def Mach.updDeflQ (m : Mach) (q : Nat) (f : DeflQueue → DeflQueue) : Mach :=
  m.updDefl fun d => { d with queues := tabSet d.queues q (f (tabGet .reset d.queues q)) }

/-- Jobs queued or running. -/
def DeflQueue.depth (q : DeflQueue) : Nat := q.jobs.length + q.running.toList.length

def ticketOf (queue seq : Nat) : Nat := 2 ^ 31 + queue % 16 * 2 ^ 24 + seq % 65536

/-- Submit a descriptor: the ticket, 0 when the queue is full. -/
def Mach.deflSubmit (m : Mach) (mst q : Nat) (desc : List Byte) : Mach × Nat :=
  let r := m.deflQ q
  if 16 ≤ r.depth then (m, 0)
  else (m.updDeflQ q fun r =>
    { r with jobs := r.jobs ++ [⟨r.nextSeq, mst, desc⟩], nextSeq := (r.nextSeq + 1) % 65536 },
    ticketOf q r.nextSeq)

/-- The descriptor that a master has staged. -/
def Mach.staged16 (m : Mach) (stage : Nat → Nat) : List Byte :=
  (List.range 16).flatMap fun k => wordLE (m.rd (stage k))

/-- A write of DEFL.SUBMIT. -/
def Mach.deflWrote (m : Mach) (mst : Nat) (v : Word) : Mach :=
  let r := m.deflSubmit mst (bitsOf v.toNat 0 4) (m.staged16 (Reg.DEFL_STAGE mst))
  r.1.put (Fld.DEFL_TICKET_TICKET mst) r.2

def Mach.deflRunning (m : Mach) : Nat := (m.defl.queues.filter fun e => e.2.running.isSome).length

/-- The queue served next: round robin after the one served last, enabled, with a job and none running. -/
def Mach.deflNext (m : Mach) : Option (Nat × QueuedJob) :=
  if !m.is Fld.DEFL_CTRL_EN || decide (4 ≤ m.deflRunning) then none
  else ((List.range 16).map fun i => (m.defl.last + 1 + i) % 16).findSome? fun q =>
    let r := m.deflQ q
    if m.is (Fld.DEFL_Q_STATUS_EN q) && r.running.isNone then r.jobs.head?.map fun j => (q, j) else none

/-- The engine starts the next job, when its operation is one the command names. -/
def Mach.deflStart (m : Mach) (op : Nat → Bool) : Mach :=
  match m.deflNext with
  | some (q, j) =>
    if op (byteAt j.desc 0) then
      (m.updDefl fun d => { d with last := q }).updDeflQ q fun r =>
        { r with jobs := r.jobs.drop 1, running := some j }
    else m
  | none => m

/-! ### Descriptors (R458) -/

structure DeflDesc where
  op : Nat
  format : Nat
  flags : Nat
  logBlock : Nat
  srcLen : Nat
  src : Nat
  dst : Nat
  dstLen : Nat
  count : Nat
  status : Nat
  ctx : Nat
  first : Nat
  nblocks : Nat
  deriving DecidableEq, Repr

def leAt (l : List Byte) (a n : Nat) : Nat := leNat ((l.drop a).take n)

def deflDesc (d : List Byte) : DeflDesc :=
  { op := byteAt d 0, format := byteAt d 1, flags := byteAt d 2, logBlock := byteAt d 3
    srcLen := leAt d 4 4, src := leAt d 8 8, dst := leAt d 0x10 8, dstLen := leAt d 0x18 4
    count := leAt d 0x1C 2, status := leAt d 0x20 8, ctx := leAt d 0x28 8, first := leAt d 0x30 4
    nblocks := leAt d 0x34 4 }

def DeflDesc.nbc (d : DeflDesc) : Bool := d.format == 3
def DeflDesc.resumable (d : DeflDesc) : Bool := d.flags.testBit 0 && !d.nbc
def DeflDesc.resume (d : DeflDesc) : Bool := d.flags.testBit 1 && !d.nbc
def DeflDesc.event (d : DeflDesc) : Bool := d.flags.testBit 2
def DeflDesc.level (d : DeflDesc) : Nat := d.flags / 16 % 4
def DeflDesc.usesCtx (d : DeflDesc) : Bool := d.resumable || d.resume

/-- Ranges [a, a + n) that share a byte. -/
def shares (a n b k : Nat) : Bool := decide (0 < n ∧ 0 < k ∧ a < b + k ∧ b < a + n)

def ctxBytes : Nat := 40960

/-- A descriptor that does not end its job with DEFL_E_DESC. -/
def DeflDesc.ok (d : DeflDesc) (raw : List Byte) : Bool :=
  let address (a : Nat) : Bool := decide (a < 2 ^ 40)
  decide (d.op ≤ 1) && decide (d.format ≤ 3) && d.flags / 64 == 0 && d.flags / 8 % 2 == 0 &&
  (if d.op == 0 && d.nbc then decide (12 ≤ d.logBlock ∧ d.logBlock ≤ 18) else d.logBlock == 0) &&
  address d.src && address d.dst && address d.status && address d.ctx && decide (1 ≤ d.dstLen) &&
  (d.flags.testBit 1 || d.count == 0) && leAt raw 0x1E 2 == 0 && leAt raw 0x38 8 == 0 &&
  d.status % 16 == 0 && (!d.usesCtx || d.ctx % 4096 == 0) &&
  (!(d.op == 1 && d.nbc) || decide (1 ≤ d.nblocks)) &&
  !shares d.src d.srcLen d.dst d.dstLen &&
  (!d.usesCtx || (!shares d.src d.srcLen d.ctx ctxBytes && !shares d.dst d.dstLen d.ctx ctxBytes))

/-! ### Accesses of jobs -/

/-- A range has bytes in DRAM. -/
def inDram (a n : Nat) : Bool := n != 0 && decide (a < 0x700000000)

/-- An access that ends a job: its code, and the line that it is at. -/
structure JobFault where
  code : Nat
  addr : Nat
  len : Nat
  deriving DecidableEq, Repr

/-- Read the input of a job line by line, until it has enough: the bytes, and the first access that is denied or
ended by a freeze (R375, R462), which has yet to be made. -/
def Mach.jobLines (m : Mach) (mst : Nat) (enough : List Byte → Bool) :
    List (Nat × Nat) → List Byte → Mach × List Byte × Option JobFault
  | [], acc => (m, acc, none)
  | (p, n) :: r, acc =>
    if enough acc then (m, acc, none)
    else if (m.memDenied mst p false).isSome then (m, acc, some ⟨dAccess, p, n⟩)
    else
      let q := m.memReadAs mst (some 3) p n
      if inDram p n && q.1.freezing then (m, acc, some ⟨dFreeze, p, n⟩)
      else q.1.jobLines mst enough r (acc ++ q.2)

/-- The access that ends a job is made: it is captured, or freezes the DRAM. -/
def Mach.jobFails (m : Mach) (mst : Nat) : Option JobFault → Mach
  | some f => (m.memReadAs mst (some 3) f.addr f.len).1
  | none => m

/-- Read input that a job needs whole: the bytes, and the code where it cannot have all. -/
def Mach.jobRead (m : Mach) (mst a n : Nat) : Mach × List Byte × Option Nat :=
  let r := m.jobLines mst (fun _ => false) (lineParts a n) []
  (r.1.jobFails mst r.2.2, r.2.1, r.2.2.map (·.code))

/-- Write output of a job line by line: the bytes written before a line is refused or ended by a freeze, and the
code; `k` are written. -/
def Mach.jobStores (m : Mach) (mst : Nat) (data : List Byte) :
    List (Nat × Nat) → Nat → Mach × Nat × Option Nat
  | [], k => (m, k, none)
  | (p, n) :: r, k =>
    let refused := (m.memDenied mst p true).isSome || (m.leaseHits [(p, n)]).isSome
    let m := m.memWrite mst p ((data.drop k).take n)
    if refused then (m, k, some dAccess)
    else if inDram p n && m.freezing then (m, k, some dFreeze)
    else m.jobStores mst data r (k + n)

def Mach.jobWrite (m : Mach) (mst a : Nat) (data : List Byte) : Mach × Nat × Option Nat :=
  m.jobStores mst data (lineParts a data.length) 0

/-- Bytes the spec leaves open (log entry 3). -/
def Mach.freeBytes (m : Mach) (n : Nat) : Mach × List Byte :=
  ({ m with freeCount := m.freeCount + n },
   (List.range n).map fun i => (Config.freeValue (m.freeCount + i)).setWidth 8)

/-! ### The end of a job (R457, R459, R462) -/

/-- What a job reports. -/
structure DeflEnd where
  code : Nat
  flags : Nat
  consumed : Nat
  produced : Nat
  deriving DecidableEq, Repr

def Mach.deflEnd (m : Mach) (q : Nat) (j : QueuedJob) (d : DeflDesc) (e : DeflEnd) : Mach :=
  let rec4 := toLE 4 (ticketOf q j.seq) ++ [BitVec.ofNat 8 e.code, BitVec.ofNat 8 e.flags] ++
    toLE 2 d.count ++ toLE 4 e.consumed ++ toLE 4 e.produced
  let m := m.memWrite mstDefl (d.status % 2 ^ 40) rec4
  let m := m.updDeflQ q fun r => { r with running := none }
  let m := m.put (Fld.DEFL_Q_STATUS_DONE_SEQ q) j.seq
  let m := m.count Fld.DEFL_CNT_JOBS_COUNT
  if e.code = dDone then m.raiseIf d.event evDeflDone
  else if e.code = dSuspended then
    ((m.count Fld.DEFL_CNT_SUSPEND_COUNT).raiseIf d.event evDeflDone).raise evDeflSuspend
  else (m.count Fld.DEFL_CNT_ERR_COUNT).raise evDeflErr

/-- An ATOMIC job finds its destination full (R463): the destination bytes are undefined. A write that is refused
ends it before, with the input absorbed for the bytes written. -/
def Mach.deflOverflow (m : Mach) (q : Nat) (j : QueuedJob) (d : DeflDesc) (absorbed : Nat → Nat) : Mach :=
  let f := m.freeBytes d.dstLen
  let w := f.1.jobWrite mstDefl d.dst f.2
  match w.2.2 with
  | some code => w.1.deflEnd q j d ⟨code, 0, absorbed w.2.1, w.2.1⟩
  | none => w.1.deflEnd q j d ⟨dOverflow, 0, 0, 0⟩

/-- Save the state of a job that suspends (R464): the context area's bytes are open (log entry 20). -/
def Mach.deflSave (m : Mach) (d : DeflDesc) (c : DeflCtx) : Mach × Option Nat :=
  let f := m.freeBytes ctxBytes
  let w := f.1.jobWrite mstDefl d.ctx f.2
  match w.2.2 with
  | some code => (w.1, some code)
  | none => (w.1.updDefl fun x => { x with ctx := tabSet x.ctx d.ctx c }, none)

/-- The context that a resume continues, or the code that ends it (R465). -/
def Mach.deflLoad (m : Mach) (d : DeflDesc) : Mach × Except Nat DeflCtx :=
  if !d.resume then (m, .ok ⟨d.op, d.format, 0, [], []⟩)
  else
    let r := m.jobRead mstDefl d.ctx ctxBytes
    match r.2.2, tabFind r.1.defl.ctx d.ctx with
    | some code, _ => (r.1, .error code)
    | none, some c =>
      if c.count = d.count ∧ c.op = d.op ∧ c.format = d.format then (r.1, .ok c)
      else (r.1, .error dResume)
    | none, none => (r.1, .error dResume)

/-! ### Decompression (R461, R464, R467) -/

/-- Output goes to the destination, the access that ends the job is made, if any, and the job ends with a code, or
with the one that the writes met, at the input absorbed for the bytes written (R462). -/
def Mach.deflFinish (m : Mach) (q : Nat) (j : QueuedJob) (d : DeflDesc) (out : List Byte) (e : DeflEnd)
    (absorbed : Nat → Nat) (fault : Option JobFault := none) : Mach :=
  let w := m.jobWrite mstDefl d.dst out
  match w.2.2 with
  | some code => w.1.deflEnd q j d ⟨code, 0, absorbed w.2.1, w.2.1⟩
  | none => (w.1.jobFails mstDefl fault).deflEnd q j d { e with produced := out.length }

/-- A job suspends, or overflows where it may not (R463 to R465). -/
def Mach.deflSuspend (m : Mach) (q : Nat) (j : QueuedJob) (d : DeflDesc) (c : DeflCtx)
    (out : List Byte) (flags consumed : Nat) (absorbed : Nat → Nat) : Mach :=
  if 65535 ≤ d.count then m.deflFinish q j d out ⟨dOverflow, 0, consumed, 0⟩ absorbed
  else
    let w := m.jobWrite mstDefl d.dst out
    match w.2.2 with
    | some code => w.1.deflEnd q j d ⟨code, 0, absorbed w.2.1, w.2.1⟩
    | none =>
      let s := w.1.deflSave d c
      match s.2 with
      | some code => s.1.deflEnd q j d ⟨code, 0, consumed, out.length⟩
      | none => s.1.deflEnd q j d ⟨dSuspended, flags, consumed, out.length⟩

/-- What the input of a job decodes to after what its context holds. -/
def jobDecode (d : DeflDesc) (c : DeflCtx) (bytes : List Byte) : InfRes (List DeflBlock) :=
  inflateFormat d.format (c.input ++ bytes)

/-- Input that must be absorbed before `k + 1` bytes of a job's output can be written. -/
def absorbedFor (d : DeflDesc) (c : DeflCtx) (bytes : List Byte) (k : Nat) : Nat :=
  ((List.range bytes.length).find? fun n =>
    decide (c.output.length + k < (jobDecode d c (bytes.take n)).at.out.length)).getD bytes.length

/-- Decompress a stream: input is read no further than the end of the stream, an error or a full destination (R461,
R462). `consumed` is how much input the engine has absorbed when the destination is full. -/
def Mach.deflInflate (m : Mach) (q : Nat) (j : QueuedJob) (d : DeflDesc) (c : DeflCtx)
    (consumed : Nat) : Mach :=
  let had := c.output.length
  let enough (bytes : List Byte) : Bool :=
    match jobDecode d c bytes with
    | .short s => decide (had + d.dstLen < s.out.length)
    | _ => true
  let r := m.jobLines mstDefl enough (lineParts d.src d.srcLen) []
  let m := r.1
  let bytes := r.2.1
  let res := jobDecode d c bytes
  let out := res.at.out.reverse.drop had
  let used := (res.at.pos + 7) / 8 - c.input.length
  let absorbed := absorbedFor d c bytes
  if d.dstLen < out.length then
    if !d.resumable then m.deflOverflow q j d absorbed
    else
      -- the input absorbed must hold what has been written
      let taken := bytes.take consumed
      if (jobDecode d c taken).at.out.length < had + d.dstLen then m
      else m.deflSuspend q j d
        ⟨d.op, d.format, d.count + 1, c.input ++ taken, c.output ++ out.take d.dstLen⟩ (out.take d.dstLen) 0
        taken.length absorbed
  else match res, r.2.2 with
    | .ok _ _, _ => m.deflFinish q j d out ⟨dDone, 2 + (decide (used < d.srcLen)).toNat, used, 0⟩ absorbed
    | .stop code _, _ => m.deflFinish q j d out ⟨code, 0, used, 0⟩ absorbed
    | .short _, some f => m.deflFinish q j d out ⟨f.code, 0, bytes.length, 0⟩ absorbed (some f)
    | .short _, none =>
      if d.resumable then
        m.deflSuspend q j d ⟨d.op, d.format, d.count + 1, c.input ++ bytes, c.output ++ out⟩ out 4 d.srcLen
          absorbed
      else m.deflFinish q j d out ⟨dTrunc, 0, d.srcLen, 0⟩ absorbed

/-- What one block of an NBC container decodes to, from its entry of the index and its bytes, the input up to where
it stops, and the code that it stops with after some output. -/
def nbcBlock (entry body : List Byte) (len : Nat) : List Byte × Nat × Option Nat :=
  let r : List Byte × Nat × Option Nat :=
    if leAt entry 8 4 / 2 ^ 31 = 1 then (body, body.length, none)
    else match inflate body ⟨0, []⟩ with
      | .ok _ s => (s.out.reverse, body.length, none)
      | .stop c s => (s.out.reverse, (s.pos + 7) / 8, some c)
      | .short s => (s.out.reverse, body.length, some dTrunc)
  match r.2.2 with
  | some _ => r
  | none =>
    if r.1.length ≠ len then (r.1, r.2.1, some dLength)
    else if (crc32c r.1).toNat ≠ leAt entry 12 4 then (r.1, r.2.1, some dCheck)
    else r

/-- The tests of a container's fixed header fields in the order in which its bytes come: how many bytes each needs,
and whether they pass (R466). -/
def nbcTests (h : List Byte) : List (Nat × Bool) :=
  let lb := byteAt h 5
  [(1, byteAt h 0 == 0x4E), (2, byteAt h 1 == 0x56), (3, byteAt h 2 == 0x42), (4, byteAt h 3 == 0x43),
   (5, byteAt h 4 == 1), (6, decide (12 ≤ lb ∧ lb ≤ 18)), (7, byteAt h 6 == 0), (8, byteAt h 7 == 0),
   (0x14, leAt h 0x10 4 == (leAt h 8 8 + 2 ^ lb - 1) / 2 ^ lb)] ++
  (List.range 8).map fun i => (0x15 + i, byteAt h (0x14 + i) == 0)

/-- The bytes of the header that reveal a wrong field, if those present do. -/
def nbcWrong (h : List Byte) : Option Nat :=
  ((nbcTests h).find? fun t => decide (t.1 ≤ h.length) && !t.2).map (·.1)

/-- Read `n` bytes of a container from an offset: the bytes there are, and the code that a lack ends with. -/
def Mach.nbcRead (m : Mach) (d : DeflDesc) (off n : Nat) : Mach × List Byte × Nat :=
  let r := m.jobRead mstDefl (d.src + off) (min n (d.srcLen - off))
  (r.1, r.2.1, r.2.2.getD dTrunc)

/-- How decoding of blocks ended: output written, input absorbed, and the code of the first block that stopped. -/
structure NbcRun where
  written : Nat
  used : Nat
  code : Option Nat
  deriving DecidableEq, Repr

/-- Blocks of a container in turn, from the block `i` on: each is read, decoded and written. -/
def Mach.nbcBlocks (m : Mach) (d : DeflDesc) (index : List Byte) (blockLen : Nat → Nat) :
    Nat → Nat → Nat → Nat → Mach × NbcRun
  | 0, _, done, used => (m, ⟨done, used, none⟩)
  | n + 1, i, done, used =>
    let entry := (index.drop (16 * i)).take 16
    let clen := leAt entry 8 4 % 2 ^ 31
    let r := m.nbcRead d (leAt entry 0 8) clen
    if r.2.1.length < clen then (r.1, ⟨done, used + r.2.1.length, some r.2.2⟩)
    else
      let b := nbcBlock entry r.2.1 (blockLen i)
      let used := used + b.2.1
      if d.dstLen < done + b.1.length then (r.1, ⟨done, used, some dOverflow⟩)
      else
        let w := r.1.jobWrite mstDefl (d.dst + done) b.1
        let done := done + w.2.1
        match w.2.2, b.2.2 with
        | some c, _ => (w.1, ⟨done, used, some c⟩)
        | none, some c => (w.1, ⟨done, used, some c⟩)
        | none, none => w.1.nbcBlocks d index blockLen n (i + 1) done used

/-- Decompress blocks of an NBC container: the header and the index are read and checked, and then the blocks
asked for alone are read (R467). -/
def Mach.deflNbcOut (m : Mach) (q : Nat) (j : QueuedJob) (d : DeflDesc) : Mach :=
  let h := m.nbcRead d 0 32
  let head := h.2.1
  let nblk := leAt head 0x10 4
  match nbcWrong head with
  | some n => h.1.deflEnd q j d ⟨dHeader, 0, n, 0⟩
  | none =>
    if head.length < 32 then h.1.deflEnd q j d ⟨h.2.2, 0, head.length, 0⟩
    else
      let x := h.1.nbcRead d 32 (16 * nblk)
      let index := x.2.1
      let size := 2 ^ byteAt head 5
      let read := 32 + index.length
      if index.length < 16 * nblk then x.1.deflEnd q j d ⟨x.2.2, 0, read, 0⟩
      else if (crc32c (head.take 0x1C ++ index)).toNat ≠ leAt head 0x1C 4 then
        x.1.deflEnd q j d ⟨dHeader, 0, read, 0⟩
      else if nblk < d.first + d.nblocks then x.1.deflEnd q j d ⟨dDesc, 0, read, 0⟩
      else
        let len (i : Nat) : Nat := min size (leAt head 8 8 - i * size)
        let b := x.1.nbcBlocks d index len d.nblocks d.first 0 read
        match b.2.code with
        | none => b.1.deflEnd q j d ⟨dDone, 2, b.2.used, b.2.written⟩
        | some c =>
          if c = dOverflow then b.1.deflOverflow q j d fun _ => b.2.used
          else b.1.deflEnd q j d ⟨c, 0, b.2.used, b.2.written⟩

/-! ### Compression (R460, R464, R467) -/

/-- Bits of the stored form of `len` bytes, at most 64 KiB, from a bit of the stream on: a stored block holds
at most 65 535 bytes (RFC 1951). -/
def storedBits (pos len : Nat) : Nat :=
  (pos + 10) / 8 * 8 - pos + 32 + 8 * len + if 65535 < len then 40 else 0

/-- A dynamic block, of those that the engine's search gave, codes a piece of the input and is not shorter than
the piece stored from a bit of the stream on (R460; log entry 20). -/
def storedBest (input : List Byte) (searched : List (List Byte)) (pos start len : Nat) : Bool :=
  searched.any fun d => match inflate d ⟨0, (input.take start).reverse⟩ with
    | .ok [b] s => b.kind == 2 && b.len == len && s.out.reverse == input.take (start + len) &&
        decide (storedBits pos len ≤ b.bits)
    | _ => false

/-- The blocks are those that LEVEL lets the engine emit (R460): stored ones at LEVEL 0; else for each 64 KiB of an
input of `total` bytes a dynamic one, or, where that is not longer, the piece stored. -/
def blocksOk (level total : Nat) (input : List Byte) (searched : List (List Byte)) : List DeflBlock → Bool
  | [] => true
  | b :: r =>
    let len := min 65536 (total - b.start)
    if level = 0 then b.kind == 0 && blocksOk level total input searched r
    else if b.start % 65536 ≠ 0 then
      -- the rest of a piece whose stored form takes two blocks
      b.kind == 0 && b.start % 65536 + b.len == 65536 &&
        blocksOk level total input searched r
    else if b.kind = 2 then
      b.len == len && decide (b.bits < storedBits b.pos len) && blocksOk level total input searched r
    else
      b.kind == 0 && (b.len == len || (len == 65536 && decide (0 < b.len))) &&
        storedBest input searched b.pos b.start len && blocksOk level total input searched r

/-- The header of a stream that the engine writes. -/
def streamHead (format level : Nat) : List Byte :=
  if format = 1 then [0x78, if level ≤ 1 then 0x01 else if level = 2 then 0x9C else 0xDA]
  else if format = 2 then [0x1F, 0x8B, 8, 0, 0, 0, 0, 0, 0, 0xFF]
  else []

/-- A finished stream codes an input. -/
def streamCodes (format level : Nat) (stream input : List Byte) (searched : List (List Byte)) : Bool :=
  (streamHead format level).isPrefixOf stream &&
  match inflateFormat format stream with
  | .ok bs s => s.out.reverse == input && (s.pos + 7) / 8 == stream.length &&
      blocksOk level input.length input searched bs
  | _ => false

/-- The block that an unfinished stream ends in, from where it starts, is one that LEVEL allows there: how much input
the engine must have absorbed to write it. -/
def openBlock (level total : Nat) (d : List Byte) : Option Inf → Option Nat
  | none => some total
  | some s => match readBits d 3 s with
    | .ok v _ =>
      if v / 2 = 2 ∧ level ≠ 0 ∧ s.out.length % 65536 = 0 then some (min total (s.out.length + 65536))
      else if v / 2 = 0 then some s.out.length
      else none
    | _ => some s.out.length

/-- An unfinished stream codes a prefix of an input of `total` bytes: how much of it the engine must have absorbed
to write that. -/
def streamBegins (format level total : Nat) (stream input : List Byte) (searched : List (List Byte)) :
    Option Nat :=
  let head := streamHead format level
  let body := stream.drop head.length
  let w := wholeBlocks body (8 * body.length + 1) ⟨0, []⟩
  match inflateFormat format stream, openBlock level total body w.2 with
  | .short s, some n =>
    if (stream.take head.length).isPrefixOf head && s.out.reverse.isPrefixOf input &&
      blocksOk level total input searched w.1 then some (max n s.out.length) else none
  | _, _ => none

/-- Compress into a DEFLATE, zlib or gzip stream. `out` is what the engine writes, chosen by its match search, which
also gave `searched`; `finished` tells that the stream ends with it. A job that suspends has filled its destination
(R464), and has absorbed `consumed` bytes of input, at least what it has written codes. -/
def Mach.deflCompress (m : Mach) (q : Nat) (j : QueuedJob) (d : DeflDesc) (c : DeflCtx)
    (out : List Byte) (searched : List (List Byte)) (finished : Bool) (consumed : Nat) : Mach :=
  let r := m.jobLines mstDefl (fun _ => false) (lineParts d.src d.srcLen) []
  let bytes := r.2.1
  let input := c.input ++ bytes
  let stream := c.output ++ out
  let absorbed (_ : Nat) : Nat := min consumed d.srcLen
  match r.2.2 with
  | some f =>
    match streamBegins d.format d.level (input.length + 65536) stream input searched with
    | some n =>
      if n ≤ input.length ∧ out.length ≤ d.dstLen then
        r.1.deflFinish q j d out ⟨f.code, 0, bytes.length, 0⟩ absorbed (some f)
      else m
    | none => m
  | none =>
    if finished then
      if !streamCodes d.format d.level stream input searched then m
      else if out.length ≤ d.dstLen then r.1.deflFinish q j d out ⟨dDone, 2, d.srcLen, 0⟩ absorbed
      else if d.resumable then m
      else r.1.deflOverflow q j d absorbed
    else match d.resumable, streamBegins d.format d.level input.length stream input searched with
      | true, some n =>
        let taken := bytes.take consumed
        if out.length = d.dstLen ∧ n ≤ c.input.length + taken.length then
          r.1.deflSuspend q j d ⟨d.op, d.format, d.count + 1, c.input ++ taken, stream⟩ out 0 taken.length
            absorbed
        else m
      | _, _ => m

/-- The container of some blocks: each as its DEFLATE form, or stored where that is not longer. -/
def nbcContainer (lb : Nat) (input : List Byte) (bodies : List (List Byte)) : List Byte :=
  let size := 2 ^ lb
  let n := (input.length + size - 1) / size
  let blocks := (List.range n).map fun i =>
    let raw := (input.drop (i * size)).take size
    let body := bodies.getD i []
    if body.length < raw.length then (body, 0, crc32c raw) else (raw, 2 ^ 31, crc32c raw)
  let index := (blocks.foldl (fun (a, off) b =>
    (a ++ toLE 8 off ++ toLE 4 (b.1.length + b.2.1) ++ wordLE b.2.2, off + b.1.length))
    (([] : List Byte), 32 + 16 * n)).1
  let head := [0x4E, 0x56, 0x42, 0x43, 1, BitVec.ofNat 8 lb, 0, 0] ++ toLE 8 input.length ++ toLE 4 n ++
    toLE 8 0
  head ++ wordLE (crc32c (head ++ index)) ++ index ++ blocks.flatMap fun b => b.1

/-- Compress into an NBC container; `parts` are the DEFLATE forms of its blocks, and after them what the search gave
for pieces that are stored in them. -/
def Mach.deflNbcIn (m : Mach) (q : Nat) (j : QueuedJob) (d : DeflDesc) (parts : List (List Byte))
    (consumed : Nat) : Mach :=
  let r := m.jobRead mstDefl d.src d.srcLen
  let size := 2 ^ d.logBlock
  let absorbed (_ : Nat) : Nat := min consumed d.srcLen
  match r.2.2 with
  | some code => r.1.deflEnd q j d ⟨code, 0, r.2.1.length, 0⟩
  | none =>
    let input := r.2.1
    let n := (input.length + size - 1) / size
    let ok := (List.range n).all fun i =>
      streamCodes 0 d.level (parts.getD i []) ((input.drop (i * size)).take size) (parts.drop n)
    let out := nbcContainer d.logBlock input parts
    if !ok then m
    else if d.dstLen < out.length then r.1.deflOverflow q j d absorbed
    else r.1.deflFinish q j d out ⟨dDone, 2, d.srcLen, 0⟩ absorbed

/-- The running job of a queue completes. -/
def Mach.deflJobDone (m : Mach) (q : Nat) (parts : List (List Byte)) (finished : Bool)
    (consumed : Nat) : Mach :=
  match (m.deflQ q).running with
  | none => m
  | some j =>
    let d := deflDesc j.desc
    if !d.ok j.desc then m.deflEnd q j d ⟨dDesc, 0, 0, 0⟩
    else if d.nbc then (if d.op = 0 then m.deflNbcIn q j d parts consumed else m.deflNbcOut q j d)
    else
      let l := m.deflLoad d
      match l.2 with
      | .error code => l.1.deflEnd q j d ⟨code, 0, 0, 0⟩
      | .ok c =>
        if d.op = 0 then l.1.deflCompress q j d c (parts.headD []) (parts.drop 1) finished consumed
        else l.1.deflInflate q j d c consumed

/-! ### What reads show -/

def Mach.showDefl (m : Mach) : Mach :=
  let pending := ((List.range 16).filter fun q => (m.deflQ q).depth != 0).foldl (fun a q => a + 2 ^ q) 0
  (m.put Fld.DEFL_STATUS_RUNNING m.deflRunning).put Fld.DEFL_STATUS_PENDING pending

def Mach.showDeflQ (m : Mach) (q : Nat) : Mach :=
  m.put (Fld.DEFL_Q_STATUS_DEPTH q) (m.deflQ q).depth

end Sys2Proof.Machine
end

