-- ==== Sys2Proof/Machine/CheckOps.lean ====
section
/-! DEFINITION. Check units (R468 to R473): CRCs, register streams, queues, and the jobs that read memory.
Guarded writes stand with the register accesses. -/

namespace Sys2Proof.Machine

def evCheckDone : Nat := 0xD8
def evCheckFail : Nat := 0xD9
def evCheckGuard : Nat := 0xDA

/-! ### CRCs (R469) -/

structure CrcForm where
  width : Nat
  poly : Nat
  init : Nat
  refIn : Bool
  refOut : Bool
  xorOut : Nat
  deriving DecidableEq, Repr

/-- The presets of R469. -/
def crcPreset : Nat → CrcForm
  | 0 => ⟨32, 0x04C11DB7, 0xFFFFFFFF, true, true, 0xFFFFFFFF⟩
  | 2 => ⟨16, 0x1021, 0xFFFF, false, false, 0⟩
  | 3 => ⟨8, 0x2F, 0xFF, false, false, 0xFF⟩
  | _ => ⟨32, 0x1EDC6F41, 0xFFFFFFFF, true, true, 0xFFFFFFFF⟩

/-- The low `n` bits of a number in reverse order. -/
def reflect : Nat → Nat → Nat
  | 0, _ => 0
  | n + 1, v => v % 2 * 2 ^ n + reflect n (v / 2)

/-- One bit of a byte shifted in. -/
def CrcForm.bit (f : CrcForm) (v b : Nat) : Nat :=
  let fb := v / 2 ^ (f.width - 1) % 2 ^^^ b
  let v := v * 2 % 2 ^ f.width
  if fb = 1 then v ^^^ f.poly else v

def CrcForm.byte (f : CrcForm) (v : Nat) (x : Byte) : Nat :=
  let x := if f.refIn then reflect 8 x.toNat else x.toNat
  [7, 6, 5, 4, 3, 2, 1, 0].foldl (fun v i => f.bit v (x / 2 ^ i % 2)) v

def CrcForm.bytes (f : CrcForm) (v : Nat) (l : List Byte) : Nat := l.foldl f.byte v

def CrcForm.result (f : CrcForm) (v : Nat) : Nat :=
  (if f.refOut then reflect f.width v else v) ^^^ f.xorOut

/-- A unit's CRC as its registers set it. -/
def Mach.crcForm (m : Mach) (u : Nat) : CrcForm :=
  let p := m.get (Fld.CHECK_U_CFG_PRESET u)
  if p ≠ 7 then crcPreset p
  else
    let w := m.get (Fld.CHECK_U_CFG_WIDTH u)
    let w := if 1 ≤ w ∧ w ≤ 32 then w else 32
    let low (f : Nat → Fld) : Nat := m.get (f u) % 2 ^ w
    ⟨w, low Fld.CHECK_U_POLY_POLY, low Fld.CHECK_U_INIT_INIT, m.is (Fld.CHECK_U_CFG_REFIN u),
     m.is (Fld.CHECK_U_CFG_REFOUT u), low Fld.CHECK_U_XOROUT_XOROUT⟩

/-- VALUE as the unit computes with it. -/
def Mach.checkValue (m : Mach) (u : Nat) : Nat :=
  m.get (Fld.CHECK_U_VALUE_VALUE u) % 2 ^ (m.crcForm u).width

/-- Run bytes through a unit. -/
def Mach.checkFeed (m : Mach) (u : Nat) (l : List Byte) : Mach :=
  m.put (Fld.CHECK_U_VALUE_VALUE u) ((m.crcForm u).bytes (m.checkValue u) l)

def Mach.checkInit (m : Mach) (u : Nat) : Mach :=
  m.put (Fld.CHECK_U_VALUE_VALUE u) (m.crcForm u).init

def Mach.checkResult (m : Mach) (u : Nat) : Nat := (m.crcForm u).result (m.checkValue u)

/-- A write of Un_CTRL (R470, R473). -/
def Mach.checkCtrl (m : Mach) (u : Nat) (v : Word) : Mach :=
  let m := if v.getLsbD 0 then m.checkInit u else m
  if v.getLsbD 1 then m.put (Fld.CHECK_U_ALIVE_VALID u) 0 else m

/-! ### Queues (R468) -/

def Mach.checkUnit (m : Mach) (u : Nat) : CheckUnit := tabGet .reset m.checks u
def Mach.updCheck (m : Mach) (u : Nat) (f : CheckUnit → CheckUnit) : Mach :=
  { m with checks := tabSet m.checks u (f (m.checkUnit u)) }

def CheckUnit.depth (c : CheckUnit) : Nat := c.jobs.length + c.running.toList.length

def Mach.checkBusy (m : Mach) (u : Nat) : Bool := (m.checkUnit u).depth != 0

/-- Submit a descriptor to a unit: the ticket, 0 when its queue is full. -/
def Mach.checkSubmit (m : Mach) (mst u : Nat) (desc : List Byte) : Mach × Nat :=
  let r := m.checkUnit u
  if 8 ≤ r.depth then (m, 0)
  else (m.updCheck u fun r =>
    { r with jobs := r.jobs ++ [⟨r.nextSeq, mst, desc⟩], nextSeq := (r.nextSeq + 1) % 65536 },
    ticketOf u r.nextSeq)

/-- A write of CHECK.SUBMIT. -/
def Mach.checkWrote (m : Mach) (mst : Nat) (v : Word) : Mach :=
  let r := m.checkSubmit mst (bitsOf v.toNat 0 3) (m.staged16 (Reg.CHECK_STAGE mst))
  r.1.put (Fld.CHECK_TICKET_TICKET mst) r.2

/-! ### Descriptors (R471) -/

structure CheckDesc where
  kind : Nat
  flags : Nat
  len : Nat
  src : Nat
  status : Nat
  expect : Nat
  deriving DecidableEq, Repr

def checkDesc (d : List Byte) : CheckDesc :=
  { kind := byteAt d 0, flags := byteAt d 1, len := leAt d 4 4, src := leAt d 8 8
    status := leAt d 0x10 8, expect := leAt d 0x18 4 }

def CheckDesc.ok (d : CheckDesc) (raw : List Byte) : Bool :=
  decide (d.kind ≤ 2) && leAt raw 2 2 == 0 && (raw.drop 0x1C).all (· == 0) && d.status % 16 == 0 &&
  (if d.kind = 0 then decide (1 ≤ d.len)
   else if d.kind = 1 then decide (8 ≤ d.len ∧ d.len ≤ 4096)
   else decide (16 ≤ d.len ∧ d.len ≤ 64) && d.len % 8 == 0)

/-- Codes of R475. -/
def cOk : Nat := 0
def cMismatch : Nat := 1
def cFormat : Nat := 2
def cCrc : Nat := 3
def cRepeated : Nat := 4
def cSeq : Nat := 5
def cDenied : Nat := 6
def cDesc : Nat := 7
def cAccess : Nat := 8
def cFreeze : Nat := 9

/-! ### Jobs -/

/-- The next job of an idle unit, when its kind is one the command names. -/
def Mach.checkNext (m : Mach) (u : Nat) (kind : Nat → Bool) : Option QueuedJob :=
  if (m.checkUnit u).running.isSome then none
  else match (m.checkUnit u).jobs with
    | j :: _ => if kind (byteAt j.desc 0) then some j else none
    | [] => none

/-- A job has run: it waits to end with a code, the ALIVE received and a RESULT; `guarded` tells that it has written
a guarded command. -/
def Mach.checkRan (m : Mach) (u : Nat) (j : QueuedJob) (code : Nat) (alive : Option Nat)
    (guarded : Bool := false) : Mach :=
  let f := match alive with
    | some a => (BitVec.ofNat 32 a, m)
    | none => m.free
  f.2.updCheck u fun r =>
    { r with jobs := r.jobs.drop 1, running := some ⟨j, code, f.1.toNat % 65536, m.checkResult u, guarded⟩ }

/-- Read a job's bytes as its submitter, with class BULK (R468): the bytes, or the code. -/
def Mach.checkRead (m : Mach) (j : QueuedJob) (d : CheckDesc) : Mach × Except Nat (List Byte) :=
  let r := m.jobRead j.mst d.src d.len
  match r.2.2 with
  | some c => (r.1, .error (if c = dFreeze then cFreeze else cAccess))
  | none => (r.1, .ok r.2.1)

/-- A CRC job (R471). -/
def Mach.checkCrcJob (m : Mach) (u : Nat) : Mach :=
  match m.checkNext u (fun k => k != 1 && k != 2) with
  | none => m
  | some j =>
    let d := checkDesc j.desc
    if !d.ok j.desc then m.checkRan u j cDesc none
    else
      let m := if d.flags.testBit 0 then m.checkInit u else m
      let r := m.checkRead j d
      match r.2 with
      | .error c => r.1.checkRan u j c none
      | .ok bytes =>
        let m := r.1.checkFeed u bytes
        let bad := d.flags.testBit 1 && m.checkResult u != d.expect
        m.checkRan u j (if bad then cMismatch else cOk) none

/-- ALIVE_W and MAX_DELTA as they act. -/
def Mach.aliveW (m : Mach) (u : Nat) : Nat := max 4 (min 16 (m.get (Fld.CHECK_U_CFG_ALIVE_W u)))
def Mach.maxDelta (m : Mach) (u : Nat) : Nat := max 1 (m.get (Fld.CHECK_U_CFG_MAX_DELTA u))

/-- The alive step (R473). -/
def Mach.aliveCode (m : Mach) (u counter : Nat) : Nat :=
  let k := 2 ^ m.aliveW u
  let d := (counter + k - m.get (Fld.CHECK_U_ALIVE_LAST u) % k) % k
  if !m.is (Fld.CHECK_U_ALIVE_VALID u) then cOk
  else if d = 0 then cRepeated
  else if d ≤ m.maxDelta u then cOk
  else cSeq

/-- Verify a protected message up to the alive step (R472): the code so far, the bytes, and ALIVE. -/
def Mach.checkMessage (m : Mach) (u : Nat) (j : QueuedJob) (d : CheckDesc) :
    Mach × Nat × List Byte × Option Nat :=
  if !d.ok j.desc then (m, cDesc, [], none)
  else
    let r := (m.checkInit u).checkRead j d
    match r.2 with
    | .error c => (r.1, c, [], none)
    | .ok bytes =>
      let alive := leAt bytes 0 2
      if leAt bytes 2 2 ≠ d.len then (r.1, cFormat, bytes, some alive)
      else
        let m := r.1.checkFeed u (bytes.take 4 ++ bytes.drop 8)
        if m.checkResult u ≠ leAt bytes 4 4 then (m, cCrc, bytes, some alive)
        else (m, m.aliveCode u (alive % 2 ^ m.aliveW u), bytes, some alive)

/-- A message has passed every check (R473). -/
def Mach.checkPassed (m : Mach) (u alive : Nat) : Mach :=
  (m.put (Fld.CHECK_U_ALIVE_LAST u) (alive % 2 ^ m.aliveW u)).put (Fld.CHECK_U_ALIVE_VALID u) 1

/-- An ALIVE job. -/
def Mach.checkAliveJob (m : Mach) (u : Nat) : Mach :=
  match m.checkNext u (· == 1) with
  | none => m
  | some j =>
    let r := m.checkMessage u j (checkDesc j.desc)
    let m := if r.2.1 = cOk then r.1.checkPassed u (r.2.2.2.getD 0) else r.1
    m.checkRan u j r.2.1 r.2.2.2

/-- A job ends (R471, R475): record, DONE_SEQ, then events. -/
def Mach.checkJobDone (m : Mach) (u : Nat) : Mach :=
  match (m.checkUnit u).running with
  | none => m
  | some r =>
    let d := checkDesc r.job.desc
    let bytes := toLE 4 (ticketOf u r.job.seq) ++ [BitVec.ofNat 8 r.code, 0] ++ toLE 2 r.alive ++
      toLE 4 r.result ++ wordLE (m.rd (Reg.CHECK_U_VALUE u))
    let m := m.memWrite r.job.mst d.status bytes
    let m := m.updCheck u fun c => { c with running := none }
    let m := (m.put (Fld.CHECK_U_LAST_CODE u) r.code).put (Fld.CHECK_U_LAST_SEQ u) r.job.seq
    let m := m.raiseIf (d.flags.testBit 2) evCheckDone
    let m := m.raiseIf r.guarded evCheckGuard
    if r.code = cOk then m else (m.count (Fld.CHECK_U_CNT_FAIL_COUNT u)).raise evCheckFail

/-! ### What reads show -/

def Mach.showCheck (m : Mach) : Mach :=
  m.put Fld.CHECK_STATUS_BUSY
    (((List.range 8).filter m.checkBusy).foldl (fun a u => a + 2 ^ u) 0)

def Mach.showCheckUnit (m : Mach) (u : Nat) : Mach :=
  (m.put (Fld.CHECK_U_RESULT_RESULT u) (m.checkResult u)).put (Fld.CHECK_U_QUEUE_DEPTH u)
    (m.checkUnit u).depth

end Sys2Proof.Machine
end

