-- ==== Sys2Proof/Machine/EncSets.lean ====
section
/-! DEFINITION. The parameter sets, SEI messages and slice headers that encode streams send (R308 to R312):
their syntax is that of H.265 and H.264, which R309 names (PRESUMED, log entry 10; what they leave to an encoder, log entry 18). -/

namespace Sys2Proof.Machine

/-! ### Syntax elements as bits -/

/-- u(n). -/
def bitsU (n v : Nat) : List Bool := (List.range n).map fun i => v.testBit (n - 1 - i)

/-- A flag. -/
def bitsF (b : Bool) : List Bool := [b]

/-- ue(v). -/
def bitsUe (v : Nat) : List Bool :=
  let n := Nat.log2 (v + 1)
  List.replicate n false ++ bitsU (n + 1) (v + 1)

/-- se(v). -/
def bitsSe (v : Int) : List Bool := bitsUe (if 0 < v then (2 * v - 1).toNat else (-(2 * v)).toNat)

/-- Whole bytes of a list of bits: `n` of them. -/
def bytesOfBits : Nat → List Bool → List Byte
  | 0, _ => []
  | n + 1, l =>
    BitVec.ofNat 8 (((l.take 8).foldl (fun a b => 2 * a + b.toNat) 0) * 2 ^ (8 - min 8 l.length)) ::
      bytesOfBits n (l.drop 8)

/-- A one, and zeros to the end of the byte: the trailing bits of an RBSP. -/
def trailed (l : List Bool) : List Bool :=
  let k := l.length + 1
  l ++ true :: List.replicate ((8 - k % 8) % 8) false

/-- Bits as bytes, with zeros to the end of the last. -/
def packed (l : List Bool) : List Byte := bytesOfBits ((l.length + 7) / 8) l

/-- Bytes of an RBSP in a NAL unit: a byte 3 stands before a byte of 3 or less after two zeros; `z` zeros stand
before. -/
def emulated (z : Nat) : List Byte → List Byte
  | [] => []
  | b :: r =>
    let next (z : Nat) : Nat := if b = 0 then z + 1 else 0
    if 2 ≤ z ∧ b.toNat ≤ 3 then 3 :: b :: emulated (next 0) r else b :: emulated (next z) r

/-- A NAL unit of an RBSP's bits before their trailing bits. -/
def nalOf (head : List Byte) (bits : List Bool) : List Byte := head ++ emulated 0 (packed (trailed bits))

/-! ### Parameter sets -/

/-- The format of a stream, as its parameter sets give it (R308, R309, R311, R312). -/
structure EncFormat where
  h265 : Bool
  /-- general_profile_idc or profile_idc, and the constraint flags of H.264. -/
  profile : Nat
  constraints : Nat
  level : Nat
  tenBits : Bool
  /-- Wa and Ha, and the columns and rows that the conformance window or the frame cropping takes off. -/
  width : Nat
  height : Nat
  right : Nat
  bottom : Nat
  /-- The HRD: rate in bit/s and size in bits. -/
  bitRate : Nat
  cpbSize : Nat
  /-- What the spec leaves open: log2 of the range of frame numbers or picture order counts less 4, and the QP
  that slice QPs are relative to. -/
  orderBits : Nat
  initQp : Nat
  deriving DecidableEq, Repr

/-- Columns and rows cut off, in units of two samples. -/
def EncFormat.window (f : EncFormat) : List Bool :=
  let cut := f.right != 0 || f.bottom != 0
  bitsF cut ++ if cut then bitsUe 0 ++ bitsUe (f.right / 2) ++ bitsUe 0 ++ bitsUe (f.bottom / 2) else []

/-- Rate, size and cbr_flag = 0 of the one CPB, in units of 64 bit/s and of 16 bits (R312). -/
def EncFormat.cpb (f : EncFormat) : List Bool :=
  bitsUe ((f.bitRate + 63) / 64 - 1) ++ bitsUe ((f.cpbSize + 15) / 16 - 1) ++ bitsF false

/-- Motion vectors of R310, no reordering and one reference. -/
def motionLimits : List Bool := bitsUe 0 ++ bitsUe 0 ++ bitsUe 10 ++ bitsUe 9

/-- The clock of timing elements: 90 kHz. -/
def clockTick : List Bool := bitsU 32 1 ++ bitsU 32 90000

/-- profile_tier_level of H.265: Main tier. -/
def EncFormat.profileTier (f : EncFormat) : List Bool :=
  bitsU 3 0 ++ bitsU 5 f.profile ++ bitsU 32 (if f.profile = 1 then 0x60000000 else 0x20000000) ++
    bitsU 4 0b1011 ++ bitsU 44 0 ++ bitsU 8 f.level

/-- Pictures held for reference: one, and nothing is reordered. -/
def subLayer : List Bool := bitsF true ++ bitsUe 1 ++ bitsUe 0 ++ bitsUe 0

def EncFormat.vps (f : EncFormat) : List Bool :=
  bitsU 4 0 ++ bitsU 2 3 ++ bitsU 6 0 ++ bitsU 3 0 ++ bitsF true ++ bitsU 16 0xFFFF ++ f.profileTier ++
    subLayer ++ bitsU 6 0 ++ bitsUe 0 ++ bitsF false ++ bitsF false

/-- The VUI of H.265: timing, HRD and the restrictions of R310. -/
def EncFormat.vui265 (f : EncFormat) : List Bool :=
  bitsU 8 0 ++ bitsF true ++ clockTick ++ bitsF false ++ bitsF true ++
    -- hrd_parameters: NAL only, one CPB
    bitsF true ++ bitsF false ++ bitsF false ++ bitsU 8 0 ++ bitsU 5 31 ++ bitsU 5 31 ++ bitsU 5 31 ++
    bitsU 3 0 ++ bitsUe 0 ++ f.cpb ++
    bitsF true ++ bitsU 3 0b010 ++ bitsUe 0 ++ motionLimits

/-- CTB 32, CU from 8, TU 4 to 32; SAO; no AMP, TMVP or scaling lists; one reference, the picture before. -/
def EncFormat.sps265 (f : EncFormat) : List Bool :=
  let depth := if f.tenBits then 2 else 0
  bitsU 4 0 ++ bitsU 3 0 ++ bitsF true ++ f.profileTier ++ bitsUe 0 ++ bitsUe 1 ++ bitsUe f.width ++
    bitsUe f.height ++ f.window ++ bitsUe depth ++ bitsUe depth ++ bitsUe f.orderBits ++ subLayer ++
    bitsUe 0 ++ bitsUe 2 ++ bitsUe 0 ++ bitsUe 3 ++ bitsUe 3 ++ bitsUe 3 ++
    bitsF false ++ bitsF false ++ bitsF true ++ bitsF false ++
    bitsUe 1 ++ bitsUe 1 ++ bitsUe 0 ++ bitsUe 0 ++ bitsF true ++
    bitsF false ++ bitsF false ++ bitsF false ++ bitsF true ++ f.vui265 ++ bitsF false

/-- A QP for each CTU; no transform skip, tiles or WPP, and no loop filter across slices. -/
def EncFormat.pps265 (f : EncFormat) : List Bool :=
  bitsUe 0 ++ bitsUe 0 ++ bitsU 5 0 ++ bitsU 2 0 ++ bitsUe 0 ++ bitsUe 0 ++ bitsSe ((f.initQp : Int) - 26) ++
    bitsU 2 0 ++ bitsF true ++ bitsUe 0 ++ bitsSe 0 ++ bitsSe 0 ++ bitsU 6 0 ++ bitsF false ++
    bitsU 3 0 ++ bitsUe 0 ++ bitsU 2 0

/-- The VUI of H.264. -/
def EncFormat.vui264 (f : EncFormat) : List Bool :=
  bitsU 4 0 ++ bitsF true ++ clockTick ++ bitsF false ++
    bitsF true ++ bitsUe 0 ++ bitsU 8 0 ++ f.cpb ++ bitsU 5 31 ++ bitsU 5 31 ++ bitsU 5 31 ++ bitsU 5 0 ++
    bitsF false ++ bitsF false ++ bitsF false ++
    bitsF true ++ bitsF true ++ motionLimits ++ bitsUe 0 ++ bitsUe 1

def EncFormat.sps264 (f : EncFormat) : List Bool :=
  bitsU 8 f.profile ++ bitsU 8 f.constraints ++ bitsU 8 f.level ++ bitsUe 0 ++
    (if f.profile = 100 then bitsUe 1 ++ bitsUe 0 ++ bitsUe 0 ++ bitsU 2 0 else []) ++
    bitsUe f.orderBits ++ bitsUe 2 ++ bitsUe 1 ++ bitsF false ++ bitsUe (f.width / 16 - 1) ++
    bitsUe (f.height / 16 - 1) ++ bitsF true ++ bitsF true ++ f.window ++ bitsF true ++ f.vui264

/-- CABAC and 8 × 8 transforms for High, CAVLC for Constrained Baseline; slices say how they are deblocked. -/
def EncFormat.pps264 (f : EncFormat) : List Bool :=
  let high := f.profile == 100
  bitsUe 0 ++ bitsUe 0 ++ bitsF high ++ bitsF false ++ bitsUe 0 ++ bitsUe 0 ++ bitsUe 0 ++ bitsU 3 0 ++
    bitsSe ((f.initQp : Int) - 26) ++ bitsSe 0 ++ bitsSe 0 ++ bitsF true ++ bitsU 2 0 ++
    if high then bitsF true ++ bitsF false ++ bitsSe 0 else []

/-- The parameter sets that go before an IDR picture (R311). -/
def EncFormat.sets (f : EncFormat) : List (List Byte) :=
  if f.h265 then [nalOf [0x40, 1] f.vps, nalOf [0x42, 1] f.sps265, nalOf [0x44, 1] f.pps265]
  else [nalOf [0x67] f.sps264, nalOf [0x68] f.pps264]

/-! ### SEI messages (R312) -/

/-- An SEI NAL unit of one message; the payload of a message is filled as an RBSP is where it does not end on a
whole byte. -/
def seiNal (h265 : Bool) (kind : Nat) (bits : List Bool) : List Byte :=
  let payload := packed (if bits.length % 8 = 0 then bits else trailed bits)
  (if h265 then [0x4E, 1] else [0x06]) ++
    emulated 0 ([BitVec.ofNat 8 kind, BitVec.ofNat 8 payload.length] ++ payload ++ [0x80])

/-- Buffering period: how long the CPB takes to fill to `full` bits at the rate, in ticks of 90 kHz, and an open
offset. -/
def EncFormat.bufferingPeriod (f : EncFormat) (full offset : Nat) : List Byte :=
  let delay := 90000 * full / max 1 f.bitRate
  seiNal f.h265 0 (bitsUe 0 ++ (if f.h265 then bitsU 2 0 ++ bitsU 32 0 else []) ++ bitsU 32 delay ++
    bitsU 32 offset)

/-- Picture timing: ticks of 90 kHz since the last IDR picture, and an open output delay. -/
def EncFormat.pictureTiming (f : EncFormat) (ticks delay : Nat) : List Byte :=
  seiNal f.h265 1 (bitsU 32 (if f.h265 then ticks - 1 else ticks) ++ bitsU 32 delay)

/-! ### Slices -/

/-- What a slice's header says; `openA` and `openB` give what the spec leaves open in it: the SAO flags or the
idr_pic_id, and the merge candidates or the cabac_init_idc. -/
structure SliceHead where
  idr : Bool
  /-- Its first CTU, of how many in the picture. -/
  first : Nat
  ctus : Nat
  /-- Coded pictures since the IDR picture. -/
  order : Nat
  qp : Nat
  openA : Nat
  openB : Nat
  deriving DecidableEq, Repr

/-- The header of a slice: with H.264, disable_deblocking_filter_idc = 2 (R309). -/
def EncFormat.sliceHeader (f : EncFormat) (s : SliceHead) : List Bool :=
  let order := bitsU (f.orderBits + 4) s.order
  let qp := bitsSe ((s.qp : Int) - f.initQp)
  if f.h265 then
    bitsF (s.first == 0) ++ (if s.idr then bitsF false else []) ++ bitsUe 0 ++
      (if s.first = 0 then [] else bitsU (Nat.log2 (2 * s.ctus - 1)) s.first) ++
      bitsUe (if s.idr then 2 else 1) ++ (if s.idr then [] else order ++ bitsF true) ++
      bitsU 2 s.openA ++ (if s.idr then [] else bitsF false ++ bitsUe (s.openB % 5)) ++ qp
  else
    bitsUe s.first ++ bitsUe (if s.idr then 2 else 0) ++ bitsUe 0 ++ order ++
      (if s.idr then bitsUe s.openA ++ bitsU 2 0 else bitsU 2 0 ++ bitsF false) ++
      (if f.profile = 100 ∧ ¬ s.idr then bitsUe (s.openB % 3) else []) ++ qp ++ bitsUe 2 ++
      bitsSe 0 ++ bitsSe 0

/-- The header of a slice's NAL unit: IDR_N_LP or TRAIL_R of H.265, an IDR or another slice of H.264. -/
def sliceHead (h265 idr : Bool) : List Byte :=
  match h265, idr with
  | true, true => [0x28, 1]
  | true, false => [0x02, 1]
  | false, true => [0x65]
  | false, false => [0x61]

/-- A slice's NAL unit: its header, and `n` bits that code its CTUs. CABAC data start on a whole byte, after
ones in H.264 and as after trailing bits in H.265. -/
def EncFormat.sliceNal (f : EncFormat) (s : SliceHead) (data : List Bool) : List Byte :=
  let h := f.sliceHeader s
  let fill := if f.h265 then trailed h
    else if f.profile = 100 then h ++ List.replicate ((8 - h.length % 8) % 8) true else h
  nalOf (sliceHead f.h265 s.idr) (fill ++ data)

end Sys2Proof.Machine
end

