-- ==== Sys2Proof/Machine/PixelOps.lean ====
section
/-! DEFINITION. Arithmetic on pixels: colour matrices and their presets (R250 to R252), component
widening (R244), chroma and scaling (R245, R247), blending (R253), the stale hatch (R224), the
pennant's shape (R227), and the block compression of decoded pictures (R198). -/

namespace Sys2Proof.Machine

/-! ### Rounding -/

/-- The nearest integer; where two are equally near and the spec names neither, an open value (log
entry 7). -/
def nearest (x : Rat) : Int :=
  if (2 * x).den = 1 ∧ x.den ≠ 1 then wholeOf x else (x + 1 / 2).floor

/-- The nearest integer, halves away from zero (R252). -/
def nearestAway (x : Rat) : Int := if x < 0 then -((-x + 1 / 2).floor) else (x + 1 / 2).floor

def clampInt (lo hi x : Int) : Int := max lo (min hi x)

/-- A component brought into 0 to 1023. -/
def comp10 (x : Int) : Nat := (clampInt 0 1023 x).toNat

/-! ### Pixels -/

/-- Three components of 10 bits. -/
structure Rgb where
  r : Nat
  g : Nat
  b : Nat
  deriving DecidableEq, Repr

/-- A colour packed as in registers and vault words: [29:20], [19:10], [9:0]. -/
def rgbOf (w : Nat) : Rgb := ⟨bitsOf w 20 10, bitsOf w 10 10, bitsOf w 0 10⟩

/-- A pixel word (R278, R283). -/
def Rgb.word (p : Rgb) : Nat := p.r % 1024 * 2 ^ 20 + p.g % 1024 * 2 ^ 10 + p.b % 1024

def Rgb.map2 (f : Nat → Nat → Nat) (p q : Rgb) : Rgb := ⟨f p.r q.r, f p.g q.g, f p.b q.b⟩

/-! ### Colour matrices (R250 to R252) -/

/-- A row of a 3 × 4 matrix: three coefficients with 12 fraction bits, and the offset. -/
structure MatRow where
  c0 : Int
  c1 : Int
  c2 : Int
  o : Int
  deriving DecidableEq, Repr

structure Mat where
  r : MatRow
  g : MatRow
  b : MatRow
  deriving DecidableEq, Repr

/-- One row applied to three components (R250). -/
def MatRow.apply (k : MatRow) (x y z : Nat) : Nat :=
  comp10 ((k.c0 * x + k.c1 * y + k.c2 * z + 2048) / 4096 + k.o)

def Mat.apply (k : Mat) (p : Rgb) : Rgb :=
  ⟨k.r.apply p.r p.g p.b, k.g.apply p.r p.g p.b, k.b.apply p.r p.g p.b⟩

def Mat.diagonal (c o : Int) : Mat := ⟨⟨c, 0, 0, o⟩, ⟨0, c, 0, o⟩, ⟨0, 0, c, o⟩⟩

/-- Kr and Kb of a YCbCr preset 3 to 8 (R251). -/
def presetK (preset : Nat) : Rat × Rat :=
  if preset < 5 then (299 / 1000, 114 / 1000)
  else if preset < 7 then (2126 / 10000, 722 / 10000)
  else (2627 / 10000, 593 / 10000)

/-- Limited range: the odd presets from 3. -/
def presetLimited (preset : Nat) : Bool := preset % 2 == 1

/-- A row of the conversion to RGB: coefficients rounded, offset from the rounded ones (R252). -/
def inRow (y0 : Int) (a b c : Rat) : MatRow :=
  let c0 := nearestAway (a * 4096)
  let c1 := nearestAway (b * 4096)
  let c2 := nearestAway (c * 4096)
  ⟨c0, c1, c2, nearestAway (-((c0 * y0 + c1 * 512 + c2 * 512 : Int) : Rat) / 4096)⟩

/-- A YCbCr preset as a layer's matrix (R252). -/
def inMat (preset : Nat) : Mat :=
  let k := presetK preset
  let kg := 1 - k.1 - k.2
  let lim := presetLimited preset
  let ys : Rat := if lim then 1023 / 876 else 1
  let cs : Rat := if lim then 1023 / 896 else 1
  let y0 : Int := if lim then 64 else 0
  ⟨inRow y0 ys 0 (cs * 2 * (1 - k.1)),
   inRow y0 ys (-(cs * 2 * k.2 * (1 - k.2) / kg)) (-(cs * 2 * k.1 * (1 - k.1) / kg)),
   inRow y0 ys (cs * 2 * (1 - k.2)) 0⟩

/-- A layer's preset other than PROGRAMMED and AUTO (R251). -/
def layerMat (preset : Nat) : Mat :=
  if preset = 1 then .diagonal 4096 0
  else if preset = 2 then .diagonal 4783 (-75)
  else inMat preset

/-- A YCbCr preset as a head's output matrix (R252). -/
def outMatY (preset : Nat) : Mat :=
  let k := presetK preset
  let kg := 1 - k.1 - k.2
  let lim := presetLimited preset
  let ys : Rat := if lim then 1023 / 876 else 1
  let cs : Rat := if lim then 1023 / 896 else 1
  let n (x : Rat) : Int := nearestAway (x * 4096)
  let db := 2 * (1 - k.2) * cs
  let dr := 2 * (1 - k.1) * cs
  ⟨⟨n (k.1 / ys), n (kg / ys), n (k.2 / ys), if lim then 64 else 0⟩,
   ⟨n (-k.1 / db), n (-kg / db), n ((1 - k.2) / db), 512⟩,
   ⟨n ((1 - k.1) / dr), n (-kg / dr), n (-k.2 / dr), 512⟩⟩

/-- A head's output preset other than PROGRAMMED; undefined values act as 1. -/
def outMat (preset : Nat) : Mat :=
  if preset = 2 then .diagonal 3507 64
  else if 3 ≤ preset ∧ preset ≤ 8 then outMatY preset
  else .diagonal 4096 0

/-! ### Pixel formats (R244) -/

/-- Bit replication of an n-bit component to 10 bits. -/
def widen (n v : Nat) : Nat :=
  if n = 5 then v * 32 + v else v * 2 ^ (10 - n) + v / 2 ^ (2 * n - 10)

/-- A pixel of a one-plane format: its components and its own alpha. -/
def pixelOf (format w : Nat) : Rgb × Nat :=
  if format = 4 then
    (⟨widen 5 (bitsOf w 11 5), widen 6 (bitsOf w 5 6), widen 5 (bitsOf w 0 5)⟩, 1023)
  else if format = 3 then (rgbOf w, 341 * bitsOf w 30 2)
  else
    (⟨widen 8 (bitsOf w 16 8), widen 8 (bitsOf w 8 8), widen 8 (bitsOf w 0 8)⟩,
     if format = 1 then widen 8 (bitsOf w 24 8) else 1023)

/-- A YCbCr sample brought to 10 bits: 8-bit samples are shifted (R244). -/
def sample10 (ten : Bool) (v : Nat) : Nat := if ten then v % 1024 else v * 4 % 1024

/-! ### Blending (R253, R254) -/

/-- The effective alpha. -/
def alphaOf (ap global : Nat) : Nat := (ap * global + 511) / 1023

/-- One component over what lies below; `premult` is BLEND = PREMULT. -/
def blend1 (premult : Bool) (a global s d : Nat) : Nat :=
  if premult then min 1023 ((global * s + 511) / 1023 + ((1023 - a) * d + 511) / 1023)
  else (a * s + (1023 - a) * d + 511) / 1023

def blendPixel (premult : Bool) (a global : Nat) (s d : Rgb) : Rgb :=
  Rgb.map2 (fun s d => blend1 premult a global s d) s d

/-! ### Rectangles, hatch and pennant -/

/-- Corners, inclusive, in raster coordinates; empty where x1 < x0 or y1 < y0. -/
structure Rect where
  x0 : Int
  y0 : Int
  x1 : Int
  y1 : Int
  deriving DecidableEq, Repr

def Rect.isEmpty (r : Rect) : Bool := decide (r.x1 < r.x0) || decide (r.y1 < r.y0)
def Rect.has (r : Rect) (x y : Int) : Bool :=
  decide (r.x0 ≤ x ∧ x ≤ r.x1 ∧ r.y0 ≤ y ∧ y ≤ r.y1)
def Rect.meets (a b : Rect) : Bool :=
  !a.isEmpty && !b.isEmpty && decide (a.x0 ≤ b.x1 ∧ b.x0 ≤ a.x1 ∧ a.y0 ≤ b.y1 ∧ b.y0 ≤ a.y1)

/-- A rectangle clipped to a raster. -/
def Rect.clip (r : Rect) (w h : Nat) : Rect :=
  ⟨max 0 r.x0, max 0 r.y0, min ((w : Int) - 1) r.x1, min ((h : Int) - 1) r.y1⟩

/-- How a line of a layer is marked (R224, R226). -/
inductive Mark
  | none | border | hatch
  deriving DecidableEq, Repr

def onBorder (v : Rect) (x y : Int) : Bool :=
  decide (x ≤ v.x0 + 3) || decide (v.x1 - 3 ≤ x) || decide (y ≤ v.y0 + 3) || decide (v.y1 - 3 ≤ y)

/-- The hatch on one pixel: its new value, or none where the hatch leaves it (R224, R226). -/
def hatchPixel (k : Mark) (v : Rect) (x y : Int) (p h : Rgb) : Option Rgb :=
  match k with
  | .none => Option.none
  | .border => if onBorder v x y then some h else Option.none
  | .hatch =>
    if onBorder v x y then some h
    else if (x + y) % 32 < 8 then some (Rgb.map2 (fun p h => (p + h + 1) / 2) p h)
    else Option.none

/-- A pennant's box: its left column and top row, and whether its hoist is the rightmost column. -/
structure Pennant where
  x : Int
  y : Int
  hoistRight : Bool
  deriving DecidableEq, Repr

def Pennant.box (p : Pennant) : Rect := ⟨p.x, p.y, p.x + 23, p.y + 15⟩

/-- The place of a pennant at a corner of a visible rectangle (R228). -/
def pennantAt (v : Rect) (corner inset : Nat) : Pennant :=
  { x := if corner % 2 = 0 then v.x0 + inset else v.x1 - inset - 23
    y := if corner < 2 then v.y0 + inset else v.y1 - inset - 15
    hoistRight := corner % 2 == 1 }

/-- A box pixel belongs to the pennant (R227). -/
def inPennant (u v : Int) : Bool :=
  decide (0 ≤ u ∧ u ≤ 23 ∧ 0 ≤ v ∧ v ≤ 15) &&
  decide (3 * (2 * v - 15).natAbs ≤ (47 - 2 * u).toNat)

/-- A pennant pixel with a 4-neighbour outside (R232). -/
def onPennantEdge (u v : Int) : Bool :=
  inPennant u v &&
  !(inPennant (u - 1) v && inPennant (u + 1) v && inPennant u (v - 1) && inPennant u (v + 1))

/-- Colours of the vault words (R233). -/
structure PenColours where
  lit : Rgb
  base : Rgb
  struck : Rgb
  dot : Rgb
  deriving DecidableEq, Repr

/-- The colour a pennant gives a raster pixel; none outside it (R230 to R232). -/
def Pennant.colour (p : Pennant) (c : PenColours) (phase : Nat) (struck dotted : Bool)
    (x y : Int) : Option Rgb :=
  let u := if p.hoistRight then p.x + 23 - x else x - p.x
  let v := y - p.y
  if !inPennant u v then none
  else if dotted && onPennantEdge u v && decide ((u + v) % 4 < 2) then some c.dot
  else if struck then some c.struck
  else if u / 6 = (phase : Int) then some c.lit
  else some c.base

/-! ### Sampling (R245 to R247) -/

/-- A layer's source and destination rectangles. -/
structure Geometry where
  dstX : Int
  dstY : Int
  dstW : Nat
  dstH : Nat
  srcX : Nat
  srcY : Nat
  srcW : Nat
  srcH : Nat
  deriving DecidableEq, Repr

/-- A destination coordinate in source pixel centres (R247). -/
def srcPos (s0 : Nat) (d d0 : Int) (sn dn : Nat) : Rat :=
  (s0 : Rat) + ((d - d0 : Int) + 1 / 2 : Rat) * (sn : Rat) / (dn : Rat) - 1 / 2

/-- Inside `[s0, s0 + n)`, the nearest (R247). -/
def inside (s0 n : Nat) (i : Int) : Nat := (clampInt s0 ((s0 : Int) + n - 1) i).toNat

/-- The nearest source pixel; of two equally near ones, the module's choice (log entry 11). -/
def nearestPixel (x : Rat) : Int :=
  if (2 * x).den = 1 ∧ x.den ≠ 1 then x.floor + (if Config.nearestHigh then 1 else 0)
  else (x + 1 / 2).floor

def Geometry.unity (g : Geometry) : Bool := g.dstW == g.srcW && g.dstH == g.srcH

/-- A sampling position in the filter's 64 phases: the source pixel at or before it and the phase
(R247; log entry 11). -/
def phasePos (x : Rat) : Int × Nat :=
  let k := wholeOf (64 * x)
  (k / 64, (k % 64).toNat)

/-- Source rows that a destination line samples, first and last (R247). -/
def Geometry.rows (g : Geometry) (nearestFilter : Bool) (y : Int) : Nat × Nat :=
  let ys := srcPos g.srcY y g.dstY g.srcH g.dstH
  let at1 (i : Int) : Nat := inside g.srcY g.srcH i
  if g.unity || nearestFilter then (at1 (nearestPixel ys), at1 (nearestPixel ys))
  else (at1 ((phasePos ys).1 - 1), at1 ((phasePos ys).1 + 2))

/-- Source columns that destination columns `x0` to `x1` sample, first and last (R246, R247). -/
def Geometry.cols (g : Geometry) (nearestFilter : Bool) (x0 x1 : Int) : Nat × Nat :=
  let xs (x : Int) : Rat := srcPos g.srcX x g.dstX g.srcW g.dstW
  let at1 (i : Int) : Nat := inside g.srcX g.srcW i
  if g.unity || nearestFilter then (at1 (nearestPixel (xs x0)), at1 (nearestPixel (xs x1)))
  else (at1 ((phasePos (xs x0)).1 - 3), at1 ((phasePos (xs x1)).1 + 4))

def sumRat (l : List Rat) : Rat := l.foldl (· + ·) 0

/-- The coefficients of `n` taps of a filter at a phase: those but the last as the module fixes them, and
their sum exactly 1 (R247). -/
def tapsOf (coef : Nat → Nat → Rat) (n phase : Nat) : List Rat :=
  let l := (List.range (n - 1)).map (coef phase)
  l ++ [1 - sumRat l]

/-- The sum of samples weighted by coefficients. -/
def weigh (c s : List Rat) : Rat := sumRat ((c.zip s).map fun e => e.1 * e.2)

/-- The polyphase filter over four rows of eight samples at a horizontal and a vertical phase (R247; log
entry 11). -/
def polyphase (px py : Nat) (rows : List (List Nat)) : Nat :=
  let across (r : List Nat) : Rat := weigh (tapsOf Config.tapH 8 px) (r.map fun s => (s : Rat))
  comp10 (wholeOf (weigh (tapsOf Config.tapV 4 py) (rows.map across)))

/-- Sample the source at a destination pixel: `get` gives the components and alpha of a source pixel. -/
def Geometry.sample (g : Geometry) (nearestFilter : Bool) (get : Nat → Nat → Rgb × Nat)
    (x y : Int) : Rgb × Nat :=
  let xs := srcPos g.srcX x g.dstX g.srcW g.dstW
  let ys := srcPos g.srcY y g.dstY g.srcH g.dstH
  let px (i j : Int) : Rgb × Nat := get (inside g.srcX g.srcW i) (inside g.srcY g.srcH j)
  if g.unity || nearestFilter then px (nearestPixel xs) (nearestPixel ys)
  else
    let u := phasePos xs
    let v := phasePos ys
    let taps := (List.range 4).map fun j => (List.range 8).map fun i =>
      px (u.1 - 3 + (i : Nat)) (v.1 - 1 + (j : Nat))
    let f (c : Rgb × Nat → Nat) : Nat := polyphase u.2 v.2 (taps.map fun r => r.map c)
    (⟨f fun p => p.1.r, f fun p => p.1.g, f fun p => p.1.b⟩, f fun p => p.2)

/-- Chroma subsampling. -/
def halfW : Chroma → Bool
  | .c444 => false
  | _ => true
def halfH : Chroma → Bool
  | .c420 => true
  | _ => false

/-- The two chroma positions around a luma position in one axis, with the weight of the second in
quarters (R245). -/
def chromaTaps (half centred : Bool) (x : Nat) : Int × Int × Nat :=
  if !half then (x, x, 0)
  else
    let i : Int := (x / 2 : Nat)
    if centred then (if x % 2 = 0 then (i - 1, i, 3) else (i, i + 1, 1))
    else (if x % 2 = 0 then (i, i, 0) else (i, i + 1, 2))

/-- Chroma at a luma position by bilinear interpolation (R245), a whole number or one of its neighbours
(log entry 11); `get` clamps its arguments. -/
def upsample (c : Chroma) (jpeg : Bool) (get : Int → Int → Nat) (x y : Nat) : Nat :=
  let h := chromaTaps (halfW c) jpeg x
  let v := chromaTaps (halfH c) true y
  let row (j : Int) : Nat := (4 - h.2.2) * get h.1 j + h.2.2 * get h.2.1 j
  comp10 (wholeOf (((4 - v.2.2) * row v.1 + v.2.2 * row v.2.1 : Nat) / 16 : Rat))

/-! ### Block compression (R197, R198) -/

/-- Samples across a block: 32 at 1 byte, 16 at 2 bytes; blocks are 4 rows high. -/
def blockWidth (b : Nat) : Nat := 32 / b

/-- Bytes of a plane's raster of blocks. -/
def planeBytes (w h b : Nat) : Nat := w * h * b

/-- The index of the sample from which sample `i` of a block is predicted; `two` marks interleaved
chroma (R198; the second component's first sample, and the form of 10-bit samples: log entry 12). -/
def predictorOf (bw : Nat) (two : Bool) (i : Nat) : Nat :=
  let step := if two then 2 else 1
  if step ≤ i % bw then i - step
  else if bw ≤ i then i - bw
  else i - 1

/-- The place of a sample in its stored bytes: bits [15:6] at 10 bits (R197). -/
def sampleUnit (b : Nat) : Nat := if b = 2 then 64 else 1

/-- The raw samples of a block, in bytes. -/
def packRaw (b : Nat) (s : List Nat) : List Byte := s.flatMap fun v => toLE b (v * sampleUnit b)

/-- The differences of a block's samples from their predictors, after the first. -/
def residuals (bw : Nat) (two : Bool) (s : List Nat) : List Int :=
  (List.range (s.length - 1)).map fun i =>
    (s.getD (i + 1) 0 : Int) - s.getD (predictorOf bw two (i + 1)) 0

/-- A residual fits in `k` bits, two's complement. -/
def fitsBits (k : Nat) (r : Int) : Bool :=
  if k = 0 then r == 0 else decide (-(2 : Int) ^ (k - 1) ≤ r ∧ r < (2 : Int) ^ (k - 1))

/-- A number of `n` fields of `k` bits each, the first least significant. -/
def packBits (k : Nat) : List Int → Nat
  | [] => 0
  | r :: l => twosOf k r + 2 ^ k * packBits k l

/-- A block's code and its bytes: the smallest width and code that hold it, else raw (R198). -/
def compressBlock (b : Nat) (two : Bool) (s : List Nat) : Nat × List Byte :=
  let rs := residuals (blockWidth b) two s
  match (List.range 20).find? fun k => rs.all (fitsBits k) with
  | some k =>
    let n := 3 + (k * rs.length + 7) / 8
    if n ≤ 96 then
      ((n + 31) / 32 - 1,
       BitVec.ofNat 8 k :: toLE 2 (s.getD 0 0 * sampleUnit b) ++ toLE ((k * rs.length + 7) / 8) (packBits k rs))
    else (3, packRaw b s)
  | none => (3, packRaw b s)

/-- The samples of a compressed block, built up in raster order. -/
def unpackResiduals (bw : Nat) (two : Bool) (k bits span : Nat) : Nat → List Nat → List Nat
  | 0, acc => acc
  | n + 1, acc =>
    let i := acc.length
    let r := signedOf k (bitsOf bits (k * (i - 1)) k)
    let v := ((acc.getD (predictorOf bw two i) 0 : Int) + r) % (span : Int)
    unpackResiduals bw two k bits span n (acc ++ [v.toNat])

/-- A block's samples from its code and its bytes. -/
def expandBlock (b : Nat) (two : Bool) (code : Nat) (bytes : List Byte) : List Nat :=
  let n := 128 / b
  if code = 3 then
    (List.range n).map fun i => leNat ((bytes.drop (i * b)).take b) / sampleUnit b
  else
    let k := (bytes.getD 0 0).toNat
    let span := 2 ^ (8 * b) / sampleUnit b
    unpackResiduals (blockWidth b) two k (leNat (bytes.drop 3)) span (n - 1)
      [leNat ((bytes.drop 1).take 2) / sampleUnit b % span]

end Sys2Proof.Machine
end

