-- ==== Sys2Proof/Machine/HeadBase.lean ====
section
/-! DEFINITION. Raster timing of heads (R265 to R273), the layer slots as a head shows them (R236 to
R246), and what other blocks need of both. -/

namespace Sys2Proof.Machine

/-! ### Records -/

def Mach.head (m : Mach) (h : Nat) : Head := tabGet .reset m.heads h
def Mach.updHead (m : Mach) (h : Nat) (f : Head → Head) : Mach :=
  { m with heads := tabSet m.heads h (f (m.head h)) }

def Mach.layer (m : Mach) (x : Nat) : Layer := tabGet .reset m.layers x
def Mach.updLayer (m : Mach) (x : Nat) (f : Layer → Layer) : Mach :=
  { m with layers := tabSet m.layers x (f (m.layer x)) }

/-! ### Raster timing (R265, R266, R272, R273) -/

def Mach.hActive (m : Mach) (h : Nat) : Nat := m.get (Fld.HEAD_HTIME_A_HACTIVE h)

def Mach.hTotal (m : Mach) (h : Nat) : Nat :=
  m.hActive h + m.get (Fld.HEAD_HTIME_A_HFP h) + m.get (Fld.HEAD_HTIME_B_HSYNC h) +
  m.get (Fld.HEAD_HTIME_B_HBP h)

def Mach.frNum (m : Mach) (h : Nat) : Nat := m.get (Fld.HEAD_FRATE_FR_NUM h)
def Mach.frDen (m : Mach) (h : Nat) : Nat := m.get (Fld.HEAD_FRATE_FR_DEN h)

/-- The pixel clock, Hz. -/
def Mach.pixelClock (m : Mach) (h : Nat) : Rat :=
  ((m.hTotal h * m.vTotal h * m.frNum h : Nat) : Rat) / (m.frDen h : Rat)

/-- The frame period and the line period, ns. -/
def Mach.framePeriod (m : Mach) (h : Nat) : Rat :=
  ((m.frDen h * 1000000000 : Nat) : Rat) / (m.frNum h : Rat)
def Mach.linePeriod (m : Mach) (h : Nat) : Rat := m.framePeriod h / (m.vTotal h : Rat)

/-- The pixel clock as the DPLL gives it, and a line's time in LOCAL, which runs at the DPLL's rate too (R351): the
head's offset acts on both. -/
def Mach.pixelRate (m : Mach) (h : Nat) : Rat :=
  m.pixelClock h * (1 + m.dpllF) * (1 + (m.head h).ppm / 1000000)
def Mach.lineTime (m : Mach) (h : Nat) : Rat := m.linePeriod h / (1 + (m.head h).ppm / 1000000)

/-- What a view advances by on the tick that runs, ns (R327, R331). -/
def Mach.viewStep (m : Mach) (v : Nat) : Rat :=
  (m.incr : Rat) / unitNs * (if v = 0 then 1 else 1 + m.domRate (v - 1))

/-- An instant of the grid k × `period` + `phase`, rounded to 2^-16 ns as R268 has it, falls within the tick
that runs, from `t` on for `step` ns. -/
def gridIn (t step period phase : Rat) : Bool :=
  let k := ((t - phase) / period).floor
  [k - 1, k, k + 1].any fun (k : Int) =>
    let g : Rat := (nearest (((k : Rat) * period + phase) * 65536) : Rat) / 65536
    decide (t ≤ g ∧ g < t + step)

/-- The fixed delay of R272, ns. -/
def Mach.pipeDelay (m : Mach) (h : Nat) : Rat :=
  if h < 16 then 48000000000 / m.pixelClock h + 60 else 400

/-- A head that is balloted and compared (R427). -/
def Mach.balloted (m : Mach) (h : Nat) : Bool := m.paired && m.compared h

/-- A head takes its set at the ballot latch: on the standby (R427), and on a unit that has acquired
possession until its next ballot latch has passed (R434). -/
def Mach.followsBallot (m : Mach) (h : Nat) : Bool :=
  m.balloted h && (!m.pair.poss || m.pair.takeover.contains h)

/-- The line at whose start the head takes its set (R273, R427). -/
def Mach.takeLine (m : Mach) (h : Nat) : Nat :=
  m.latchLine h + if m.followsBallot h then m.ballotLag else 0

def Mach.scanning (m : Mach) (h : Nat) : Bool := m.is (Fld.HEAD_STATUS_SCANNING h)
def Mach.slated (m : Mach) (h : Nat) : Bool := m.is (Fld.HEAD_STATUS_SLATE h)

/-- TE_SYNC acts on DSI heads only (R300). -/
def Mach.teSync (m : Mach) (h : Nat) : Bool := 16 ≤ h && m.is (Fld.HEAD_DSI_CTRL_TE_SYNC h)

/-- A head is in panic (R289, R369). -/
def Mach.anyPanic (m : Mach) : Bool := (List.range 20).any fun h => m.is (Fld.HEAD_STATUS_PANIC h)

/-- LOCAL in ns. -/
def Mach.nowNs (m : Mach) : Nat := m.now / unitNs

/-- The lines from the line in progress to the next start of line `y`, in this frame or the next
(log entry 13). -/
def Mach.linesTo (m : Mach) (h y : Nat) : Nat :=
  let r := m.head h
  if r.line < y then y - r.line else r.vtot - r.line + y

/-- When line `y` of a head next starts, LOCAL ns. -/
def Mach.lineStart (m : Mach) (h y : Nat) : Rat :=
  ((m.head h).startAt : Rat) / (unitNs : Rat) + (m.linesTo h y : Rat) * m.linePeriod h

/-- The first latch instant of a head strictly after a time (R185): nominal periods (log entry 13). -/
def Mach.latchAfter (m : Mach) (h : Nat) (t : Rat) : Option Rat :=
  if !m.scanning h then none
  else
    let t0 := m.lineStart h (m.takeLine h)
    if t < t0 then some t0
    else some (t0 + (((t - t0) / m.framePeriod h).floor + 1 : Int) * m.framePeriod h)

/-! ### The layers of a head (R236, R239) -/

def layerRecord (key : Nat) : Option Nat :=
  if regKey 0 0x1D 0x1000 ≤ key ∧ key < regKey 0 0x1D 0x7000 ∧ key % 0x40 = 0 then
    some ((key - regKey 0 0x1D 0x1000) / 0x40)
  else none

/-- Slots assigned to a head, lowest first: only a listed LAYER_OWN has ASSIGNED set. -/
def Mach.slotsOf (m : Mach) (h : Nat) : List Nat :=
  m.regs.filterMap fun e => match layerRecord e.1 with
    | some x => if bitsOf e.2.toNat 31 1 = 1 ∧ bitsOf e.2.toNat 0 5 = h then some x else none
    | none => none

/-- Slots assigned to any head. -/
def Mach.assignedSlots (m : Mach) : List Nat :=
  m.regs.filterMap fun e => match layerRecord e.1 with
    | some x => if bitsOf e.2.toNat 31 1 = 1 then some x else none
    | none => none

def Mach.owner (m : Mach) (x : Nat) : Nat := m.get (Fld.LAYER_OWN_OWNER x)

/-- Fields of a slot in effect. -/
def Mach.layerOn (m : Mach) (x : Nat) : Bool := m.latIs (Fld.LAYER_CTRL_EN x)
def Mach.layerKind (m : Mach) (x : Nat) : Nat := m.lat (Fld.LAYER_CTRL_KIND x)
def kindStream : Nat := 0
def kindBuffer : Nat := 1
def kindSolid : Nat := 2

/-- A layer whose source is a stream is timed (R222). -/
def Mach.timed (m : Mach) (x : Nat) : Bool := m.layerKind x == kindStream

def Mach.layerStream (m : Mach) (x : Nat) : Nat := m.lat (Fld.LAYER_CTRL_STREAM x)

/-- Insert a slot by Z, then by number (R239). -/
def Mach.insertZ (m : Mach) (x : Nat) : List Nat → List Nat
  | [] => [x]
  | y :: r =>
    let zx := m.lat (Fld.LAYER_CTRL_Z x)
    let zy := m.lat (Fld.LAYER_CTRL_Z y)
    if zx < zy ∨ zx = zy ∧ x < y then x :: y :: r else y :: m.insertZ x r

/-- A head's enabled slots in blending order, lowest first. -/
def Mach.stack (m : Mach) (h : Nat) : List Nat :=
  ((m.slotsOf h).filter m.layerOn).foldl (fun l x => m.insertZ x l) []

/-- A layer's geometry in effect (R246). -/
def Mach.geometry (m : Mach) (x : Nat) : Geometry :=
  { dstX := signedOf 16 (m.lat (Fld.LAYER_DST_POS_DST_X x))
    dstY := signedOf 16 (m.lat (Fld.LAYER_DST_POS_DST_Y x))
    dstW := m.lat (Fld.LAYER_DST_SIZE_DST_W x)
    dstH := m.lat (Fld.LAYER_DST_SIZE_DST_H x)
    srcX := m.lat (Fld.LAYER_SRC_POS_SRC_X x)
    srcY := m.lat (Fld.LAYER_SRC_POS_SRC_Y x)
    srcW := m.lat (Fld.LAYER_SRC_SIZE_SRC_W x)
    srcH := m.lat (Fld.LAYER_SRC_SIZE_SRC_H x) }

def Geometry.rect (g : Geometry) : Rect :=
  ⟨g.dstX, g.dstY, g.dstX + g.dstW - 1, g.dstY + g.dstH - 1⟩

/-- A layer's visible rectangle on its head (R246). -/
def Mach.visible (m : Mach) (h x : Nat) : Rect :=
  (m.geometry x).rect.clip (m.hActive h) (m.vActive h)

def Mach.filterNearest (m : Mach) (x : Nat) : Bool := m.latIs (Fld.LAYER_CTRL_FILTER x)

/-- Source rows that a line of a layer reads, first and last. -/
def Mach.rowsOf (m : Mach) (x : Nat) (y : Int) : Nat × Nat :=
  (m.geometry x).rows (m.filterNearest x) y

/-- Base addresses of a BUFFER layer's planes in effect. -/
def Mach.planeAddr (m : Mach) (x p : Nat) : Nat :=
  if p = 0 then m.lat (Fld.LAYER_ADDR_HI_ADDR0_HI x) * 2 ^ 32 +
    m.lat (Fld.LAYER_ADDR0_ADDR_LO x) * 64
  else m.lat (Fld.LAYER_ADDR_HI_ADDR1_HI x) * 2 ^ 32 + m.lat (Fld.LAYER_ADDR1_ADDR_LO x) * 64

def Mach.layerFormat (m : Mach) (x : Nat) : Nat := m.lat (Fld.LAYER_FMT_FORMAT x)

/-- Planes of a format, and bytes of a pixel in plane 0 (R244). -/
def planesOf (format : Nat) : Nat := if 5 ≤ format then 2 else 1
def pixelBytes (format : Nat) : Nat :=
  if format ≤ 3 then 4 else if format = 4 ∨ format = 6 then 2 else 1

/-- Chroma of a two-plane format. -/
def formatChroma (format : Nat) : Chroma := if format = 7 then .c422 else .c420

/-- First row and number of rows of a plane that a BUFFER layer's source rectangle covers (R258). -/
def Mach.planeRows (m : Mach) (x p : Nat) : Nat × Nat :=
  let g := m.geometry x
  if p = 1 ∧ halfH (formatChroma (m.layerFormat x)) = true then (g.srcY / 2, g.srcH / 2)
  else (g.srcY, g.srcH)

/-- The bytes that a plane of a BUFFER layer fetches, first and last (R258). -/
def Mach.planeRange (m : Mach) (x p : Nat) : Nat × Nat :=
  let q := m.planeRows x p
  let a := m.planeAddr x p
  let pitch := m.lat (Fld.LAYER_FMT_PITCH x)
  (a + q.1 * pitch, a + (q.1 + q.2) * pitch - 1)

/-- Layers bound to a stream: assigned, enabled and showing it (the freshness ledger). -/
def Mach.layersOf (m : Mach) (strm : Nat) : List Nat :=
  m.assignedSlots.filter fun x =>
    m.layerOn x && m.layerKind x == kindStream && m.layerStream x == strm

/-- A layer acts in chase mode (R241, R428). -/
def Mach.chasing (m : Mach) (x : Nat) : Bool :=
  m.latIs (Fld.LAYER_CTRL_CHASE x) && !m.paired &&
  m.is (Fld.INGEST_SESS_CTRL_CHASE (m.get (Fld.DECSCHED_STREAM_CTRL_SESSION (m.layerStream x))))

/-- The head shows MODE = 1 with a buffer: frame-store mode (R278). -/
def Mach.fsMode (m : Mach) (h : Nat) : Bool :=
  m.latIs (Fld.HEAD_CTRL_MODE h) && m.is (Fld.HEAD_FS_ADDR_EN h)

end Sys2Proof.Machine
end

