-- ==== Sys2Proof/Machine/DecBase.lean ====
section
/-! DEFINITION. Descriptors and the pictures in them (R200 to R202, R255 to R257), the freeze
detectors (R216, R217), and the output order of decoded pictures (R201). -/

namespace Sys2Proof.Machine

def evDecErr : Nat := 0x60
def evDecReject : Nat := 0x61
def evDecShed : Nat := 0x62
def evDecOffside : Nat := 0x63
def evRetire : Nat := 0x64
def evDecRecovered : Nat := 0x65

/-! ### Records -/

def Mach.updDecode (m : Mach) (f : Decode → Decode) : Mach := { m with decode := f m.decode }

def Mach.strm (m : Mach) (x : Nat) : DecStream := tabGet .reset m.decode.streams x
def Mach.updStrm (m : Mach) (x : Nat) (f : DecStream → DecStream) : Mach :=
  m.updDecode fun d => { d with streams := tabSet d.streams x (f (tabGet .reset d.streams x)) }

def Mach.cell (m : Mach) (c : Nat) : DecCell := tabGet .reset m.decode.cells c
def Mach.updCell (m : Mach) (c : Nat) (f : DecCell → DecCell) : Mach :=
  m.updDecode fun d => { d with cells := tabSet d.cells c (f (tabGet .reset d.cells c)) }

def Mach.pic (m : Mach) (d : Nat) : Option Picture := tabFind m.decode.pics d
def Mach.updPic (m : Mach) (d : Nat) (f : Picture → Picture) : Mach :=
  match m.pic d with
  | some p => m.updDecode fun x => { x with pics := tabSet x.pics d (f p) }
  | none => m

/-! ### Descriptor states (R200) -/

def dFree : Nat := 0
def dFilling : Nat := 1
def dReady : Nat := 2
def dRetiring : Nat := 3

def Mach.descState (m : Mach) (d : Nat) : Nat := m.get (Fld.DECSCHED_DESC_STATE_STATE d)
def Mach.descStream (m : Mach) (d : Nat) : Nat := m.get (Fld.DECSCHED_DESC_STATE_STREAM d)
def Mach.descHold (m : Mach) (d : Nat) : Nat := m.get (Fld.DECSCHED_DESC_STATE_HOLD d)

/-- Report a descriptor that has become FREE (R200). -/
def Mach.retirePush (m : Mach) (d : Nat) : Mach :=
  (if 256 ≤ m.decode.retire.length then m.updDecode fun x => { x with retireOverflow := true }
   else m.updDecode fun x => { x with retire := x.retire ++ [d] }).raise evRetire

/-- A descriptor enters FREE; `report` tells whether it enters the retire queue. -/
def Mach.toFree (m : Mach) (d : Nat) (report : Bool) : Mach :=
  let m := m.put (Fld.DECSCHED_DESC_STATE_STATE d) dFree
  let m := (m.put (Fld.DECSCHED_DESC_STATE_REF d) 0).put (Fld.DECSCHED_DESC_STATE_KEEP d) 0
  let m := m.updDecode fun x => { x with pics := tabDel x.pics d }
  if report then m.retirePush d else m

/-- A descriptor is freed, or its picture is abandoned: FREE, or RETIRING while held. -/
def Mach.letGo (m : Mach) (d : Nat) (report : Bool) : Mach :=
  if m.descHold d = 0 then m.toFree d report else m.put (Fld.DECSCHED_DESC_STATE_STATE d) dRetiring

/-- Take a hold; none is taken in FREE or RETIRING. -/
def Mach.takeHold (m : Mach) (d : Nat) : Mach :=
  if m.descState d = dReady ∨ m.descState d = dFilling then
    m.put (Fld.DECSCHED_DESC_STATE_HOLD d) (m.descHold d + 1)
  else m

/-- Release a hold; the last one frees a RETIRING descriptor. -/
def Mach.dropHold (m : Mach) (d : Nat) : Mach :=
  let m := m.put (Fld.DECSCHED_DESC_STATE_HOLD d) (m.descHold d - 1)
  if m.descState d = dRetiring ∧ m.descHold d = 0 then m.toFree d true else m

/-! ### READY pictures of a stream -/

/-- Descriptors in a state with pictures of a stream. -/
def Mach.descsOf (m : Mach) (x st : Nat) : List Nat :=
  (m.decode.pics.filter fun e => m.descState e.1 == st && m.descStream e.1 == x).map fun e => e.1

/-- A picture is later in output order than another place. -/
def Picture.after (p : Picture) (seqNo : Nat) (poc : Int) : Bool :=
  decide (seqNo < p.seqNo) || (p.seqNo == seqNo && decide (poc < p.poc))

/-- The latest of some descriptors in output order. -/
def Mach.latest (m : Mach) (ds : List Nat) : Option Nat :=
  ds.foldl (fun best d => match m.pic d, best with
    | some p, some b => match m.pic b with
      | some q => if p.after q.seqNo q.poc then some d else some b
      | none => some d
    | some _, none => some d
    | none, b => b) none

/-- The newest READY picture of a stream. -/
def Mach.newestReady (m : Mach) (x : Nat) : Option Nat := m.latest (m.descsOf x dReady)

/-- READY pictures of a stream for a latch: one that became READY on this tick is not (R16). -/
def Mach.readyBefore (m : Mach) (x : Nat) : List Nat :=
  (m.descsOf x dReady).filter fun d => match m.pic d with
    | some p => decide (p.readyAt < m.time.ticks)
    | none => false
def Mach.newestBefore (m : Mach) (x : Nat) : Option Nat := m.latest (m.readyBefore x)

/-- The first of two descriptors' pictures comes earlier in output order. -/
def Mach.earlier (m : Mach) (a b : Nat) : Bool :=
  match m.pic a, m.pic b with
  | some p, some q => q.after p.seqNo p.poc
  | _, _ => false

/-- Frees by the fabric (R202) of what is earlier than a READY picture: READY pictures that are not kept and not
used for reference; pictures from before the stream was disabled wait for the host (R180). -/
def Mach.freeEarlier (m : Mach) (x : Nat) : Option Nat → Mach
  | none => m
  | some n => forEach (m.descsOf x dReady) m fun m d =>
      if m.earlier d n = true ∧ m.is (Fld.DECSCHED_DESC_STATE_KEEP d) = false ∧
          m.is (Fld.DECSCHED_DESC_STATE_REF d) = false ∧
          (match m.pic d with | some p => p.stale | none => true) = false ∧
          m.is (Fld.DECSCHED_STREAM_CTRL_EN x) = true then m.letGo d false
      else m

/-- Frees by the fabric. A latch on the tick on which a picture becomes READY still takes an earlier one, and a
hold taken on that tick counts before the free (R16, R200): what only such a picture replaces is freed when the
tick has passed. -/
def Mach.freeOld (m : Mach) (x : Nat) : Mach := m.freeEarlier x (m.newestBefore x)

/-- A tick has passed: the frees that it brings, of every stream. -/
def Mach.freesPass (m : Mach) : Mach := forEach (m.decode.streams.map (·.1)) m Mach.freeOld

/-! ### Marks (R205) -/

/-- STREAM_STATUS.IMPAIRED: the newest picture or one in the DPB is IMPAIRED. -/
def Mach.streamImpaired (m : Mach) (x : Nat) : Bool :=
  (match m.newestReady x with
   | some d => m.is (Fld.DECSCHED_DESC_STATE_IMPAIRED d)
   | none => false) ||
  (m.strm x).dpb.any fun e => m.is (Fld.DECSCHED_DESC_STATE_IMPAIRED e.2)

/-- Clear the mark from every picture of a stream. -/
def Mach.clearImpaired (m : Mach) (x : Nat) : Mach :=
  let marked := m.decode.pics.filter fun e =>
    m.descStream e.1 == x && m.is (Fld.DECSCHED_DESC_STATE_IMPAIRED e.1)
  if marked.isEmpty then m
  else (forEach (marked.map fun e => e.1) m fun m d =>
    m.put (Fld.DECSCHED_DESC_STATE_IMPAIRED d) 0).raise evDecRecovered

/-! ### Freeze detectors (R216, R217) -/

def livePresent (w : Word) : Bool := w.getLsbD 15
def liveRepeat (w : Word) : Bool := w.getLsbD 12
def liveBits (w : Word) : Nat := bitsOf w.toNat 0 5
def liveAlive (w : Word) : Nat := bitsOf w.toNat 16 16

/-- P advances its alive counter with respect to Q (R217). -/
def advancing (q p : Word) : Bool :=
  livePresent q && livePresent p && !liveRepeat p &&
  (if liveBits p ≠ liveBits q then true
   else
    let n := liveBits p
    let s := (liveAlive p + 2 ^ n - liveAlive q % 2 ^ n) % 2 ^ n
    decide (1 ≤ s ∧ s < 2 ^ (n - 1)))

/-- The detectors look at a picture that becomes READY; its marks. -/
def Mach.detect (m : Mach) (x d : Nat) : Mach :=
  let live := m.rd (Reg.DECSCHED_DESC_LIVE d)
  let sig := m.rd (Reg.DECSCHED_DESC_SIG d)
  let s := m.strm x
  let runs : Nat × Nat := match s.prev, s.fresh with
    | some q, false =>
      (if livePresent live then
        if advancing q.live live then 0 else m.get (Fld.FRESH_STREAM_STATUS_ALIVE_RUN x) + 1
       else if m.is (Fld.FRESH_STREAM_FREEZE_ALIVE_REQ x) then
        m.get (Fld.FRESH_STREAM_STATUS_ALIVE_RUN x) + 1
       else 0,
       if sig = q.sig then m.get (Fld.FRESH_STREAM_STATUS_SAME_RUN x) + 1 else 0)
    | _, _ => (0, 0)
  let alive := min 255 runs.1
  let same := min 255 runs.2
  let freeze := m.get (Fld.FRESH_STREAM_FREEZE_SIG_FREEZE x)
  let fa := decide (max 1 (m.get (Fld.FRESH_STREAM_FREEZE_ALIVE_HOLD x)) ≤ alive)
  let fs := freeze != 0 && decide (max 2 freeze ≤ same + 1)
  let m := m.put (Fld.FRESH_STREAM_STATUS_ALIVE_RUN x) alive
  let m := m.put (Fld.FRESH_STREAM_STATUS_SAME_RUN x) same
  let m := m.putB (Fld.FRESH_STREAM_STATUS_FROZEN x) (fa || fs)
  let m := m.putB (Fld.FRESH_STREAM_STATUS_ALIVE_PRESENT x) (livePresent live)
  let m := m.updPic d fun p => { p with frozenAlive := fa, frozenSig := fs }
  m.updStrm x fun s => { s with prev := some ⟨live, sig, true⟩, fresh := false }

/-! ### Becoming READY (R201, R206) -/

/-- A picture becomes READY. -/
def Mach.becomeReady (m : Mach) (x d : Nat) : Mach :=
  match m.pic d with
  | none => m
  | some p =>
    let m := (m.put (Fld.DECSCHED_DESC_STATE_STATE d) dReady).updPic d fun p =>
      { p with readyAt := m.time.ticks }
    let m := m.count (Fld.DECSCHED_STREAM_CNT_COUNT x 0)
    let m := if m.is (Fld.DECSCHED_DESC_STATE_IMPAIRED d)
      then m.count (Fld.DECSCHED_STREAM_CNT_COUNT x 1) else m
    let m := if p.deadline < (m.nowNs : Rat) then m.count (Fld.DECSCHED_STREAM_CNT_COUNT x 7) else m
    let m := m.monSample 2 x (some 0x7FF) ((m.nowNs - p.queued) / 1000)
    ((m.detect x d).freeOld x).encNoteReady x d

/-- Insert into the held set by output order. -/
def insertHeld (k : Int × Nat) : List (Int × Nat) → List (Int × Nat)
  | [] => [k]
  | e :: r => if k.1 < e.1 then k :: e :: r else e :: insertHeld k r

/-- Release held pictures until no more than `limit` are held. -/
def Mach.releasePics (m : Mach) (x limit : Nat) : Nat → Mach
  | 0 => m
  | n + 1 => match (m.strm x).held with
    | [] => m
    | e :: r =>
      if (m.strm x).held.length ≤ limit then m
      else ((m.updStrm x fun s => { s with held := r }).becomeReady x e.2).releasePics x limit n

/-- All held pictures become READY, in output order. -/
def Mach.flushHeld (m : Mach) (x : Nat) : Mach := m.releasePics x 0 (m.strm x).held.length

/-- A decoded picture joins the held set (R201). -/
def Mach.holdBack (m : Mach) (x d : Nat) (poc : Int) : Mach :=
  let m := m.updStrm x fun s => { s with held := insertHeld (poc, d) s.held }
  m.releasePics x (m.strm x).reorder (m.strm x).held.length

/-! ### Commands to descriptors (R202) -/

/-- DESC_CMD.FREE. -/
def Mach.descFree (m : Mach) (d : Nat) : Mach :=
  if m.descState d = dFilling then m.put Fld.DECSCHED_STATUS_CMD_REJECT 1
  else
    let m := m.put (Fld.DECSCHED_DESC_STATE_KEEP d) 0
    if m.descState d = dReady ∧ m.is (Fld.DECSCHED_DESC_STATE_REF d) = false then m.letGo d true
    else m

/-- A write of DESC_CMD. -/
def Mach.descCommand (m : Mach) (d : Nat) (v : Word) : Mach :=
  match bitsOf v.toNat 0 3 with
  | 0 => m
  | 1 => m.descFree d
  | 2 => m.put (Fld.DECSCHED_DESC_STATE_KEEP d) 1
  | 4 => (m.put (Fld.DECSCHED_DESC_STATE_KEEP d) 0).freeOld (m.descStream d)
  | _ => m.put Fld.DECSCHED_STATUS_CMD_REJECT 1

/-- A read of DECSCHED.RETIRE removes the oldest index. -/
def Mach.readRetire (m : Mach) : Mach × Word :=
  let ovf := m.decode.retireOverflow.toNat * 2 ^ 30
  match m.decode.retire with
  | [] => (m, BitVec.ofNat 32 0)
  | d :: r =>
    (m.updDecode fun x => { x with retire := r, retireOverflow := false },
     BitVec.ofNat 32 (2 ^ 31 + ovf + d))

end Sys2Proof.Machine
end

