-- ==== Sys2Proof/Machine/VaultOps.lean ====
section
/-! DEFINITION. The vault: majority reads that repair, writes, and the injection (R401 to R403). -/

namespace Sys2Proof.Machine

def Mach.updVault (m : Mach) (f : Vault → Vault) : Mach := { m with vault := f m.vault }

/-- The three copies of a word. -/
def Mach.vaultCopies (m : Mach) (k : Nat) : Word × Word × Word :=
  (tabGet 0 m.vault.a k, tabGet 0 m.vault.b k, tabGet 0 m.vault.c k)

/-- The bitwise majority. -/
def majority (a b c : Word) : Word := (a &&& b) ||| (a &&& c) ||| (b &&& c)

def Mach.vaultMajority (m : Mach) (k : Nat) : Word :=
  majority (m.vaultCopies k).1 (m.vaultCopies k).2.1 (m.vaultCopies k).2.2

/-- Write all three copies. -/
def Mach.vaultStore (m : Mach) (k : Nat) (w : Word) : Mach :=
  m.updVault fun v => ⟨tabSet v.a k w, tabSet v.b k w, tabSet v.c k w⟩

/-- A read: the majority; copies that disagree are rewritten and reported (R401). -/
def Mach.vaultRead (m : Mach) (k : Nat) : Mach × Word :=
  let c := m.vaultCopies k
  let w := m.vaultMajority k
  if c.1 = w ∧ c.2.1 = w ∧ c.2.2 = w then (m, w)
  else
    let m := (m.vaultStore k w).count Fld.VAULT_DISAGREE_COUNT_COUNT
    let m := if m.is Fld.VAULT_STATUS_DISAGREE then m
      else (m.put Fld.VAULT_STATUS_FIRST_WORD k).put Fld.VAULT_STATUS_DISAGREE 1
    (m.raise evVaultDisagree, w)

/-- A write by a master: dropped after the boot lock (R94). -/
def Mach.vaultWrite (m : Mach) (k : Nat) (w : Word) : Mach :=
  if m.locked then m.put Fld.VAULT_STATUS_WRITE_DROPPED 1 else m.vaultStore k w

/-- A write of INJ (R403). -/
def Mach.vaultInject (m : Mach) (v : Word) : Mach :=
  if v.getLsbD 31 = false then m
  else
    let k := bitsOf v.toNat 16 8
    let copy := bitsOf v.toNat 24 2
    let bit : Word := BitVec.ofNat 32 (2 ^ bitsOf v.toNat 0 5)
    let c := m.vaultCopies k
    let w := m.vaultMajority k
    let bad := [c.1, c.2.1, c.2.2].zipIdx.any fun e => e.1 != w && e.2 != copy
    if copy = 3 ∨ bad = true then m.put Fld.VAULT_STATUS_INJ_REFUSED 1
    else if copy = 0 then m.updVault fun x => { x with a := tabSet x.a k (c.1 ^^^ bit) }
    else if copy = 1 then m.updVault fun x => { x with b := tabSet x.b k (c.2.1 ^^^ bit) }
    else m.updVault fun x => { x with c := tabSet x.c k (c.2.2 ^^^ bit) }

end Sys2Proof.Machine
end

