-- ==== Sys2Proof/Machine/FreshOps.lean ====
section
/-! DEFINITION. Freshness of layers (R209 to R235): what FRESH takes of a picture at a latch, ages and
states of lines, pennant placement and phase, and the close of a frame. -/

namespace Sys2Proof.Machine

def evFresh (code : Nat) : Nat := 0x4F + code
def evFreshLive : Nat := 0x55
def evFreshArrival : Nat := 0x56
def evFreshPen : Nat := 0x57

/-- State codes of R218. -/
def fLive : Nat := 0
def fLate : Nat := 1
def fStale : Nat := 2
def fFrozen : Nat := 3
def fImpaired : Nat := 4
def fDark : Nat := 5

/-! ### Time states at the latch (R212 to R214) -/

/-- A domain is in arrival-time mode. -/
def arrivalMode (s : DomState) : Bool :=
  match s with
  | .locked => false
  | .holdover => false
  | _ => true

/-- Sample the domains' states at a latch, as they stood before this tick; a change of mode raises its
event (R213, R234). -/
def Mach.sampleDomains (m : Mach) (h : Nat) : Mach :=
  let a := arrivalMode m.time.prior.1
  let b := arrivalMode m.time.prior.2
  let changed := a != m.is Fld.FRESH_STATUS_ARR_A || b != m.is Fld.FRESH_STATUS_ARR_B
  let m := (m.putB Fld.FRESH_STATUS_ARR_A a).putB Fld.FRESH_STATUS_ARR_B b
  (m.updHead h fun r => { r with arrivalA := a, arrivalB := b }).raiseIf changed evFreshArrival

/-- The session a stream is bound to. -/
def Mach.streamSession (m : Mach) (x : Nat) : Nat := m.get (Fld.DECSCHED_STREAM_CTRL_SESSION x)

/-- Whether a picture's age comes from arrival (R212). -/
def Mach.byArrival (m : Mach) (h d : Nat) : Bool :=
  let s := m.streamSession (m.descStream d)
  let r := m.head h
  let src := m.get (Fld.INGEST_SESS_CTRL_CT_SRC s)
  let mode (b : Bool) : Bool := if b then r.arrivalB else r.arrivalA
  m.is (Fld.DECSCHED_DESC_STATE_CT_FUTURE d) || src == 3 ||
  (src == 2 && (m.is (Fld.DECSCHED_DESC_STATE_CT_NONE d) ||
    mode (m.is (Fld.INGEST_SESS_MAP_NS_MAP_DOM s)))) ||
  (src == 0 && r.arrivalA) || (src == 1 && r.arrivalB)

/-- What FRESH takes of a picture at a latch or a chase switch (R219). -/
def Mach.takeShown (m : Mach) (h d : Nat) : Option Shown :=
  (m.pic d).map fun p =>
    { desc := d, serial := p.serial, seqNo := p.seqNo, poc := p.poc, capture := p.unit.capture
      arrival := p.unit.arrival, live := m.rd (Reg.DECSCHED_DESC_LIVE d)
      sig := m.rd (Reg.DECSCHED_DESC_SIG d)
      final := m.descState d != dFilling || (m.strm (m.descStream d)).held.any fun e => e.2 == d
      impaired := m.is (Fld.DECSCHED_DESC_STATE_IMPAIRED d)
      frozenAlive := p.frozenAlive, frozenSig := p.frozenSig
      byArrival := m.byArrival h d }

/-! ### Ages (R209, R210, R215, R429) -/

/-- Difference of two LOCAL times in ns, signed in 64 bits. -/
def nsDiff (a b : Int) : Int := signedOf 64 (twosOf 64 (a - b))

/-- The arrival stamp of the last packet of a picture's unit that has come (R215; log entry 19). -/
def Mach.arrivalOf (m : Mach) (p : Shown) : Nat :=
  match m.pic p.desc with
  | some q => if q.serial = p.serial then q.unit.arrival else p.arrival
  | none => p.arrival

/-- The age of the picture that a layer shows at a line time, ns (R210, R215). -/
def Mach.shownAge (m : Mach) (x : Nat) (p : Shown) (lineTime : Int) : Int :=
  if p.byArrival then nsDiff lineTime (m.arrivalOf p) + (m.layer x).allowance
  else nsDiff lineTime p.capture

/-- NETWORK_ALLOWANCE as it stands at the latch, in ns (R215). -/
def Mach.readAllowance (m : Mach) (x : Nat) : Mach :=
  m.updLayer x fun l =>
    { l with allowance := m.get (Fld.INGEST_SESS_ALLOW_NETWORK_ALLOWANCE
        (m.streamSession (m.layerStream x))) * 1000 }

/-- The pipeline delay in whole ns, as PIPE_DELAY reports it (R272; log entry 13). -/
def Mach.pipeNs (m : Mach) (h : Nat) : Int := nearest (m.pipeDelay h)

/-- The age under R429: from AGE0 of the ballot. -/
def Mach.ballotAge (m : Mach) (h age0 : Nat) (y : Int) : Rat :=
  ((age0 * 1000 : Nat) : Rat) + (y : Rat) * m.linePeriod h

/-! ### States (R218) -/

/-- A limit in ns (R218). -/
def limitNs (us : Nat) : Nat := max 1000 (min 10000000 us) * 1000

def Mach.ageLimit (m : Mach) (x : Nat) : Nat := limitNs (m.lat (Fld.FRESH_LAYER_LIMIT_AGE_LIMIT x))
def Mach.ageWarn (m : Mach) (x : Nat) : Nat :=
  min (limitNs (m.lat (Fld.FRESH_LAYER_WARN_AGE_WARN x))) (m.ageLimit x)

/-- The code that marks give: what a ballot's PCODE carries (R218, R426). -/
def Shown.code (p : Shown) : Nat :=
  if p.impaired || p.live.getLsbD 14 || p.live.getLsbD 13 then fImpaired
  else if p.frozenAlive || p.frozenSig then fFrozen
  else fLive

/-- The code that an age gives. -/
def Mach.ageCode (m : Mach) (x : Nat) (age : Rat) : Nat :=
  if (m.ageLimit x : Rat) < age then fStale
  else if (m.ageWarn x : Rat) < age then fLate
  else fLive

/-- Bits of LAYER_CAUSE. -/
def Shown.causes (p : Shown) : Nat :=
  p.impaired.toNat * 64 + (p.live.getLsbD 14).toNat * 32 + (p.live.getLsbD 13).toNat * 16 +
  p.frozenAlive.toNat * 8 + p.frozenSig.toNat * 4

def Mach.ageCauses (m : Mach) (x : Nat) (age : Rat) : Nat :=
  (decide ((m.ageLimit x : Rat) < age)).toNat * 2 + (decide ((m.ageWarn x : Rat) < age)).toNat

/-- The picture a layer shows on a line (R221). -/
def Layer.on (l : Layer) (y : Nat) : Option Shown :=
  match l.chased with
  | none => l.shown
  | some c => match l.offside with
    | some o => if o ≤ y then l.shown else some c
    | none => some c

/-- What FRESH finds for a line of a timed layer: the state, the conditions that hold, and the age in
ns (none without a picture). -/
structure LineEval where
  code : Nat
  causes : Nat
  age : Option Rat
  negative : Bool
  deriving DecidableEq, Repr

/-- Evaluate a timed layer on a line at a line time (R218, R429). -/
def Mach.evalLine (m : Mach) (h x y : Nat) (lineTime : Int) : LineEval :=
  let l := m.layer x
  let dark : Nat × Nat :=
    if m.slated h then (fDark, 128) else if l.unwritten then (fDark, 256) else (fLive, 0)
  match l.on y with
  | none => ⟨fDark, dark.2 + 512, none, false⟩
  | some p =>
    let raw : Int := m.shownAge x p lineTime
    let age : Rat × Bool := match l.ballot with
      | some b => (m.ballotAge h b.age0 y, false)
      | none => ((max 0 raw : Int), decide (raw < 0))
    let code := match l.ballot with
      | some b => b.pcode
      | none => p.code
    ⟨max dark.1 (max code (m.ageCode x age.1)), dark.2 + p.causes + m.ageCauses x age.1,
     some age.1, age.2⟩

/-- An age in µs, saturating. -/
def ageUs (a : Rat) : Nat := min 0xFFFFFFFF (a / 1000).floor.toNat

/-- Record an evaluated line (R234). -/
def Mach.recordLine (m : Mach) (x y : Nat) (e : LineEval) : Mach :=
  let m := m.put (Fld.FRESH_LAYER_STATUS_STATE x) e.code
  let m := m.put (Fld.FRESH_LAYER_STATUS_WORST x) (max e.code (m.get (Fld.FRESH_LAYER_STATUS_WORST x)))
  let m := if e.negative then m.put (Fld.FRESH_LAYER_STATUS_AGE_NEG x) 1 else m
  let us := match e.age with
    | some a => ageUs a
    | none => 0
  let m := if (m.layer x).firstAge.isNone then m.monSample 1 x none us else m
  m.updLayer x fun l =>
    { l with causes := l.causes ||| e.causes, firstAge := some (l.firstAge.getD us), lastAge := us
             struck := if l.struck.isNone ∧ fStale ≤ e.code then some y else l.struck }

/-! ### Vault words (R233) -/

/-- Colours and rules of the pennant. -/
structure PenRules where
  colours : PenColours
  force : Bool
  corners : Nat
  inset : Nat
  minW : Nat
  minH : Nat
  deriving DecidableEq, Repr

/-- The rules that five vault words give. -/
def penRules (lit base struck dot rules : Nat) : PenRules :=
  if bitsOf rules 31 1 = 0 then
    ⟨⟨rgbOf 0x3FFFFFFF, rgbOf 0x00080000, rgbOf 0x20080200, rgbOf 0⟩, true, 15, 8, 96, 64⟩
  else
    let c := bitsOf rules 24 4
    ⟨⟨rgbOf lit, rgbOf base, rgbOf struck, rgbOf dot⟩, bitsOf rules 30 1 == 1,
     if c = 0 then 15 else c, bitsOf rules 16 8, 8 * bitsOf rules 8 8, 8 * bitsOf rules 0 8⟩

/-- The rules as a head's last latch read them. -/
def Mach.penRules (m : Mach) (h : Nat) : PenRules :=
  let w (k : Nat) : Nat := ((m.head h).penWords.getD k 0).toNat
  Sys2Proof.Machine.penRules (w 0) (w 1) (w 2) (w 3) (w 4)

/-- The majority reads of a latch. -/
def Mach.readPenWords (m : Mach) (h : Nat) : Mach :=
  let words := [0x10, 0x11, 0x12, 0x13, 0x14].map m.vaultMajority
  let m := forEach [0x10, 0x11, 0x12, 0x13, 0x14] m fun m k => (m.vaultRead k).1
  (m.updHead h fun r => { r with penWords := words }).putB Fld.FRESH_STATUS_VAULT_DEFAULT
    ((words.getD 4 0).getLsbD 31 == false)

/-! ### Pennant placement (R228) -/

/-- The corner used: the chosen one, or the next allowed. -/
def allowedCorner (corners chosen : Nat) : Nat :=
  ((List.range 4).map fun i => (chosen + i) % 4).find? corners.testBit |>.getD chosen

/-- Fix a timed layer's pennant for the coming frame; a change is reported with the close of a frame
(R234). -/
def Mach.placePennant (m : Mach) (h x : Nat) : Mach :=
  let v := m.visible h x
  let r := m.penRules h
  let wanted := m.layerOn x && m.timed x && (m.latIs (Fld.FRESH_LAYER_CFG_PEN_EN x) || r.force) &&
    !v.isEmpty
  let small := decide (max 0 (v.x1 - v.x0 + 1) < r.minW) || decide (max 0 (v.y1 - v.y0 + 1) < r.minH)
  let p := pennantAt v (allowedCorner r.corners (m.lat (Fld.FRESH_LAYER_CFG_PEN_CORNER x))) r.inset
  let drawn := wanted && !small
  let above := ((m.stack h).dropWhile fun y => y != x).drop 1
  let overlap := drawn && above.any fun y => p.box.meets (m.visible h y)
  let suppressed := m.layerOn x && m.timed x && small
  let changed := suppressed != m.is (Fld.FRESH_LAYER_STATUS_PEN_SUPPRESSED x) ||
    overlap != m.is (Fld.FRESH_LAYER_STATUS_PEN_OVERLAP x)
  let m := m.putB (Fld.FRESH_LAYER_STATUS_PEN_SUPPRESSED x) suppressed
  let m := m.putB (Fld.FRESH_LAYER_STATUS_PEN_OVERLAP x) overlap
  m.updLayer x fun l =>
    { l with pen := if drawn then some ⟨p.x, p.y, p.hoistRight⟩ else none
             penChanged := l.penChanged || changed }

/-! ### Pennant phase (R230) -/

/-- A picture has a signature of its own that differs from the one seen (R199, R230). A chased picture that is still
FILLING has none yet, and a picture that never came to have one differs from those that do (log entry 19). -/
def sigDiffers (p : Shown) (s : Seen) : Bool := p.final && (!s.final || p.sig != s.sig)

/-- The signature of a picture has become final: the layers that show it know it. -/
def Mach.sigFinal (m : Mach) (serial : Nat) (sig : Word) : Mach :=
  let know (s : Shown) : Shown := if s.serial = serial then { s with sig := sig, final := true } else s
  { m with layers := m.layers.map fun e => (e.1, { e.2 with
      shown := e.2.shown.map know, chased := e.2.chased.map know
      phaseSeen := if e.2.phaseSerial = some serial
        then { e.2.phaseSeen with sig := sig, final := true } else e.2.phaseSeen }) }

/-- The phase advances on the first visible line. -/
def Mach.phaseMoves (m : Mach) (x y : Nat) (code : Nat) : Bool :=
  let l := m.layer x
  match l.on y with
  | none => false
  | some p =>
    decide (code ≤ fLate) &&
    (match l.phaseSerial with
     | none => true
     | some s =>
       s != p.serial &&
       (if livePresent p.live && livePresent l.phaseSeen.live then advancing l.phaseSeen.live p.live
        else sigDiffers p l.phaseSeen && !liveRepeat p.live))

/-- The phase on the first visible line of a frame: by R230, or on a paired unit the ballot's (R427), which
the unit that made it shows only on a line that is LIVE or LATE. -/
def Mach.stepPhase (m : Mach) (x y code : Nat) : Mach :=
  let note (m : Mach) : Mach := match (m.layer x).on y with
    | some p => m.updLayer x fun l =>
        { l with phaseSerial := some p.serial, phaseSeen := ⟨p.live, p.sig, p.final⟩ }
    | none => m
  match (m.layer x).ballot with
  | some b =>
    if m.get (Fld.FRESH_LAYER_STATUS_PHASE x) = b.phase ∨ (fLate < code ∧ m.pair.poss = true) then m
    else note (m.put (Fld.FRESH_LAYER_STATUS_PHASE x) b.phase)
  | none =>
    if m.phaseMoves x y code then
      note (m.put (Fld.FRESH_LAYER_STATUS_PHASE x) (m.get (Fld.FRESH_LAYER_STATUS_PHASE x) + 1))
    else m

/-! ### The close of a frame (R234, R235) -/

/-- A change of WORST_LAST that raises an event: its source. -/
def changeEvent (old new : Nat) : Option Nat :=
  if old < new then some (evFresh new)
  else if fStale ≤ old ∧ new ≤ fLate then some evFreshLive
  else none

/-- Close the frame for one layer: at most one event, a change of state before one of the pennant (log
entry 19). -/
def Mach.closeLayer (m : Mach) (x : Nat) : Mach :=
  let old := m.get (Fld.FRESH_LAYER_STATUS_WORST_LAST x)
  let new := m.get (Fld.FRESH_LAYER_STATUS_WORST x)
  let l := m.layer x
  let m := m.put (Fld.FRESH_LAYER_STATUS_WORST_LAST x) new
  let m := m.wr (Reg.FRESH_LAYER_CAUSE x) (BitVec.ofNat 32 l.causes)
  let m := m.put (Fld.FRESH_LAYER_AGE_FIRST_AGE x) (l.firstAge.getD 0)
  let m := m.put (Fld.FRESH_LAYER_AGE_LAST_AGE x) l.lastAge
  let m := m.putB (Fld.FRESH_LAYER_STATUS_SPLIT x) l.split
  let m := if l.struck.isSome then m.count (Fld.FRESH_LAYER_CNT_HATCH_COUNT x) else m
  let m := m.updLayer x fun l => { l with struck := none, penChanged := false }
  match changeEvent old new, m.latIs (Fld.FRESH_LAYER_CFG_EVT_EN x) with
  | none, true => m.raiseIf l.penChanged evFreshPen
  | some ev, true =>
    let m := m.count Fld.FRESH_CHANGE_COUNT_COUNT
    let m := if m.is Fld.FRESH_LAST_CHANGE_VALID then m
      else
        let m := m.put Fld.FRESH_LAST_CHANGE_VALID 1
        let m := m.put Fld.FRESH_LAST_CHANGE_LAYER x
        (m.put Fld.FRESH_LAST_CHANGE_OLD old).put Fld.FRESH_LAST_CHANGE_NEW new
    m.raise ev
  | _, _ => m

/-- A layer starts a frame: nothing evaluated yet. -/
def Mach.openLayer (m : Mach) (x : Nat) : Mach :=
  let m := m.put (Fld.FRESH_LAYER_STATUS_WORST x) 0
  let m := m.putB (Fld.FRESH_LAYER_STATUS_UNTIMED x) (!m.timed x)
  let arrival := match (m.layer x).ballot, (m.layer x).shown with
    | some b, _ => b.arrival
    | none, some p => p.byArrival
    | none, none => false
  let m := m.putB (Fld.FRESH_LAYER_STATUS_ARRIVAL x) (m.timed x && arrival)
  m.updLayer x fun l =>
    { l with struck := none, unwritten := false, causes := 0, firstAge := none, lastAge := 0
             split := false }

end Sys2Proof.Machine
end

