-- ==== Sys2Proof/Machine/LayerOps.lean ====
section
/-! DEFINITION. Layers at the latch: assignment (R236), admission (R249), taking the set (R238, R273),
leases (R258 to R262), pictures (R241, R242), and ballots (R426 to R429). -/

namespace Sys2Proof.Machine

/-! ### Assignment (R236, R237) -/

/-- A slot is BUSY. -/
def Mach.slotBusy (m : Mach) (x : Nat) : Bool :=
  m.is (Fld.LAYER_OWN_ASSIGNED x) &&
  (m.layerOn x || (m.layer x).shown.isSome || (m.layer x).chased.isSome ||
   !(m.layer x).leases.isEmpty)

/-- A write that names a head above 19, or would give a head a 33rd slot, is refused: the slot stays as it
was (log entry 13). `was` is the state before the write. -/
def Mach.ownWrote (m was : Mach) (x : Nat) : Mach :=
  let h := m.owner x
  let moved := !was.is (Fld.LAYER_OWN_ASSIGNED x) || was.owner x != h
  if 20 ≤ h ∨ (m.is (Fld.LAYER_OWN_ASSIGNED x) = true ∧ moved = true ∧ 32 ≤ (was.slotsOf h).length) then
    (m.wr (Reg.LAYER_OWN x) (was.rd (Reg.LAYER_OWN x))).put Fld.LAYERPOOL_STATUS_OWN_REFUSED 1
  else m

/-! ### Shadow sets (R238, R274) -/

/-- SHADOW registers of a head. -/
def headShadow (h : Nat) : List Nat :=
  [Reg.HEAD_CTRL h, Reg.HEAD_BG h, Reg.HEAD_OCSC_PRESET h, Reg.HEAD_PUSH h] ++
  ((List.range 3).flatMap fun r => [Reg.HEAD_OCSC_A h r, Reg.HEAD_OCSC_B h r]) ++
  (List.range 16).flatMap fun w =>
    [Reg.HEAD_CW_POS h w, Reg.HEAD_CW_SIZE h w, Reg.HEAD_CW_EXPECT h w]

/-- SHADOW registers of a layer slot. -/
def slotShadow (x : Nat) : List Nat :=
  [Reg.LAYER_CTRL x, Reg.LAYER_DST_POS x, Reg.LAYER_DST_SIZE x, Reg.LAYER_SRC_POS x,
   Reg.LAYER_SRC_SIZE x, Reg.LAYER_FMT x, Reg.LAYER_ADDR0 x, Reg.LAYER_ADDR1 x,
   Reg.LAYER_ADDR_HI x, Reg.LAYER_ALPHA x, Reg.LAYER_SOLID x]

/-- SHADOW registers of a layer in FRESH. -/
def freshShadow (x : Nat) : List Nat :=
  [Reg.FRESH_LAYER_WARN x, Reg.FRESH_LAYER_LIMIT x, Reg.FRESH_LAYER_CFG x, Reg.FRESH_LAYER_HATCH x]

/-- The registers that a head's pending commits mark, and those of the layers that wait for a lease
(R262). -/
def Mach.markedKeys (m : Mach) (h : Nat) (head layers fresh : Bool) : List Nat :=
  (if head then headShadow h else []) ++
  (m.slotsOf h).flatMap fun x =>
    (if head || layers || (m.layer x).leaseWait then slotShadow x else []) ++
    (if head || fresh || (m.layer x).leaseWait then freshShadow x else [])

/-- Take registers into effect with the values that some register file holds. -/
def Mach.latchFrom (m : Mach) (regs : List (Nat × Word)) (keys : List Nat) : Mach :=
  { m with latched := ({ m with regs := regs }.latchKeys keys).latched }

/-! ### Admission (R249) -/

/-- The picture whose format a STREAM layer's source has at a latch: the newest, else the one of the same
stream that is shown. -/
def Mach.sourceChroma (m : Mach) (x : Nat) : Option Chroma :=
  match m.newestBefore (m.layerStream x) with
  | some d => (m.pic d).map fun p => p.chroma
  | none => match (m.layer x).shown with
    | some s =>
      if m.descStream s.desc = m.layerStream x then (m.pic s.desc).map fun p => p.chroma else none
    | none => none

/-- Chroma of a layer's source, where it has any. -/
def Mach.layerChroma (m : Mach) (x : Nat) : Option Chroma :=
  if m.layerKind x = kindStream then m.sourceChroma x
  else if 5 ≤ m.layerFormat x then some (formatChroma (m.layerFormat x)) else none

def evenFor (c : Option Chroma) (g : Geometry) : Bool :=
  match c with
  | some k =>
    (!halfW k || (g.srcX % 2 == 0 && g.srcW % 2 == 0)) &&
    (!halfH k || (g.srcY % 2 == 0 && g.srcH % 2 == 0))
  | none => true

/-- A scale between 1/4 and 8. -/
def scaleOk (d s : Nat) : Bool := decide (s ≤ 4 * d ∧ d ≤ 8 * s)

/-- The ranges, alignments and scales of R245 and R246; those of the source rectangle hold for SOLID
layers too, since R249 names every enabled layer (log entry 13). -/
def Mach.geometryOk (m : Mach) (x : Nat) : Bool :=
  let g := m.geometry x
  let k := m.layerKind x
  let fmt := m.layerFormat x
  let pitch := m.lat (Fld.LAYER_FMT_PITCH x)
  decide (-8192 ≤ g.dstX ∧ g.dstX ≤ 8191 ∧ -8192 ≤ g.dstY ∧ g.dstY ≤ 8191) &&
  decide (1 ≤ g.dstW ∧ g.dstW ≤ 8192 ∧ 1 ≤ g.dstH ∧ g.dstH ≤ 8192) &&
  decide (g.srcX ≤ 8191 ∧ g.srcY ≤ 8191 ∧ 2 ≤ g.srcW ∧ g.srcW ≤ 8192 ∧ 2 ≤ g.srcH ∧
    g.srcH ≤ 8192) &&
  (k == kindSolid || evenFor (m.layerChroma x) g) && scaleOk g.dstW g.srcW && scaleOk g.dstH g.srcH &&
  (k != kindBuffer ||
    (pitch % 64 == 0 && decide ((g.srcX + g.srcW) * pixelBytes fmt ≤ pitch)))

/-- KIND, FORMAT and PRESET hold defined values. -/
def Mach.codesOk (m : Mach) (x : Nat) : Bool :=
  let k := m.layerKind x
  let p := m.lat (Fld.LAYER_FMT_PRESET x)
  k != 3 && (k != kindBuffer || (1 ≤ m.layerFormat x && m.layerFormat x ≤ 7)) &&
  (p ≤ 8 || p == 15)

/-- A BUFFER layer's fetched bytes lie wholly in visible DRAM or the visible frame store. -/
def Mach.bytesOk (m : Mach) (h x : Nat) : Bool :=
  m.layerKind x != kindBuffer || (m.visible h x).isEmpty ||
  (List.range (planesOf (m.layerFormat x))).all fun p =>
    let r := m.planeRange x p
    decide (r.2 < 0x700000000) || decide (fsBase ≤ r.1 ∧ r.2 < fsBase + 0x7C00000)

/-- Layers that fetch: STREAM and BUFFER. -/
def Mach.fetches (m : Mach) (x : Nat) : Bool :=
  m.layerKind x == kindStream || m.layerKind x == kindBuffer

/-- The first failing condition of R249 for the set in effect: slot (0x1FF for a line-wide one) and
number. -/
def Mach.admission (m : Mach) (h : Nat) : Option (Nat × Nat) :=
  let on := (m.slotsOf h).filter m.layerOn
  let rects := on.map fun x => (x, m.visible h x)
  let shown := rects.filter fun e => !e.2.isEmpty
  let points := shown.flatMap fun a => shown.map fun b => (a.2.x0, b.2.y0)
  let cover (p : Int × Int) : List Nat := (shown.filter fun e => e.2.has p.1 p.2).map fun e => e.1
  let across (y : Int) : List Nat :=
    (shown.filter fun e => decide (e.2.y0 ≤ y ∧ y ≤ e.2.y1)).map fun e => e.1
  let cost4 (x : Nat) : Rat := (m.geometry x).srcW / ((m.geometry x).dstW : Rat)
  let cost5 (x : Nat) : Rat :=
    let g := m.geometry x
    (g.srcW * max 1 ((g.srcH + g.dstH - 1) / g.dstH) : Nat)
  match on.find? fun x => !(m.codesOk x && m.geometryOk x) with
  | some x => some (x, 1)
  | none => match on.find? fun x => !m.bytesOk h x with
    | some x => some (x, 2)
    | none =>
      if points.any fun p => decide (8 < (cover p).length) then some (0x1FF, 3)
      else if points.any fun p =>
          decide (4 < sumRat (((cover p).filter m.fetches).map cost4)) then some (0x1FF, 4)
      else if shown.any fun e =>
          decide (48 / 10 * m.linePeriod h < sumRat (((across e.2.y0).filter m.fetches).map cost5))
        then some (0x1FF, 5)
      else none

/-- Report a refused set (R249). -/
def Mach.geomReject (m : Mach) (h : Nat) (f : Nat × Nat) : Mach :=
  let m := m.setBit Fld.LAYERPOOL_GEOM_REJECT_HEADS h
  let m := if m.is Fld.LAYERPOOL_GEOM_CAUSE_VALID then m
    else
      let m := m.put Fld.LAYERPOOL_GEOM_CAUSE_VALID 1
      let m := m.put Fld.LAYERPOOL_GEOM_CAUSE_HEAD h
      (m.put Fld.LAYERPOOL_GEOM_CAUSE_SLOT f.1).put Fld.LAYERPOOL_GEOM_CAUSE_CAUSE f.2
  m.raise evCfgReject

/-! ### Leases (R258 to R262) -/

def Mach.updLeases (m : Mach) (f : Leases → Leases) : Mach := { m with leases := f m.leases }

/-- End a lease (R261). -/
def Mach.endLease (m : Mach) (i : Nat) : Mach :=
  match tabFind m.leases.table i with
  | none => m
  | some l =>
    let m := m.updLeases fun t => { t with table := tabDel t.table i }
    let m := m.updLayer l.layer fun y => { y with leases := y.leases.filter fun j => j != i }
    (if 256 ≤ m.leases.ended.length then m.updLeases fun t => { t with endedOverflow := true }
     else m.updLeases fun t => { t with ended := t.ended ++ [(l.head, l.layer, l.plane)] }).raise
      evLeaseEnd

/-- The lowest free entries of the table. -/
def Mach.freeLeases (m : Mach) (n : Nat) : List Nat :=
  ((List.range 1024).filter fun i => (tabFind m.leases.table i).isNone).take n

/-- The planes of a slot for which a new lease is needed. -/
def Mach.leasesWanted (m : Mach) (x : Nat) : List Nat :=
  if m.layerOn x && m.layerKind x == kindBuffer then
    (List.range (planesOf (m.layerFormat x))).filter fun p =>
      !((m.layer x).leases.any fun i => match tabFind m.leases.table i with
        | some l => l.plane == p && l.addr == m.planeAddr x p
        | none => false)
  else []

/-- The leases of a slot whose address it no longer shows. -/
def Mach.leasesStale (m : Mach) (x : Nat) : List Nat :=
  (m.layer x).leases.filter fun i => match tabFind m.leases.table i with
    | some l => !(m.layerOn x && m.layerKind x == kindBuffer &&
        decide (l.plane < planesOf (m.layerFormat x)) && l.addr == m.planeAddr x l.plane)
    | none => true

/-- Open a lease on a plane. -/
def Mach.openLease (m : Mach) (h x p i : Nat) : Mach :=
  let r := m.planeRange x p
  let m := m.updLeases fun t =>
    { t with table := tabSet t.table i ⟨h, x, p, m.planeAddr x p, r.1, r.2⟩ }
  m.updLayer x fun l => { l with leases := l.leases ++ [i] }

/-- Leases of one slot at a latch that takes its fields: `was` holds the fields in effect before it
(R262). -/
def Mach.layerLeases (was m : Mach) (h x : Nat) : Mach :=
  let want := m.leasesWanted x
  let free := m.freeLeases want.length
  if free.length < want.length then
    -- the layer takes none of its shadow fields
    let keys := slotShadow x ++ freshShadow x
    let m := { m with latched := keys.foldl (fun l k => match tabFind was.latched k with
      | some w => tabSet l k w
      | none => tabDel l k) m.latched }
    let m := (m.updLayer x fun l => { l with leaseWait := true }).put
      (Fld.LAYER_STATUS_LEASE_WAIT x) 1
    (m.put Fld.LEASE_STATUS_FULL 1).raise evLeaseFull
  else
    let stale := m.leasesStale x
    let m := (m.updLayer x fun l => { l with leaseWait := false }).put
      (Fld.LAYER_STATUS_LEASE_WAIT x) 0
    let m := (want.zip free).foldl (fun m e => m.openLease h x e.1 e.2) m
    forEach stale m Mach.endLease

/-- LAYER_STATUS.LEASED and LEASE_IDX. -/
def Mach.showLeases (m : Mach) (x : Nat) : Mach :=
  let plane0 := (m.layer x).leases.find? fun i => match tabFind m.leases.table i with
    | some l => l.plane == 0
    | none => false
  (m.putB (Fld.LAYER_STATUS_LEASED x) (!(m.layer x).leases.isEmpty)).put
    (Fld.LAYER_STATUS_LEASE_IDX x) (plane0.getD 0)

/-- LAYERPOOL.STATUS.FREE: slots that serve no head (R236). -/
def Mach.showPool (m : Mach) : Mach := m.put Fld.LAYERPOOL_STATUS_FREE (384 - m.assignedSlots.length)

/-- LEASE.STATUS.ACTIVE and the entry that ENTRY_INDEX selects (R258). -/
def Mach.showLease (m : Mach) (i : Nat) : Mach :=
  let m := m.put Fld.LEASE_STATUS_ACTIVE m.leases.table.length
  match tabFind m.leases.table i with
  | none => m
  | some l =>
    let m := m.put (Fld.LEASE_ENTRY_START_START_LO i) l.first
    let m := m.put (Fld.LEASE_ENTRY_END_END_LO i) l.last
    let m := m.put (Fld.LEASE_ENTRY_HI_START_HI i) (l.first / 2 ^ 32)
    let m := m.put (Fld.LEASE_ENTRY_HI_END_HI i) (l.last / 2 ^ 32)
    let m := m.put (Fld.LEASE_ENTRY_INFO_VALID i) 1
    let m := m.put (Fld.LEASE_ENTRY_INFO_HEAD i) l.head
    let m := m.put (Fld.LEASE_ENTRY_INFO_PLANE i) l.plane
    m.put (Fld.LEASE_ENTRY_INFO_LAYER i) l.layer

/-! ### Pictures at the latch (R241, R242, R255, R256) -/

/-- A layer stops showing pictures: its holds end. -/
def Mach.dropPictures (m : Mach) (x : Nat) : Mach :=
  let l := m.layer x
  let m := match l.shown with
    | some s => m.dropHold s.desc
    | none => m
  let m := match l.chased with
    | some s => m.dropHold s.desc
    | none => m
  (m.updLayer x fun l => { l with shown := none, chased := none, offside := none }).put
    (Fld.LAYER_STATUS_DESC x) 0x3FFF

/-- Binding at a latch: a layer that is no STREAM layer, or is bound to another stream, shows no
picture any more, and a new binding resets the phase (R223). -/
def Mach.bindLayer (m : Mach) (x : Nat) : Mach :=
  let target := if m.layerOn x && m.timed x then some (m.layerStream x) else none
  if (m.layer x).bound = target then m
  else
    let m := m.dropPictures x
    let m := m.updLayer x fun l => { l with bound := target, phaseSerial := none, phaseSeen := ⟨0, 0, false⟩ }
    m.put (Fld.FRESH_LAYER_STATUS_PHASE x) 0

/-- A layer takes a picture. -/
def Mach.showPicture (m : Mach) (h x d : Nat) : Mach :=
  match m.takeShown h d with
  | none => m
  | some s =>
    let m := (m.takeHold d).dropPictures x
    (m.updLayer x fun l => { l with shown := some s }).put (Fld.LAYER_STATUS_DESC x) d

/-- The picture that a STREAM layer takes at a latch: the newest READY one later than the one shown. -/
def Mach.nextPicture (m : Mach) (x : Nat) : Option Nat :=
  match m.newestBefore (m.layerStream x) with
  | none => none
  | some d => match m.pic d, (m.layer x).shown with
    | some p, some s => if p.after s.seqNo s.poc then some d else none
    | some _, none => some d
    | none, _ => none

/-- A layer keeps its picture, whose marks are taken again (R219); a chased picture is let go. -/
def Mach.keepPicture (m : Mach) (h x : Nat) : Mach :=
  let m := match (m.layer x).chased with
    | some s => m.dropHold s.desc
    | none => m
  m.updLayer x fun l =>
    { l with chased := none, offside := none
             shown := match l.shown with
               | some s => some ((m.takeShown h s.desc).getD s)
               | none => none }

/-- A picture of a stream is queued or in decode whose deadline has come (R242). -/
def Mach.overdue (m : Mach) (x : Nat) : Bool :=
  let s := m.strm x
  let due (t : Rat) : Bool := decide (t ≤ (m.now : Rat) / unitNs)
  (s.jobs.any fun j => due j.deadline) ||
  ((match s.cur with | some p => [p] | none => []) ++ s.finishing).any fun p =>
    match m.pic p.desc with
    | some q => due q.deadline
    | none => false

/-- Set NOT_READY for the coming frame. -/
def Mach.notReady (m : Mach) (x : Nat) (b : Bool) : Mach :=
  let m := m.putB (Fld.LAYER_STATUS_NOT_READY x) b
  if b then m.count (Fld.LAYER_CNT_NOT_READY_COUNT x) else m

/-- LAYER_STATUS.CROP_OUT: the source rectangle extends past the picture that the layer shows (R248). -/
def Mach.cropOut (m : Mach) (x : Nat) (s : Option Shown) : Bool :=
  let g := m.geometry x
  match s.bind fun s => m.pic s.desc with
  | some p => decide (p.width < g.srcX + g.srcW) || decide (p.height < g.srcY + g.srcH)
  | none => false

/-- The choice of picture of one layer at a latch under R241. -/
def Mach.selectPicture (m : Mach) (h x : Nat) : Mach :=
  if !(m.layerOn x && m.timed x) then m.notReady x false
  else
    let strm := m.layerStream x
    match m.nextPicture x with
    | some d => (m.showPicture h x d).notReady x false
    | none => (m.keepPicture h x).notReady x (m.overdue strm)

/-- Whether another enabled layer of the head has the same Z (R239). -/
def Mach.zTie (m : Mach) (h x : Nat) : Bool :=
  m.layerOn x && (m.stack h).any fun y =>
    y != x && m.lat (Fld.LAYER_CTRL_Z y) == m.lat (Fld.LAYER_CTRL_Z x)

/-! ### The grid (R268) -/

/-- The domain view of a head's grid; none without frame lock, and with TE_SYNC, which ignores LOCK_CTRL (R300). -/
def Mach.lockView (m : Mach) (h : Nat) : Option Nat :=
  if m.teSync h then none else match m.get (Fld.HEAD_LOCK_CTRL_SRC h) with
  | 1 => some 1
  | 2 => some 2
  | 3 => some 0
  | _ => none

/-- LOCK_PHASE, taken modulo the frame period. -/
def Mach.lockPhase (m : Mach) (h : Nat) : Rat :=
  let p : Rat := m.get (Fld.HEAD_LOCK_PHASE_PHASE h)
  let t := m.framePeriod h
  p - t * (p / t).floor

/-- Grid instant `k` in units of 2^-16 ns. -/
def Mach.gridInstant (m : Mach) (h : Nat) (k : Int) : Int :=
  nearest (((k : Rat) * m.framePeriod h + m.lockPhase h) * 65536)

/-- The index of the grid instant nearest a time of the view, in ns. -/
def Mach.gridNearest (m : Mach) (h : Nat) (t : Rat) : Int :=
  nearest ((t - m.lockPhase h) / m.framePeriod h)

/-- The line time of the next line 0 as expected, LOCAL ns (log entry 13). -/
def Mach.nextLineTime (m : Mach) (h : Nat) : Rat := m.lineStart h 0 + m.pipeDelay h

/-- The grid index of the coming frame; without frame lock, its number since enable. -/
def Mach.comingGrid (m : Mach) (h : Nat) : Int :=
  match m.lockView h with
  | some v => m.gridNearest h (m.nextLineTime h + ((m.view v : Int) - m.now : Rat) / unitNs)
  | none => (m.head h).frames

/-! ### Ballots (R426 to R429) -/

/-- The entry of a ballot for a layer, at the latch. -/
def Mach.ballotEntry (m : Mach) (h x : Nat) (newPic : Bool) : BallotEntry :=
  let l := m.layer x
  let t : Int := (m.nextLineTime h).floor
  let empty : BallotEntry :=
    { slot := x, newPic := newPic, arrival := false, pcode := fDark
      phase := m.get (Fld.FRESH_LAYER_STATUS_PHASE x), stream := m.layerStream x, rtp := 0, sig := 0
      age0 := 0 }
  match l.shown with
  | none => empty
  | some s =>
    let age := ageUs (max 0 (m.shownAge x s t) : Int)
    let top : Int := max 0 (m.visible h x).y0
    let code := if m.slated h then fDark else max s.code (m.ageCode x (m.ballotAge h age top))
    let moves := m.phaseMoves x top.toNat code
    { empty with
      arrival := s.byArrival, pcode := s.code, age0 := age, sig := s.sig
      phase := (empty.phase + moves.toNat) % 4
      rtp := match m.pic s.desc with
        | some p => p.unit.rtp
        | none => 0 }

/-- The READY picture of a stream with an RTP timestamp. -/
def Mach.pictureAt (m : Mach) (x : Nat) (rtp : Word) : Option Nat :=
  m.latest ((m.readyBefore x).filter fun d => match m.pic d with
    | some p => p.unit.rtp == rtp
    | none => false)

def Mach.ballotMissed (m : Mach) (h : Nat) : Mach :=
  (m.count Fld.PAIR_CNT_BALLOT_MISS_COUNT).updHead h fun r => { r with excused := true }

/-- The standby takes the picture that an entry names. -/
def Mach.followEntry (m : Mach) (h : Nat) (e : BallotEntry) : Mach :=
  let x := e.slot
  let m := if e.pcode = fDark then m.keepPicture h x
    else
      let same := match (m.layer x).shown with
        | some s => match m.pic s.desc with
          | some p => p.unit.rtp == e.rtp && m.descStream s.desc == e.stream
          | none => false
        | none => false
      if same then
        let m := m.keepPicture h x
        if ((m.layer x).shown.map fun s => s.sig) = some e.sig then m
        else m.count Fld.PAIR_CNT_BALLOT_MISS_COUNT
      else match m.pictureAt e.stream e.rtp with
        | none => (m.keepPicture h x).ballotMissed h
        | some d =>
          let m := m.showPicture h x d
          if m.rd (Reg.DECSCHED_DESC_SIG d) = e.sig then m
          else m.count Fld.PAIR_CNT_BALLOT_MISS_COUNT
  m.updLayer x fun l => { l with ballot := some e }

/-- On a paired unit every timed layer is evaluated under R429; a negative age is taken as 0 (R210). -/
def Mach.ownEntry (m : Mach) (h x : Nat) (newPic : Bool) : Mach :=
  if m.paired && m.layerOn x && m.timed x then
    let e := m.ballotEntry h x newPic
    let negative := match (m.layer x).shown with
      | some s => decide (m.shownAge x s (m.nextLineTime h).floor < 0)
      | none => false
    (if negative then m.put (Fld.FRESH_LAYER_STATUS_AGE_NEG x) 1 else m).updLayer x fun l =>
      { l with ballot := some e }
  else m.updLayer x fun l => { l with ballot := none }

/-- One layer at the ballot latch: as its entry says; without one it keeps its picture (R427). NOT_READY is
set as on any latch (R242). -/
def Mach.followBallot (m : Mach) (h x : Nat) (e : Option BallotEntry) : Mach :=
  if !(m.layerOn x && m.timed x) then (m.ownEntry h x false).notReady x false
  else
    let was := (m.layer x).shown.map fun s => s.serial
    let m := match e with
      | some e => m.followEntry h e
      | none => (m.keepPicture h x).ownEntry h x false
    m.notReady x ((((m.layer x).shown.map fun s => s.serial) == was) && m.overdue (m.layerStream x))

/-! ### The latch (R273, R427, R434) -/

/-- What every latch does to a head's layers once the set is taken, or `refused`: a layer that waits for a
lease then waits on. `select` chooses the picture of a slot. -/
def Mach.afterTake (was m : Mach) (h : Nat) (refused : Bool) (select : Mach → Nat → Mach) : Mach :=
  let slots := m.slotsOf h
  let m := forEach slots m fun m x =>
    (if refused && (m.layer x).leaseWait then m else was.layerLeases m h x).showLeases x
  let m := forEach slots m fun m x => (m.bindLayer x).readAllowance x
  let m := forEach slots m select
  let m := forEach slots m fun m x =>
    (m.putB (Fld.LAYER_STATUS_Z_TIE x) (m.zTie h x)).putB (Fld.LAYER_STATUS_CROP_OUT x)
      (m.cropOut x (m.layer x).shown)
  forEach slots (m.readPenWords h) fun m x => m.placePennant h x

/-- Drop the ballots of a head that wait: the commits they hold stay pending (R427). -/
def Mach.dropBallots (m : Mach) (h : Nat) : Mach :=
  let mine := m.pair.ballots.filter fun b => b.ballot.head == h
  let m := m.updPair fun p => { p with ballots := p.ballots.filter fun b => b.ballot.head != h }
  m.updHead h fun r => mine.foldl (fun r w =>
    { r with commitHead := r.commitHead || w.commitHead, commitLayers := r.commitLayers || w.commitLayers
             commitFresh := r.commitFresh || w.commitFresh }) r

/-- A ballot arrives: it waits with the shadow set as it stands and, where the active took a commit,
with the commits it takes, which stay pending until the ballot latch (R427). -/
def Mach.ballotArrives (m : Mach) (b : Ballot) : Mach :=
  let h := b.head
  let m := m.dropBallots h
  let r := m.head h
  let takes := b.commitTaken && !b.setRejected
  let w : WaitingBallot :=
    ⟨b, m.regs, takes && r.commitHead, takes && r.commitLayers, takes && r.commitFresh⟩
  let m := m.updPair fun p => { p with ballots := p.ballots ++ [w] }
  if takes then
    m.updHead h fun r => { r with commitHead := false, commitLayers := false, commitFresh := false }
  else m

/-- Commits of a head are consumed. -/
def Mach.consume (m : Mach) (h : Nat) : Mach :=
  let m := m.put (Fld.HEAD_LATCHED_TAG h) (m.head h).tag
  let m := m.updHead h fun r =>
    { r with commitHead := false, commitLayers := false, commitFresh := false }
  m.put (Fld.HEAD_STATUS_COMMIT_PENDING h) 0

/-- A commit waits for a latch of the head, with a ballot's or without. -/
def Mach.commitPending (m : Mach) (h : Nat) : Bool :=
  (m.head h).commitHead || (m.head h).commitLayers || (m.head h).commitFresh ||
  m.pair.ballots.any fun w => w.ballot.head == h && (w.commitHead || w.commitLayers || w.commitFresh)

/-- Take the marked fields if the set is admitted; whether it was refused. A layer that only tries again
for a lease takes its fields where they are admitted, and reports nothing where not (log entry 13). -/
def Mach.takeSet (m : Mach) (h : Nat) : Mach × Bool :=
  let r := m.head h
  let keys := m.markedKeys h r.commitHead r.commitLayers r.commitFresh
  if keys.isEmpty then (m, false)
  else
    let c := m.latchKeys keys
    match c.admission h with
    | none => (c, false)
    | some f => (if m.commitPending h then m.geomReject h f else m, true)

/-- A latch that takes no commit: only layers that wait for a lease try again. -/
def Mach.retrySet (m : Mach) (h : Nat) : Mach × Bool :=
  let keys := m.markedKeys h false false false
  if keys.isEmpty then (m, false)
  else
    let c := m.latchKeys keys
    if (c.admission h).isNone then (c, false) else (m, true)

/-- Slots of a head that take a new picture under R241. -/
def Mach.newPictures (m : Mach) (h : Nat) : List Nat :=
  (m.slotsOf h).filter fun x => m.layerOn x && m.timed x && (m.nextPicture x).isSome

/-- The latch of a head that chooses for itself (R273, R241), and whether it took a commit; an active unit
of a pair sends its ballot (R426). -/
def Mach.latchOwn (m : Mach) (h : Nat) : Mach × Bool :=
  let m := m.dropBallots h
  let pending := m.commitPending h
  let t := (m.sampleDomains h).takeSet h
  let c := if pending then t.1.consume h else t.1
  let bound := forEach (c.slotsOf h) c Mach.bindLayer
  let news := bound.newPictures h
  let c := m.afterTake c h t.2 fun m x => m.selectPicture h x
  let c := forEach (c.slotsOf h) c fun m x => m.ownEntry h x (news.contains x)
  let c := c.updHead h fun r => { r with grid := c.comingGrid h, excused := false }
  (if m.balloted h && m.pair.poss && !m.pair.takeover.contains h && m.is Fld.PAIR_STATUS_LINK_UP then
    c.send (.pair (.ballot (Ballot.encode
      { head := h, commitTaken := pending, setRejected := t.2, tag := c.get (Fld.HEAD_LATCHED_TAG h)
        grid := twosOf 64 (c.comingGrid h)
        entries := (c.stack h).filterMap fun x => (c.layer x).ballot })))
  else c, pending && !t.2)

/-- The ballot latch on a standby (R427), and whether it took a commit. -/
def Mach.latchBallot (m : Mach) (h : Nat) : Mach × Bool :=
  let m := m.sampleDomains h
  let grid := twosOf 64 (m.comingGrid h)
  let mine := m.pair.ballots.find? fun b => b.ballot.head == h && b.ballot.grid == grid
  let m := m.updHead h fun r => { r with grid := m.comingGrid h, excused := false }
  match mine with
  | none =>
    let m := m.dropBallots h
    let t := m.retrySet h
    let c := m.afterTake t.1 h t.2 fun m x => m.followBallot h x none
    (c.ballotMissed h, false)
  | some w =>
    let b := w.ballot
    if b.commitTaken && !b.setRejected then
      let m := m.updPair fun p => { p with ballots := p.ballots.filter fun b => b.ballot.head != h }
      let r := m.head h
      let c := (m.latchFrom w.regs (m.markedKeys h w.commitHead w.commitLayers w.commitFresh)).put
        (Fld.HEAD_LATCHED_TAG h) b.tag
      let c := c.putB (Fld.HEAD_STATUS_COMMIT_PENDING h)
        (r.commitHead || r.commitLayers || r.commitFresh)
      (m.afterTake c h false fun m x => m.followBallot h x (b.entries.find? fun e => e.slot == x), true)
    else
      let m := m.dropBallots h
      let t := m.retrySet h
      (m.afterTake t.1 h t.2 fun m x => m.followBallot h x (b.entries.find? fun e => e.slot == x), false)

/-- The coming frame of a head is one that no ballot has gone with (R436). -/
def Mach.latchedAlone (m : Mach) (h : Nat) (alone : Bool) : Mach :=
  let g := twosOf 64 (m.comingGrid h)
  if alone then m.updPair fun p =>
    { p with alone := (h, g) :: p.alone.filter fun e => e.1 != h || e.2 + 1 == g }
  else m

/-- The latch, at the start of the head's LATCH_LINE or, on a standby, of its ballot latch, and whether it
took a commit. -/
def Mach.latchHead (m : Mach) (h : Nat) : Mach × Bool :=
  if m.followsBallot h && !m.pair.poss && m.is Fld.PAIR_STATUS_LINK_UP then m.latchBallot h
  else
    let sends := m.pair.poss && !m.pair.takeover.contains h && m.is Fld.PAIR_STATUS_LINK_UP
    let r := m.latchOwn h
    ((r.1.latchedAlone h (m.balloted h && !sends)).updPair fun p =>
      { p with takeover := p.takeover.filter fun k => k != h }, r.2)

end Sys2Proof.Machine
end

