-- ==== Sys2Proof/Machine/ComposeOps.lean ====
section
/-! DEFINITION. Composition of one line (R240 to R254, R277 to R281): what a head fetches, the pixels
it makes of it, the stored frame of frame-store mode, and the words that leave it (R283). -/

namespace Sys2Proof.Machine

/-! ### Fetches -/

/-- A range lies in the frame store and holds an unwritten line that its reader may read (R220). A fetch asks before
and after its read: an uncorrectable line becomes unwritten with it (R382). -/
def Mach.rangeUnwritten (m : Mach) (mst a n : Nat) : Bool :=
  match placeOf a with
  | .frameStore f =>
    (m.memDenied mst a false).isNone &&
    (lineParts f n).any fun l => (m.fsPhys l.1).2 || !m.lineWritten (m.fsPhys l.1).1
  | _ => false

/-- Fetched samples of a plane by row, and whether unwritten frame store was read. -/
structure Fetched where
  rows : List (Nat × List Nat)
  unwritten : Bool
  deriving DecidableEq, Repr

/-- The sample at a column, counted from `c0`, of a fetched row. -/
def Fetched.at (f : Fetched) (c0 : Nat) (i j : Nat) : Nat := (tabGet [] f.rows j).getD (i - c0) 0

/-- Rows `[a, b]`. -/
def rowsFrom (a b : Nat) : List Nat := (List.range (b + 1 - a)).map fun i => a + i

/-- Fetch rows of a raster of `bytes`-byte samples, one access for each row (log entry 14). -/
def Mach.fetchRaster (m : Mach) (mst base pitch bytes c0 n : Nat) : List Nat → Mach × Fetched
  | [] => (m, ⟨[], false⟩)
  | r :: rs =>
    let a := base + r * pitch + c0 * bytes
    let u := m.rangeUnwritten mst a (n * bytes)
    let p := m.memRead mst a (n * bytes)
    let q := p.1.fetchRaster mst base pitch bytes c0 n rs
    (q.1, ⟨(r, (List.range n).map fun i => leNat ((p.2.drop (i * bytes)).take bytes)) :: q.2.rows,
      u || p.1.rangeUnwritten mst a (n * bytes) || q.2.unwritten⟩)

/-! ### Pictures in memory (R197) -/

/-- Where a picture's planes and headers lie. -/
structure PicLayout where
  base : Nat
  bytes : Nat
  width : Nat
  chromaW : Nat
  chromaH : Nat
  chromaBase : Nat
  header : Nat
  chromaHeader : Nat
  /-- Bytes of the whole buffer. -/
  size : Nat
  deriving DecidableEq, Repr

def align (n k : Nat) : Nat := (n + k - 1) / k * k

def picLayout (base w h : Nat) (ten : Bool) (c : Chroma) : PicLayout :=
  let b := if ten then 2 else 1
  let wp := align w 64
  let hp := align h 64
  let cw := if halfW c then wp else 2 * wp
  let ch := if halfH c then hp / 2 else hp
  let luma := planeBytes wp hp b
  let chroma := planeBytes cw ch b
  let hdr := align (luma + chroma) 4096
  let chdr := align (hdr + (luma / 128 + 3) / 4) 4096
  { base := base, bytes := b, width := wp, chromaW := cw, chromaH := ch
    chromaBase := base + luma, header := base + hdr, chromaHeader := base + chdr
    size := align (chdr + (chroma / 128 + 3) / 4) 4096 }

def Mach.descBase (m : Mach) (d : Nat) : Nat :=
  m.get (Fld.DECSCHED_DESC_ADDR_HI_ADDR_HI d) * 2 ^ 32 +
  m.get (Fld.DECSCHED_DESC_ADDR_LO_ADDR_LO d) * 4096

def Mach.picLayoutOf (m : Mach) (d : Nat) (p : Picture) : PicLayout :=
  picLayout (m.descBase d) p.codedW p.codedH p.tenBits p.chroma

/-- Fetch blocks `i` of one block row: their codes, then each block's bytes; the samples of the row
`r` within the blocks. -/
def Mach.fetchBlocks (m : Mach) (mst plane header b perRow : Nat) (two : Bool) (r : Nat) :
    List Nat → Mach × List Nat × Bool
  | [] => (m, [], false)
  | i :: is =>
    let k := r / 4 * perRow + i
    let u1 := m.rangeUnwritten mst (header + k / 4) 1
    let h := m.memRead mst (header + k / 4) 1
    let u1 := u1 || h.1.rangeUnwritten mst (header + k / 4) 1
    let code := (h.2.headD 0).toNat / 4 ^ (k % 4) % 4
    let n := (code + 1) * 32
    let u2 := h.1.rangeUnwritten mst (plane + k * 128) n
    let d := h.1.memRead mst (plane + k * 128) n
    let u2 := u2 || d.1.rangeUnwritten mst (plane + k * 128) n
    let bw := blockWidth b
    let row := ((expandBlock b two code d.2).drop (r % 4 * bw)).take bw
    let q := d.1.fetchBlocks mst plane header b perRow two r is
    (q.1, row ++ q.2.1, u1 || u2 || q.2.2)

/-- Fetch rows of a picture's plane, columns `[c0, c0 + n)`. -/
def Mach.fetchPlane (m : Mach) (mst plane header b width : Nat) (two : Bool) (c0 n : Nat) :
    List Nat → Mach × Fetched
  | [] => (m, ⟨[], false⟩)
  | r :: rs =>
    let bw := blockWidth b
    let p := m.fetchBlocks mst plane header b (width / bw) two r
      (rowsFrom (c0 / bw) ((c0 + n - 1) / bw))
    let q := p.1.fetchPlane mst plane header b width two c0 n rs
    (q.1, ⟨(r, (p.2.1.drop (c0 % bw)).take n) :: q.2.rows, p.2.2 || q.2.unwritten⟩)

/-! ### The source of a layer on a line -/

/-- A layer's source as one line reads it: pixels by source position, and whether a position lies
outside the picture shown (R248). -/
structure Source where
  get : Nat → Nat → Rgb × Nat
  outside : Int → Int → Bool
  unwritten : Bool

/-- The luma rows a line reads and the chroma rows with them, within the source rectangle. -/
def chromaRows (c : Chroma) (r0 r1 lo hi : Nat) : List Nat :=
  if halfH c then rowsFrom (max (lo / 2) ((r0 - 1) / 2)) (min (hi / 2) ((r1 + 1) / 2))
  else rowsFrom r0 r1

/-- The chroma columns that luma columns `a` to `b` need, within the source rectangle's `lo` to `hi`. -/
def chromaCols (c : Chroma) (a b lo hi : Nat) : Nat × Nat :=
  if halfW c then (max (lo / 2) ((a - 1) / 2), min (hi / 2) ((b + 1) / 2)) else (a, b)

/-- Pixels of a two-plane source whose fetches begin at luma column `a` and chroma column `ca`. -/
def ycc (c : Chroma) (jpeg : Bool) (to10 : Nat → Nat) (luma chroma : Fetched) (a ca x0 x1 y0 y1 : Nat)
    (i j : Nat) : Rgb × Nat :=
  let cx (k : Int) : Nat :=
    if halfW c then (clampInt ((x0 / 2 : Nat) : Int) ((x1 / 2 : Nat) : Int) k).toNat
    else (clampInt (x0 : Int) (x1 : Int) k).toNat
  let cy (k : Int) : Nat :=
    if halfH c then (clampInt ((y0 / 2 : Nat) : Int) ((y1 / 2 : Nat) : Int) k).toNat
    else (clampInt (y0 : Int) (y1 : Int) k).toNat
  let get (p : Nat) (k l : Int) : Nat := to10 (chroma.at (2 * ca) (2 * cx k + p) (cy l))
  (⟨to10 (luma.at a i j), upsample c jpeg (get 0) i j, upsample c jpeg (get 1) i j⟩, 1023)

/-- The source of a BUFFER layer for the rows and columns a line reads. -/
def Mach.bufferSource (m : Mach) (mst x : Nat) (r0 r1 a b : Nat) : Mach × Source :=
  let g := m.geometry x
  let fmt := m.layerFormat x
  let pitch := m.lat (Fld.LAYER_FMT_PITCH x)
  let n := pixelBytes fmt
  let p := m.fetchRaster mst (m.planeAddr x 0) pitch n a (b + 1 - a) (rowsFrom r0 r1)
  if planesOf fmt = 1 then
    (p.1, ⟨fun i j => pixelOf fmt (p.2.at a i j), fun _ _ => false, p.2.unwritten⟩)
  else
    let c := formatChroma fmt
    let y1 := g.srcY + g.srcH - 1
    let x1 := g.srcX + g.srcW - 1
    let k := chromaCols c a b g.srcX x1
    let q := p.1.fetchRaster mst (p.1.planeAddr x 1) pitch n (2 * k.1) (2 * (k.2 + 1 - k.1))
      (chromaRows c r0 r1 g.srcY y1)
    let to10 (v : Nat) : Nat := if fmt = 6 then bitsOf v 6 10 else v * 4
    (q.1, ⟨ycc c false to10 p.2 q.2 a k.1 g.srcX x1 g.srcY y1, fun _ _ => false,
      p.2.unwritten || q.2.unwritten⟩)

/-- The source of a STREAM layer that shows the picture in descriptor `d`, for the rows and columns a line
reads; what lies outside the picture is not fetched (R248). -/
def Mach.streamSource (m : Mach) (mst x d : Nat) (p : Picture) (r0 r1 a b : Nat) : Mach × Source :=
  let g := m.geometry x
  let l := m.picLayoutOf d p
  let c := p.chroma
  -- within the cropped picture
  let x1 := min (g.srcX + g.srcW) p.width - 1
  let y1 := min (g.srcY + g.srcH) p.height - 1
  let out (i j : Int) : Bool := decide ((p.width : Int) ≤ i) || decide ((p.height : Int) ≤ j)
  let a0 := min r0 y1
  let a1 := min r1 y1
  let k0 := min a x1
  let k1 := min b x1
  let shift (off : Nat) (f : Fetched) : Fetched :=
    ⟨f.rows.map fun e => (e.1 - off, e.2), f.unwritten⟩
  let luma := m.fetchPlane mst l.base l.header l.bytes l.width false (p.cropX + k0) (k1 + 1 - k0)
    ((rowsFrom a0 a1).map fun r => r + p.cropY)
  let cropCy := if halfH c then p.cropY / 2 else p.cropY
  let cropCx := if halfW c then p.cropX / 2 else p.cropX
  let q := chromaCols c k0 k1 g.srcX x1
  let chroma := luma.1.fetchPlane mst l.chromaBase l.chromaHeader l.bytes l.chromaW true
    (2 * (cropCx + q.1)) (2 * (q.2 + 1 - q.1)) ((chromaRows c a0 a1 g.srcY y1).map fun r => r + cropCy)
  let get := ycc c p.jpeg (sample10 p.tenBits) (shift p.cropY luma.2) (shift cropCy chroma.2) k0 q.1
    g.srcX x1 g.srcY y1
  if p.width ≤ g.srcX ∨ p.height ≤ g.srcY then (m, ⟨fun _ _ => (⟨0, 0, 0⟩, 0), out, false⟩)
  else
    (chroma.1, ⟨fun i j => get (min i x1) (min j y1), out, luma.2.unwritten || chroma.2.unwritten⟩)

/-- The matrix of a layer in effect (R251). -/
def Mach.layerMatrix (m : Mach) (x : Nat) (auto : Nat) : Mat :=
  let p := m.lat (Fld.LAYER_FMT_PRESET x)
  if p = 0 then
    let s := m.lat (Fld.LAYER_FMT_CSC_SET x)
    let row (r : Nat) : MatRow :=
      ⟨signedOf 16 (m.get (Fld.LAYERPOOL_CSC_A_C0 s r)), signedOf 16 (m.get (Fld.LAYERPOOL_CSC_A_C1 s r)),
       signedOf 16 (m.get (Fld.LAYERPOOL_CSC_B_C2 s r)),
       signedOf 13 (m.get (Fld.LAYERPOOL_CSC_B_OFS s r))⟩
    ⟨row 0, row 1, row 2⟩
  else layerMat (if p = 15 then auto else p)

/-- The colour matrix of a head's output (R252). -/
def Mach.outputMatrix (m : Mach) (h : Nat) : Mat :=
  let p := m.lat (Fld.HEAD_OCSC_PRESET_PRESET h)
  if p = 0 then
    let row (r : Nat) : MatRow :=
      ⟨signedOf 16 (m.lat (Fld.HEAD_OCSC_A_C0 h r)), signedOf 16 (m.lat (Fld.HEAD_OCSC_A_C1 h r)),
       signedOf 16 (m.lat (Fld.HEAD_OCSC_B_C2 h r)), signedOf 13 (m.lat (Fld.HEAD_OCSC_B_OFS h r))⟩
    ⟨row 0, row 1, row 2⟩
  else outMat p

def Mach.background (m : Mach) (h : Nat) : Rgb :=
  ⟨m.lat (Fld.HEAD_BG_R h), m.lat (Fld.HEAD_BG_G h), m.lat (Fld.HEAD_BG_B h)⟩

/-! ### One layer over a line -/

/-- How FRESH marks a line of a layer in a state (R218, R222, R226). -/
def Mach.markOf (m : Mach) (x code : Nat) : Mark :=
  if !m.timed x then .none
  else if fStale ≤ code then .hatch
  else if code = fLate ∧ m.latIs (Fld.FRESH_LAYER_CFG_LATE_MARK x) = true then .border
  else .none

/-- What a layer puts on a pixel before the hatch: nothing, where the source rectangle extends past the
picture (R248); its colour and alpha, to be blended (R253); or a colour that is opaque (R243). -/
inductive Paint
  | clear (p : Rgb)
  | blend (p : Rgb) (alpha : Nat)
  | solid (p : Rgb)
  deriving DecidableEq, Repr

def Paint.colour : Paint → Rgb
  | .clear p => p
  | .blend p _ => p
  | .solid p => p

/-- Hatch what a layer puts on a line and blend it over the line below it (R224, R253, R254). -/
def Mach.paintLine (m : Mach) (x : Nat) (v : Rect) (y : Int) (mark : Mark) (paint : Int → Paint)
    (below : List Rgb) : List Rgb :=
  let hatch : Rgb := ⟨m.lat (Fld.FRESH_LAYER_HATCH_R x), m.lat (Fld.FRESH_LAYER_HATCH_G x),
    m.lat (Fld.FRESH_LAYER_HATCH_B x)⟩
  let opaqueLayer := m.lat (Fld.LAYER_CTRL_BLEND x) % 3 == 0
  let premult := m.lat (Fld.LAYER_CTRL_BLEND x) == 2
  let global := m.lat (Fld.LAYER_ALPHA_GLOBAL_ALPHA x)
  below.zipIdx.map fun e =>
    let px : Int := e.2
    if !v.has px y then e.1
    else match hatchPixel mark v px y (paint px).colour hatch with
      | some c => c
      | none => match paint px with
        | .clear _ => e.1
        | .solid c => c
        | .blend s ap =>
          let a := alphaOf (if opaqueLayer then 1023 else ap) global
          blendPixel premult a global s e.1

/-- Fetch what a line of a layer reads (R246); unwritten frame store marks the layer for the rest of
the frame (R220). None for a layer that fetches nothing or shows no picture. -/
def Mach.fetchLayer (m : Mach) (h x y : Nat) : Mach × Option (Source × Mat) :=
  let mst := mstHead h
  let rows := m.rowsOf x y
  let v := m.visible h x
  let cols := (m.geometry x).cols (m.filterNearest x) v.x0 v.x1
  let note (r : Mach × Source) (k : Mat) : Mach × Option (Source × Mat) :=
    if r.2.unwritten then (r.1.updLayer x fun l => { l with unwritten := true }, none)
    else (r.1, some (r.2, k))
  if (m.layer x).unwritten then (m, none)
  else if m.layerKind x = kindBuffer then
    note (m.bufferSource mst x rows.1 rows.2 cols.1 cols.2)
      (m.layerMatrix x (if planesOf (m.layerFormat x) = 1 then 1 else 5))
  else if m.layerKind x = kindStream then
    match (m.layer x).on y with
    | none => (m, none)
    | some s => match m.pic s.desc with
      | some p => note (m.streamSource mst x s.desc p rows.1 rows.2 cols.1 cols.2) (m.layerMatrix x p.preset)
      | none => (m, none)
  else (m, none)

/-- What a source gives at a raster pixel (R247, R248). -/
def Source.paint (s : Source) (k : Mat) (g : Geometry) (near : Bool) (y px : Int) : Paint :=
  let out := s.outside (nearestPixel (srcPos g.srcX px g.dstX g.srcW g.dstW))
    (nearestPixel (srcPos g.srcY y g.dstY g.srcH g.dstH))
  if out then
    .clear ⟨Config.outsidePixel px y 0 % 1024, Config.outsidePixel px y 1 % 1024,
      Config.outsidePixel px y 2 % 1024⟩
  else
    let p := g.sample near s.get px y
    .blend (k.apply p.1) p.2

/-- Draw one layer of a line; `code` is FRESH's state. Without a source a SOLID layer draws its colour, a
STREAM layer without a picture the background, opaque (R243), and any other the background in place of its
pixels (R220). -/
def Mach.drawLayer (m : Mach) (h x y code : Nat) (src : Option (Source × Mat)) (below : List Rgb) :
    List Rgb :=
  let v := m.visible h x
  let mark := m.markOf x code
  match src with
  | some (s, k) =>
    m.paintLine x v y mark (s.paint k (m.geometry x) (m.filterNearest x) y) below
  | none =>
    let c : Paint := if m.layerKind x = kindSolid then
        .blend ⟨m.lat (Fld.LAYER_SOLID_R x), m.lat (Fld.LAYER_SOLID_G x), m.lat (Fld.LAYER_SOLID_B x)⟩ 1023
      else if m.layerKind x = kindStream ∧ ((m.layer x).on y).isNone then .solid (m.background h)
      else .blend (m.background h) 1023
    m.paintLine x v y mark (fun _ => c) below

/-! ### A line of blending space -/

/-- The last row of a picture that a line of a layer needs: rows past the picture are not (R248). -/
def Mach.rowNeeded (m : Mach) (x : Nat) (p : Picture) (y : Int) : Nat :=
  min (m.rowsOf x y).2 (p.height - 1)

/-- A layer goes offside where the front of its chased picture is not past the row a line needs, or
the picture is gone or abandoned (R196). -/
def Mach.checkOffside (m : Mach) (x y : Nat) : Mach :=
  let l := m.layer x
  match l.chased, l.offside with
  | some c, none =>
    let late := match m.pic c.desc with
      | some p => p.serial != c.serial || p.abandoned || decide (p.front ≤ m.rowNeeded x p y)
      | none => true
    if late then
      let m := m.updLayer x fun l => { l with offside := some y, split := true }
      let m := m.putB (Fld.LAYER_STATUS_CROP_OUT x)
        (m.is (Fld.LAYER_STATUS_CROP_OUT x) || m.cropOut x l.shown)
      (m.count (Fld.DECSCHED_STREAM_CNT_COUNT (m.layerStream x) 6)).raise evDecOffside
    else m
  | _, _ => m

/-- FRESH evaluates a layer on a line (R218, R222); the state it gives. -/
def Mach.evalLayer (m : Mach) (h x y : Nat) (lineTime : Int) : Mach × Nat :=
  if m.timed x then
    let e := m.evalLine h x y lineTime
    let m := m.recordLine x y e
    let m := if (y : Int) = (m.visible h x).y0 then m.stepPhase x y e.code else m
    (m, e.code)
  else
    let code := if (m.layer x).unwritten then fDark else fLive
    let m := m.updLayer x fun l => { l with causes := l.causes ||| (if l.unwritten then 256 else 0) }
    let m := m.put (Fld.FRESH_LAYER_STATUS_STATE x) code
    (m.put (Fld.FRESH_LAYER_STATUS_WORST x) (max code (m.get (Fld.FRESH_LAYER_STATUS_WORST x))), code)

/-- Compose the layers of a line, lowest first. -/
def Mach.composeLayers (m : Mach) (h y : Nat) (lineTime : Int) : List Nat → List Rgb → Mach × List Rgb
  | [], line => (m, line)
  | x :: xs, line =>
    let v := m.visible h x
    if v.isEmpty || !(decide (v.y0 ≤ y) && decide ((y : Int) ≤ v.y1)) then
      m.composeLayers h y lineTime xs line
    else
      let f := (m.checkOffside x y).fetchLayer h x y
      let e := f.1.evalLayer h x y lineTime
      e.1.composeLayers h y lineTime xs (e.1.drawLayer h x y e.2 f.2 line)

/-- A composed line of a head, in blending space. -/
def Mach.composeLine (m : Mach) (h y : Nat) (lineTime : Int) : Mach × List Rgb :=
  m.composeLayers h y lineTime (m.stack h) (List.replicate (m.hActive h) (m.background h))

/-! ### The words that leave the head (R229, R283) -/

/-- A pennant colour in the output's encoding (R229). -/
def Mach.penWord (m : Mach) (h : Nat) (c : Rgb) : Rgb :=
  if h < 16 ∧ m.is (Fld.HEAD_OUT_FMT_ENC h) = true then (outMatY 5).apply c else c

/-- Draw the pennants of a line, lowest layer first (R228 to R232). -/
def Mach.drawPennants (m : Mach) (h y : Nat) (line : List Rgb) : List Rgb :=
  let colours := (m.penRules h).colours
  (m.stack h).foldl (fun line x =>
    let l := m.layer x
    match l.pen with
    | none => line
    | some p =>
      let struck := match l.struck with
        | some s => decide (s ≤ y)
        | none => false
      let dotted := match l.ballot, l.on y with
        | some b, _ => b.arrival
        | none, some s => s.byArrival
        | none, none => false
      line.zipIdx.map fun e =>
        match (Pennant.mk p.x p.y p.hoistRight).colour colours
            (m.get (Fld.FRESH_LAYER_STATUS_PHASE x)) struck dotted e.2 y with
        | some c => m.penWord h c
        | none => e.1) line

/-- Blending-space pixels through the output matrix, without and with pennants, as words. -/
def Mach.plainWords (m : Mach) (h : Nat) (line : List Rgb) : List Nat :=
  let k := m.outputMatrix h
  line.map fun p => (k.apply p).word

def Mach.outWords (m : Mach) (h y : Nat) (line : List Rgb) : List Nat :=
  let k := m.outputMatrix h
  (m.drawPennants h y (line.map k.apply)).map Rgb.word

/-- A line with background from a pixel to its end (R281). -/
def Mach.cutWords (m : Mach) (h pixel : Nat) (words : List Nat) : List Nat :=
  words.take pixel ++ (m.plainWords h (List.replicate (words.length - pixel) (m.background h)))

/-! ### The stored frame and the slate (R278, R291) -/

def Mach.fsPitch (m : Mach) (h : Nat) : Nat := align (m.hActive h * 4) 64
def Mach.fsAddr (m : Mach) (h : Nat) : Nat := fsBase + m.get (Fld.HEAD_FS_ADDR_OFS h) * 64

/-- Store a composed line. -/
def Mach.storeLine (m : Mach) (h y : Nat) (line : List Rgb) : Mach :=
  m.memWrite (mstHead h) (m.fsAddr h + y * m.fsPitch h) (line.flatMap fun p => toLE 4 p.word)

/-- Read a line of pixel words from an address. -/
def Mach.loadLine (m : Mach) (h a n : Nat) : Mach × List Rgb :=
  let p := m.memRead (mstHead h) a (4 * n)
  (p.1, (List.range n).map fun i => rgbOf (leNat ((p.2.drop (4 * i)).take 4)))

/-- A line of the slate (R291). -/
def Mach.slateLine (m : Mach) (h y : Nat) : Mach × List Rgb :=
  let w := m.get (Fld.HEAD_SLATE_SIZE_SLATE_W h)
  let bg := m.background h
  if m.is (Fld.HEAD_SLATE_ADDR_EN h) && decide (y < m.get (Fld.HEAD_SLATE_SIZE_SLATE_H h)) then
    let p := m.loadLine h (fsBase + m.get (Fld.HEAD_SLATE_ADDR_OFS h) * 64 + y * align (4 * w) 64) w
    (p.1, (p.2 ++ List.replicate (m.hActive h - w) bg).take (m.hActive h))
  else (m, List.replicate (m.hActive h) bg)

end Sys2Proof.Machine
end

