-- ==== Sys2Proof/Machine/PicOps.lean ====
section
/-! DEFINITION. Pictures on their way to memory: the decode front (R184), the blocks that cells write (R173,
R197, R198), and what stands in concealed areas (R206). -/

namespace Sys2Proof.Machine

/-! ### The picture of a descriptor while cells work on it -/

/-- The picture in decode, or decoded with filtering or writes outstanding, that a descriptor holds. -/
def Mach.decPic (m : Mach) (d : Nat) : Option DecPic :=
  let s := m.strm (m.descStream d)
  (s.cur.toList ++ s.finishing).find? fun p => p.desc == d

/-- Change that picture. -/
def Mach.updDecPic (m : Mach) (d : Nat) (f : DecPic → DecPic) : Mach :=
  let g (p : DecPic) : DecPic := if p.desc = d then f p else p
  m.updStrm (m.descStream d) fun s => { s with cur := s.cur.map g, finishing := s.finishing.map g }

def DecPic.part (p : DecPic) (i : Nat) : Option DecPart := p.parts.find? fun q => q.idx == i

/-- A partition is reconstructed, with the remainder that was cut from it (R182, R193). -/
def DecPic.wholeIn (p : DecPic) : Nat → Nat → Bool
  | 0, _ => false
  | n + 1, i => match p.part i with
    | some q => q.st == .done && (match q.rest with
        | some k => p.wholeIn n k
        | none => true)
    | none => false

def DecPic.whole (p : DecPic) (i : Nat) : Bool := p.wholeIn (p.parts.length + 1) i

/-- The last of the partitions that a partition was cut into (R193). -/
def DecPic.lastIn (p : DecPic) : Nat → Nat → Option DecPart
  | 0, _ => none
  | n + 1, i => (p.part i).bind fun q => match q.rest with
    | some k => p.lastIn n k
    | none => some q

/-- The cell that finished later of two partitions on either side of a boundary: it filters (R183). -/
def DecPic.filterCell (p : DecPic) (a b : Nat) : Option Nat :=
  let last (i : Nat) : Option DecPart := p.lastIn (p.parts.length + 1) i
  match last a, last b with
  | some q, some r => if q.ended < r.ended then r.cell else q.cell
  | _, _ => none

/-- The row of the picture below a boundary; none where the partitions stand side by side. -/
def DecPic.boundRow (p : DecPic) (a b : Nat) : Option Nat :=
  match p.part a, p.part b with
  | some q, some r => if q.top = r.top then none else some (max q.top r.top)
  | _, _ => none

/-- The first row of the cropped picture that no partition covers; its height where all are covered. -/
def DecPic.covered (p : DecPic) : Nat :=
  ((0 :: p.parts.map fun q => q.top + q.rows).filter fun r =>
    !(p.parts.any fun q => decide (q.top ≤ r ∧ r < q.top + q.rows))).foldl min p.facts.height

/-- The most rows that can be final (R184): those above the partitions that are not done, a running one
counted whole, and not the last 8 above a boundary that is still to be filtered. -/
def DecPic.frontCap (p : DecPic) : Nat :=
  let h := p.facts.height
  let ofPart (q : DecPart) : Nat := match q.st with
    | .done => h
    | .running _ => q.top + q.rows
    | _ => q.top
  let ofBound (b : Nat × Nat) : Nat := match p.part b.1, p.part b.2 with
    | some a, some c => if a.top = c.top then a.top else max a.top c.top - 8
    | _, _ => h
  ((p.parts.map ofPart) ++ p.bounds.map ofBound).foldl min (if p.closed then h else p.covered)

/-! ### Concealed areas (R206) -/

/-- A luma position of the coded picture is concealed: in an area that a partition has lost, or, once the
unit is closed, in a row that no partition covers. -/
def DecPic.conceals (p : DecPic) (x y : Nat) : Bool :=
  (p.lost.any fun a => decide (a.x ≤ x ∧ x < a.x + a.w ∧ a.y ≤ y ∧ y < a.y + a.h)) ||
  (p.closed && decide (p.facts.cropY ≤ y ∧ y < p.facts.cropY + p.facts.height) &&
    !(p.parts.any fun q => decide (q.top ≤ y - p.facts.cropY ∧ y - p.facts.cropY < q.top + q.rows)))

/-- The luma position of sample `i` of a block. -/
def blockPos (l : PicLayout) (c : Chroma) (chroma : Bool) (k i : Nat) : Nat × Nat :=
  let bw := blockWidth l.bytes
  let per := (if chroma then l.chromaW else l.width) / bw
  let x := k % per * bw + i % bw
  let y := k / per * 4 + i / bw
  if chroma then (x / 2 * (if halfW c then 2 else 1), y * (if halfH c then 2 else 1)) else (x, y)

/-- Block `k` of the nearest reference's plane, which a cell reads; mid-grey without one, or where it has
another form (log entry 15). -/
def Mach.refBlock (m : Mach) (mst : Nat) (ref : Option Nat) (q : Picture) (chroma : Bool) (k : Nat) :
    Mach × List Nat :=
  let n := if q.tenBits then 64 else 128
  let grey := (m, List.replicate n (if q.tenBits then 512 else 128))
  match ref with
  | none => grey
  | some r => match m.pic r with
    | none => grey
    | some o =>
      if o.codedW = q.codedW ∧ o.codedH = q.codedH ∧ o.tenBits = q.tenBits ∧ o.chroma = q.chroma then
        let l := m.picLayoutOf r o
        let header := if chroma then l.chromaHeader else l.header
        let h := m.memRead mst (header + k / 4) 1
        let code := (h.2.headD 0).toNat / 4 ^ (k % 4) % 4
        let b := h.1.memRead mst ((if chroma then l.chromaBase else l.base) + k * 128) ((code + 1) * 32)
        (b.1, expandBlock l.bytes chroma code b.2)
      else grey

/-- The samples of a block with its concealed ones taken from the co-located ones of the nearest
reference. -/
def Mach.concealBlock (m : Mach) (mst : Nat) (p : DecPic) (q : Picture) (chroma : Bool) (k : Nat)
    (s : List Nat) : Mach × List Nat :=
  let l := m.picLayoutOf p.desc q
  let hit (i : Nat) : Bool :=
    let a := blockPos l q.chroma chroma k i
    p.conceals a.1 a.2
  if (List.range s.length).any hit then
    let r := m.refBlock mst p.nearRef q chroma k
    (r.1, s.zipIdx.map fun e => if hit e.2 then r.2.getD e.2 0 else e.1)
  else (m, s)

/-! ### Writing blocks (R173, R197, R198) -/

/-- Four codes in a byte. -/
def packCodes (code : Nat → Nat) (k : Nat) : Byte :=
  BitVec.ofNat 8 (code (4 * k) + 4 * code (4 * k + 1) + 16 * code (4 * k + 2) + 64 * code (4 * k + 3))

/-- The code of a block as it stands in its header: 0 before it is written. -/
def DecPic.code (p : DecPic) (chroma : Bool) (k : Nat) : Nat :=
  match p.written.find? fun w => w.chroma == chroma && w.block == k with
  | some w => w.code
  | none => 0

/-- A cell writes one block of a picture: its bytes, and its code in the header. -/
def Mach.writeBlock (m : Mach) (mst d : Nat) (chroma : Bool) (k : Nat) (samples : List Nat) : Mach :=
  match m.decPic d, m.pic d with
  | some p, some q =>
    let l := m.picLayoutOf d q
    let e := compressBlock l.bytes chroma samples
    let m := m.memWrite mst ((if chroma then l.chromaBase else l.base) + k * 128) e.2
    let p := { p with written := ⟨chroma, k, e.1, samples⟩ ::
      p.written.filter fun w => !(w.chroma == chroma && w.block == k) }
    (m.updDecPic d fun r => { r with written := p.written }).memWrite mst
      ((if chroma then l.chromaHeader else l.header) + k / 4) [packCodes (p.code chroma) (k / 4)]
  | _, _ => m

/-- Blocks of a plane. -/
def PicLayout.blocks (l : PicLayout) (h : Nat) (chroma : Bool) : Nat :=
  if chroma then l.chromaW / blockWidth l.bytes * (l.chromaH / 4)
  else l.width / blockWidth l.bytes * (align h 64 / 4)

/-- Blocks that a cell has written of a picture. -/
def Mach.cellWrite (m : Mach) (d : Nat) (w : CellWrites) : Mach :=
  match m.decPic d, m.pic d with
  | some p, some q =>
    let l := m.picLayoutOf d q
    let n := 128 / l.bytes
    forEach ((List.range (w.samples.length / n)).filter fun i =>
        decide (w.block + i < l.blocks q.codedH w.chroma)) m fun m i =>
      let s := m.concealBlock (mstDec w.cell) p q w.chroma (w.block + i) ((w.samples.drop (i * n)).take n)
      s.1.writeBlock (mstDec w.cell) d w.chroma (w.block + i) s.2
  | _, _ => m

/-! ### The front (R184) -/

/-- Rows of a picture have become final. -/
def Mach.moveFront (m : Mach) (d rows : Nat) : Mach :=
  m.updPic d fun p =>
    let f := min p.height (max p.front rows)
    { p with front := f
             firstFinal := if p.front = 0 ∧ f ≠ 0 then m.nowNs else p.firstFinal
             firstRows := if p.front = 0 then f else p.firstRows
             lastFinal := if p.front < p.height ∧ f = p.height then m.nowNs else p.lastFinal }

/-- The front of a picture moves: each chase slice whose last row it has now reached is a sample of CHASE_LATENCY
(R484). -/
def Mach.setFront (m : Mach) (d rows : Nat) : Mach :=
  let front (m : Mach) : Nat := ((m.pic d).map (·.front)).getD 0
  let n := m.moveFront d rows
  match m.decPic d with
  | none => n
  | some p =>
    let reached := p.parts.filter fun q => p.chase && q.chase && q.rest.isNone &&
      decide (front m < q.top + q.rows ∧ q.top + q.rows ≤ front n)
    reached.foldl (fun k q =>
      k.monSample 7 (m.descStream d) (some 0x7FF) ((m.nowNs - q.lastPacket) / 1000)) n

/-- A decode front as it stands: the blocks written since reach memory, and the front advances as far as the
partitions and boundaries of the picture let it. -/
def Mach.takeFront (m : Mach) (d : Nat) (f : FrontFacts) : Mach :=
  match m.decPic d with
  | none => m
  | some p => (f.writes.foldl (fun m w => m.cellWrite d w) m).setFront d (min f.rows p.frontCap)

def Mach.takeFronts (m : Mach) (fronts : List (Nat × FrontFacts)) : Mach :=
  fronts.foldl (fun m e => m.takeFront e.1 e.2) m

end Sys2Proof.Machine
end

