-- ==== Sys2Proof/Machine/HeadOps.lean ====
section
/-! DEFINITION. Heads: enable and start (R267 to R269), steering (R270, R271), commits (R274, R275), the
start of a line (R265, R277 to R289), the slate (R291, R292), check windows (R283, R284), region push
(R285 to R288), and the referee line (R431). -/

namespace Sys2Proof.Machine

/-! ### Enable (R267, R294, R299) -/

/-- Bits per component of an output format; none where the link does not allow it. -/
def Mach.depthOk (m : Mach) (h : Nat) : Bool :=
  let d := m.get (Fld.HEAD_OUT_FMT_DEPTH h)
  let ycc := m.is (Fld.HEAD_OUT_FMT_ENC h)
  if h < 16 then d ≤ 2 && (!ycc || d != 0) else (d == 1 || d == 3) && !ycc

/-- Bits per pixel on DisplayPort. -/
def Mach.dpBpp (m : Mach) (h : Nat) : Nat := 3 * (6 + 2 * m.get (Fld.HEAD_OUT_FMT_DEPTH h))

/-- Link rate in Gbit/s of a RATE code, and lanes of a LANES code; a code that the table does not name gives
a free value (log entry 13). -/
def dpRate (code : Nat) : Rat :=
  if code = 0 then 162 / 100 else if code = 1 then 27 / 10 else if code = 2 then 54 / 10
  else if code = 3 then 81 / 10 else Config.dpRateOther code
def dpLanes (code : Nat) : Nat :=
  if code = 0 then 1 else if code = 1 then 2 else if code = 2 then 4 else Config.dpLanesOther code

/-- Check 4 on DisplayPort for given settings (R294). -/
def Mach.dpCapacity (m : Mach) (h rate lanes : Nat) : Bool :=
  decide (m.pixelClock h * m.dpBpp h ≤ (dpLanes lanes : Rat) * dpRate rate * 800000000)

/-- Check 4 on DSI (R299). -/
def Mach.dsiCapacity (m : Mach) (h : Nat) : Bool :=
  let rate := m.get (Fld.HEAD_DSI_CTRL_LANE_RATE h)
  let b := if m.get (Fld.HEAD_OUT_FMT_DEPTH h) = 3 then 2 else 3
  decide (80 ≤ rate ∧ rate ≤ 2500) &&
  decide ((((m.hActive h * b + 6) * 8 : Nat) : Rat) ≤ 4 * (rate : Rat) / 1000 * (m.linePeriod h - 300))

def Mach.rasterOk (m : Mach) (h : Nat) : Bool :=
  let w := m.hActive h
  let v := m.vActive h
  decide (64 ≤ w ∧ w ≤ 8192) && w % 2 == 0 && decide (64 ≤ v ∧ v ≤ 4352) &&
  m.get (Fld.HEAD_HTIME_A_HFP h) != 0 && m.get (Fld.HEAD_HTIME_B_HSYNC h) != 0 &&
  m.get (Fld.HEAD_HTIME_B_HBP h) != 0 && m.get (Fld.HEAD_VTIME_A_VFP h) != 0 &&
  m.get (Fld.HEAD_VTIME_B_VSYNC h) != 0 && m.get (Fld.HEAD_VTIME_B_VBP h) != 0 &&
  decide (m.hTotal h ≤ 16383 ∧ m.vTotal h ≤ 8191) && m.frNum h != 0 && m.frDen h != 0 &&
  m.depthOk h && (h < 16 || decide (w ≤ 2560 ∧ v ≤ 1600))

/-- A buffer lies wholly in the visible frame store. -/
def inFrameStore (ofs n : Nat) : Bool := decide (ofs + n ≤ 0x7C00000)

/-- The first failing check of R267. -/
def Mach.timingCause (m : Mach) (h : Nat) : Option Nat :=
  let clk := m.pixelClock h
  let w := m.get (Fld.HEAD_SLATE_SIZE_SLATE_W h)
  let sh := m.get (Fld.HEAD_SLATE_SIZE_SLATE_H h)
  if !m.rasterOk h then some 1
  else if clk < 10000000 ∨ 900000000 < clk then some 2
  else if m.linePeriod h < 2000 then some 3
  else if !(if h < 16 then m.dpCapacity h (m.get (Fld.HEAD_DP_CTRL_RATE h))
      (m.get (Fld.HEAD_DP_CTRL_LANES h)) else m.dsiCapacity h) then some 4
  else if m.is (Fld.HEAD_FS_ADDR_EN h) &&
      !inFrameStore (m.get (Fld.HEAD_FS_ADDR_OFS h) * 64) (m.fsPitch h * m.vActive h) then some 5
  else if (m.is (Fld.HEAD_SLATE_ADDR_EN h) &&
        !inFrameStore (m.get (Fld.HEAD_SLATE_ADDR_OFS h) * 64) (align (4 * w) 64 * sh)) ||
      decide (m.hActive h < w) || decide (m.vActive h < sh) then some 6
  else none

def Mach.frameLocked (m : Mach) (h : Nat) : Bool := (m.lockView h).isSome

/-- A time of the view that the head's grid is counted in, or LOCAL without frame lock, in ns. -/
def Mach.gridTime (m : Mach) (h : Nat) : Rat :=
  match m.lockView h with
  | some v => (m.view v : Rat) / unitNs
  | none => (m.now : Rat) / unitNs

/-- When line 0 is to come after an enable now (R269): its line time on the first grid instant at least
1 ms ahead, or without frame lock its start 1 ms ahead. -/
def Mach.startTarget (m : Mach) (h : Nat) : Rat :=
  let t := m.gridTime h + 1000000
  match m.lockView h with
  | none => t
  | some _ =>
    let k := ((t - m.lockPhase h) / m.framePeriod h).floor
    let at' (k : Int) : Rat := (m.gridInstant h k : Rat) / 65536
    if t ≤ at' k then at' k else at' (k + 1)

/-- The start of LATCH_LINE that precedes the line 0 of an enable has come (R269); with TE_SYNC the first
edge has, or none has come for 2 frame periods (R300). -/
def Mach.startDue (m : Mach) (h : Nat) : Bool :=
  match (m.head h).target with
  | none => false
  | some t =>
    if m.teSync h then (m.head h).teAt.isSome || (m.head h).teLost
    else
      let lead : Rat := ((m.vTotal h - m.latchLine h : Nat) : Rat) * m.linePeriod h
      decide (t ≤ m.gridTime h + lead + (if (m.lockView h).isSome then m.pipeDelay h else 0))

/-- Send a DSI command that waits (R301). -/
def Mach.dsiSend (m : Mach) (h : Nat) : Mach :=
  match (m.head h).dsi with
  | none => m
  | some c =>
    if c.sent then m
    else (m.updHead h fun r => { r with dsi := some { c with sent := true } }).send
      (.dsi h c.lp c.dt c.bytes)

/-- A write of CTRL has set or cleared EN (R267, R269): `was` is the state before it. -/
def Mach.headEnable (m was : Mach) (h : Nat) : Mach :=
  if was.is (Fld.HEAD_CTRL_EN h) = m.is (Fld.HEAD_CTRL_EN h) then m
  else if m.is (Fld.HEAD_CTRL_EN h) then
    match m.timingCause h with
    | some c =>
      ((m.put (Fld.HEAD_CTRL_EN h) 0).put (Fld.HEAD_STATUS_TIMING_REJECT h) 1).put
        (Fld.HEAD_STATUS_TIMING_CAUSE h) c
    | none =>
      let m := m.putB (Fld.HEAD_STATUS_LOCK h) (m.frameLocked h)
      let m := m.put (Fld.HEAD_PIPE_DELAY_DELAY h) (m.pipeNs h).toNat
      let t := m.startTarget h
      m.updHead h fun r => { r with target := some t, teAt := none, teLost := false, okRun := 0 }
  else
    let m := m.updHead h fun r => { r with target := none }
    if m.scanning h then m
    else (m.put (Fld.HEAD_STATUS_LOCK h) 0).updHead h fun r => { r with teAt := none }

/-- When no head is in panic, a channel pays its debt of refreshes at once (R373). -/
def Mach.debtsPaid (m : Mach) : Mach :=
  if m.anyPanic || m.dram.debt.isEmpty then m else m.updDram fun d => { d with debt := [] }

/-- The head stops at its latch instant (CTRL.EN). -/
def Mach.headStop (m : Mach) (h : Nat) : Mach :=
  let m := (m.dsiSend h).put (Fld.HEAD_STATUS_SCANNING h) 0
  let m := if m.is (Fld.HEAD_CTRL_EN h) then m else m.put (Fld.HEAD_STATUS_LOCK h) 0
  let m := m.put (Fld.HEAD_STATUS_LINK_UP h) 0
  let m := (m.put (Fld.HEAD_STATUS_PANIC h) 0).put (Fld.HEAD_TOL_TOL h) 0xFFFFFFFF
  let m := m.put (Fld.HEAD_PUSH_STATUS_PSR_STATE h) 0
  (m.updHead h fun r => { r with cur := [], composing := false, wasFs := false }).debtsPaid

/-! ### Commits (R238, R274, R275) -/

/-- A commit that reaches the head now is deferred, and is late (R127, R275). -/
def Mach.commitDeferred (m : Mach) (h : Nat) : Bool :=
  m.scanning h && decide (m.latchLine h ≤ (m.head h).line)
def Mach.commitLate (m : Mach) (h : Nat) : Bool :=
  m.commitDeferred h &&
  decide ((m.head h).line < m.latchLine h + m.get (Fld.HEAD_LATCH_COMMIT_GUARD h))

/-- The commit response of a head (R127). -/
def Mach.commitResponse (m : Mach) (h : Nat) : Nat :=
  (m.commitDeferred h).toNat + 2 * (m.commitLate h).toNat

/-- A write of HEADn.COMMIT. -/
def Mach.headCommit (m : Mach) (h : Nat) (v : Word) : Mach :=
  if v.getLsbD 0 = false then m
  else
    let m := if m.commitLate h then m.put (Fld.HEAD_STATUS_COMMIT_LATE h) 1 else m
    (m.updHead h fun r => { r with commitHead := true, tag := bitsOf v.toNat 16 16 }).put
      (Fld.HEAD_STATUS_COMMIT_PENDING h) 1

/-- A write of LAYERPOOL.COMMIT or FRESH.COMMIT: a commit for each head that it names (R238, R275). -/
def Mach.poolCommit (m : Mach) (fresh : Bool) (v : Word) : Mach :=
  forEach ((List.range 20).filter fun h => v.getLsbD h) m fun m h =>
    let m := if m.commitLate h then m.put (Fld.HEAD_STATUS_COMMIT_LATE h) 1 else m
    (m.updHead h fun r => if fresh then { r with commitFresh := true }
      else { r with commitLayers := true }).put (Fld.HEAD_STATUS_COMMIT_PENDING h) 1

/-! ### Steering (R270, R271) -/

/-- Steer at the start of line 0. -/
def Mach.steer (m : Mach) (h : Nat) : Mach :=
  match m.lockView h with
  | some v =>
    let lp := m.linePeriod h
    let t : Rat := (m.view v : Rat) / unitNs + m.pipeDelay h
    let e : Int := wholeOf (t - (m.gridInstant h (m.gridNearest h t) : Rat) / 65536)
    let m := m.put (Fld.HEAD_LOCK_ERR_ERR h) (sat32 e)
    let vmax : Int := max 1 (m.get (Fld.HEAD_LOCK_CTRL_VADJ_MAX h))
    let slew : Rat := min 300 (m.get (Fld.HEAD_LOCK_CTRL_SLEW h))
    let far := decide (lp ≤ (e.natAbs : Rat))
    let n : Int := if far then
        min (clampInt (-vmax) vmax (nearest ((e : Rat) / lp)))
          ((m.vTotal h : Int) - m.latchLine h - 2)
      else 0
    let ppm : Rat := if far then 0
      else clampRat (-slew) slew (-(e : Rat) * 1000000 / (4 * m.framePeriod h))
    let m := m.updHead h fun r =>
      { r with vtot := ((m.vTotal h : Int) - n).toNat, ppm := ppm
               okRun := if e.natAbs ≤ 50 && r.target.isNone then r.okRun + 1 else 0 }
    if (m.head h).target.isSome then m
    else if m.get (Fld.HEAD_STATUS_LOCK h) = 2 then
      if 200 < e.natAbs then
        ((m.put (Fld.HEAD_STATUS_LOCK h) 1).put (Fld.HEAD_STATUS_LOCK_LOST h) 1).updHead h fun r =>
          { r with okRun := 0 }
      else m
    else if 8 ≤ (m.head h).okRun then m.put (Fld.HEAD_STATUS_LOCK h) 2
    else m
  | none => m.updHead h fun r => { r with vtot := m.vTotal h, ppm := 0 }

/-! ### Check windows (R283, R284) -/

/-- Window `w` in effect, clipped to the active raster. -/
def Mach.window (m : Mach) (h w : Nat) : Rect :=
  let x := m.lat (Fld.HEAD_CW_POS_X h w)
  let y := m.lat (Fld.HEAD_CW_POS_Y h w)
  (Rect.mk x y ((x : Int) + m.lat (Fld.HEAD_CW_SIZE_W h w) - 1)
    ((y : Int) + m.lat (Fld.HEAD_CW_SIZE_H h w) - 1)).clip (m.hActive h) (m.vActive h)

def Mach.windowMode (m : Mach) (h w : Nat) : Nat := m.lat (Fld.HEAD_CW_POS_MODE h w)

/-- Windows that are on. -/
def Mach.windowsOn (m : Mach) (h : Nat) : List Nat :=
  (List.range 16).filter fun w => m.windowMode h w != 0

/-- Feed words to a running CRC, least significant byte first. -/
def crcWords (c : Word) (ws : List Nat) : Word := (ws.flatMap (toLE 4)).foldl crc32cByte c

/-- The words of a line within columns. -/
def between (ws : List Nat) (x0 x1 : Int) : List Nat :=
  (ws.drop x0.toNat).take (x1 + 1 - x0).toNat

/-- The line in progress has left the head: its words enter the CRCs. -/
def Mach.closeLine (m : Mach) (h : Nat) : Mach :=
  let r := m.head h
  if r.cur.isEmpty then m
  else
    let wins := (m.windowsOn h).map fun w =>
      let v := m.window h w
      let c := tabGet 0xFFFFFFFF r.wins w
      (w, if !v.isEmpty ∧ v.y0 ≤ r.line ∧ (r.line : Int) ≤ v.y1
          then crcWords c (between r.cur v.x0 v.x1) else c)
    m.updHead h fun r => { r with crc := crcWords r.crc r.cur, wins := wins, cur := [] }

/-- The referee line of a head (R431): its CRC. -/
def refereeCrc (v : Nat) : Word :=
  ~~~ crcWords 0xFFFFFFFF ((List.range 256).map fun x =>
    let i := x / 2
    let s := (layerMat 5).apply
      ⟨64 + (37 * i + 61 * v) % 877, 64 + (23 * i + 29 * v) % 897, 64 + (53 * i + 11 * v) % 897⟩
    let s := if x % 32 < 8 then Rgb.map2 (fun a b => (a + b + 1) / 2) s ⟨1023, 512, 0⟩ else s
    (blendPixel false (if x < 128 then 1023 else 512) 1023 s ⟨512, 512, 512⟩).word)

/-- The referee's result for the frame in progress: none where HACTIVE is below 256. -/
def Mach.refereeLine (m : Mach) (h : Nat) : Mach × Option Bool :=
  if m.hActive h < 256 then (m, none)
  else
    let v := ((m.head h).gridNow % 16).toNat
    let p := m.vaultRead (0x20 + v)
    (p.1, some (decide (refereeCrc v = p.2)))

/-- The results of the frame that has left the head, to be reported at FRAME_DONE. -/
def Mach.frameResult (m : Mach) (h : Nat) : Mach :=
  let p := m.refereeLine h
  p.1.updHead h fun r =>
    { r with
      result := some
        { crc := ~~~ r.crc
          wins := (m.windowsOn h).map fun w =>
            (w, m.windowMode h w, BitVec.ofNat 32 (m.lat (Fld.HEAD_CW_EXPECT_EXPECT h w)),
             if (m.window h w).isEmpty then 0 else ~~~ (tabGet 0xFFFFFFFF r.wins w))
          grid := r.gridNow, referee := p.2, excused := r.excusedNow } }

/-! ### Region push (R285 to R288) -/

def Mach.bandLines (m : Mach) (h : Nat) : Nat := 8 * 2 ^ m.lat (Fld.HEAD_PUSH_BAND h)

/-- Region push applies. -/
def Mach.pushing (m : Mach) (h : Nat) : Bool :=
  m.latIs (Fld.HEAD_CTRL_PUSH_EN h) && m.fsMode h && !m.slated h

/-- A composed line enters its band's CRC. -/
def Mach.bandLine (m : Mach) (h y : Nat) (words : List Nat) : Mach :=
  let b := y / m.bandLines h
  m.updHead h fun r =>
    { r with bands := tabSet r.bands b (crcWords (tabGet 0xFFFFFFFF r.bands b) words) }

/-- The line time of line `y` of the frame that is composed, LOCAL ns (R211): the frame in progress in
its active lines, else the coming one. -/
def Mach.expectedTime (m : Mach) (h y : Nat) : Int :=
  let r := m.head h
  let ahead : Int := if r.line < m.vActive h then (y : Int) - r.line else (r.vtot : Int) - r.line + y
  ((m.nowNs : Rat) + (ahead : Rat) * m.linePeriod h).floor + m.pipeNs h

/-- Compose the next lines of the stored frame. -/
def Mach.composeAhead (m : Mach) (h : Nat) : Nat → Mach
  | 0 => m
  | n + 1 =>
    let y := (m.head h).composedTo
    let p := m.composeLine h y (m.expectedTime h y)
    let m := p.1.storeLine h y p.2
    let m := m.bandLine h y (m.outWords h y p.2)
    (m.updHead h fun r => { r with composedTo := y + 1 }).composeAhead h n

/-- Bring composition up to the lines that are complete now. -/
def Mach.composeTo (m : Mach) (h done : Nat) : Mach :=
  let r := m.head h
  if !r.composing then m
  else m.composeAhead h (min done (m.vActive h) - r.composedTo)

/-- A composed band is dirty for its CRC or for the frame's number (R285). -/
def Mach.bandDirty (m : Mach) (h b : Nat) : Bool :=
  let r := m.head h
  let every := m.lat (Fld.HEAD_PUSH_FULL_EVERY h)
  r.composing &&
  ((every != 0 && (r.frames - 1) % every == 0) || tabFind r.bands b != tabFind r.prevBands b)

/-- A band's composition is not complete. -/
def Mach.bandOpen (m : Mach) (h b : Nat) : Bool :=
  (m.head h).composing && decide ((m.head h).composedTo < min ((b + 1) * m.bandLines h) (m.vActive h))

/-- Bands of the raster. -/
def Mach.bandCount (m : Mach) (h : Nat) : Nat :=
  (m.vActive h + m.bandLines h - 1) / m.bandLines h

/-- At the start of a band's scan, note whether it is dirty. -/
def Mach.noteBand (m : Mach) (h y : Nat) : Mach :=
  let b := y / m.bandLines h
  if m.pushing h && y % m.bandLines h == 0 && (m.bandDirty h b || m.bandOpen h b) then
    m.updHead h fun r => { r with dirty := insertNat r.dirty b }
  else m

/-- First and last line of the region that some dirty bands span (R285). -/
def Mach.regionOf (m : Mach) (h : Nat) (dirty : List Nat) : Option (Nat × Nat) :=
  if !m.pushing h then some (0, m.vActive h - 1)
  else match dirty, dirty.getLast? with
    | a :: _, some b => some (a * m.bandLines h, min ((b + 1) * m.bandLines h) (m.vActive h) - 1)
    | _, _ => none

/-- The region of the frame in progress: bands noted so far, and those that composition makes dirty, as it
stands at the end of the frame where it keeps pace (log entry 13). -/
def Mach.region (m : Mach) (h : Nat) : Option (Nat × Nat) :=
  let done := if m.pushing h then m.composeTo h (m.vActive h) else m
  let noted := (m.head h).dirty
  m.regionOf h ((List.range (m.bandCount h)).filter fun b => noted.contains b || done.bandDirty h b)

/-- Line `y` lies in a region. -/
def inSpan (r : Option (Nat × Nat)) (y : Nat) : Bool :=
  match r with
  | some s => decide (s.1 ≤ y ∧ y ≤ s.2)
  | none => false

/-- The link sends pixels of line `y` (R285 to R287). -/
def Mach.sendsLine (m : Mach) (h y : Nat) : Bool :=
  if !m.pushing h then decide (y < m.vActive h)
  else if 16 ≤ h then inSpan (m.region h) y
  else match m.get (Fld.HEAD_PUSH_STATUS_PSR_STATE h) with
    | 2 => inSpan (m.region h) y
    | 1 => false
    | _ => decide (y < m.vActive h)

/-- PSR state of the coming frame (R286), at its line 0. -/
def Mach.psrState (m : Mach) (h : Nat) : Nat :=
  if 16 ≤ h || !m.is (Fld.HEAD_STATUS_LINK_UP h) then 0
  else if m.is (Fld.HEAD_DP_STATUS_PSR2_CAP h) then 2
  else if m.is (Fld.HEAD_DP_STATUS_PSR_CAP h) && m.get (Fld.HEAD_LOCK_CTRL_SRC h) == 0 &&
      decide (max 1 (m.lat (Fld.HEAD_PUSH_PSR_ENTRY h)) ≤ (m.head h).still) && (m.region h).isNone then 1
  else 0

/-- The colours that MSA MISC0 signals (R293). -/
def Mach.colourimetry (m : Mach) (h : Nat) : Colourimetry :=
  let p := m.lat (Fld.HEAD_OCSC_PRESET_PRESET h)
  if p = 3 ∨ p = 4 then .bt601
  else if p = 5 ∨ p = 6 then .bt709
  else if m.is (Fld.HEAD_OUT_FMT_ENC h) then .bt709 else .srgb

/-- Mvid and Nvid: the pixel clock as a share of the link symbol clock, a tenth of the lane rate (R351; log
entry 13). -/
def Mach.mvidNvid (m : Mach) (h : Nat) : Nat × Nat :=
  let n : Nat := Config.nvid % (2 ^ 24 - 1) + 1
  let symbols := dpRate (m.get (Fld.HEAD_DP_STATUS_RATE_ACT h)) * 100000000
  ((m.pixelRate h / symbols * (n : Rat)).floor.toNat, n)

/-- What a DisplayPort head sends with line 0: MISC0 (R293), Mvid and Nvid (R351), and in PSR2 the selective-update area
(R286). -/
def Mach.sendInfo (m : Mach) (h : Nat) : Mach :=
  if 16 ≤ h || !m.is (Fld.HEAD_STATUS_LINK_UP h) then m
  else
    let m := m.send (.msa h (m.colourimetry h) (m.mvidNvid h).1 (m.mvidNvid h).2)
    if m.get (Fld.HEAD_PUSH_STATUS_PSR_STATE h) = 2 then m.send (.vscSdp h (m.region h)) else m

/-- The region of the frame that has been sent, at line VACTIVE. -/
def Mach.closeRegion (m : Mach) (h : Nat) : Mach :=
  let range := m.regionOf h (m.head h).dirty
  let m := m.put (Fld.HEAD_PUSH_STATUS_FIRST h) ((range.map Prod.fst).getD 0x1FFF)
  let m := m.put (Fld.HEAD_PUSH_STATUS_LAST h) ((range.map Prod.snd).getD 0x1FFF)
  m.updHead h fun r =>
    { r with dirty := [], still := if range.isNone then r.still + 1 else 0 }

/-- Components reduced to the link depth by dropping low bits (OUT_FMT.DEPTH). -/
def Mach.linkWord (m : Mach) (h w : Nat) : Nat :=
  let d := m.get (Fld.HEAD_OUT_FMT_DEPTH h)
  let p := rgbOf w
  if h < 16 then
    let k := 2 ^ (4 - 2 * d)
    (Rgb.mk (p.r / k) (p.g / k) (p.b / k)).word
  else if d = 3 then (Rgb.mk (p.r / 32) (p.g / 16) (p.b / 32)).word
  else (Rgb.mk (p.r / 4) (p.g / 4) (p.b / 4)).word

def be16 (x : Nat) : List Byte := toBE 2 x

/-- Send the words of a line on the link; on DSI the first line of the region follows its addresses
(R287). -/
def Mach.sendLine (m : Mach) (h y : Nat) (words : List Nat) : Mach :=
  if !m.is (Fld.HEAD_STATUS_LINK_UP h) || !m.sendsLine h y then m
  else
    let m := if h < 16 then m
      else match m.region h with
        | some (a, b) =>
          if y = a then
            ((m.send (.dsi h false 0x39 (0x2A :: be16 0 ++ be16 (m.hActive h - 1)))).send
              (.dsi h false 0x39 (0x2B :: be16 a ++ be16 b))).send (.dsi h false 0x39 [0x2C])
          else m.send (.dsi h false 0x39 [0x3C])
        | none => m
    m.send (.pixels h y (words.map (m.linkWord h)))

/-- The line in progress has left the head. -/
def Mach.endLine (m : Mach) (h : Nat) : Mach :=
  let r := m.head h
  if r.cur.isEmpty then m else (m.sendLine h r.line r.cur).closeLine h

/-! ### Underrun (R281) -/

/-- A line ran out of source data at a pixel. -/
def Mach.underrun (m : Mach) (h line pixel : Nat) : Mach :=
  let m := m.count (Fld.HEAD_UNDERRUN_CNT_COUNT h)
  let m := if m.is (Fld.HEAD_UNDERRUN_FIRST_VALID h) then m
    else ((m.put (Fld.HEAD_UNDERRUN_FIRST_VALID h) 1).put (Fld.HEAD_UNDERRUN_FIRST_LINE h) line).put
      (Fld.HEAD_UNDERRUN_FIRST_PIXEL h) pixel
  if (m.head h).underran then m
  else (m.updHead h fun r => { r with underran := true }).raise (evUnderrun h)

/-! ### The slate (R291, R292) -/

/-- An enabled layer of the head fetches from DRAM. -/
def Mach.dramLayers (m : Mach) (h : Nat) : List Nat :=
  (m.stack h).filter fun x => !(m.visible h x).isEmpty &&
    (if m.layerKind x = kindBuffer then
       (List.range (planesOf (m.layerFormat x))).any fun p => placeOf (m.planeAddr x p) == .dram
     else m.layerKind x == kindStream &&
       ((m.layer x).shown.toList ++ (m.layer x).chased.toList).any fun s =>
         placeOf (m.descBase s.desc) == .dram)

/-- A cause for the slate holds. -/
def Mach.wantsSlate (m : Mach) (h : Nat) : Bool :=
  m.is (Fld.HEAD_CTRL_SLATE_FORCE h) ||
  (m.frozen && (!m.fsMode h || !(m.dramLayers h).isEmpty))

/-- The head switches to the slate at the start of a line; the line in progress is cut. -/
def Mach.enterSlate (m : Mach) (h cut : Nat) : Mach :=
  if m.slated h || !m.wantsSlate h then m
  else
    let r := m.head h
    let m := if r.cur.isEmpty ∨ r.cur.length ≤ cut then m
      else (m.updHead h fun r => { r with cur := m.cutWords h cut r.cur }).underrun h r.line cut
    (m.put (Fld.HEAD_STATUS_SLATE h) 1).updHead h fun r => { r with composing := false }

/-! ### Frame-store composition (R279, R280) -/

/-- The latch decides whether the coming frame is composed (R279); `took` tells that a commit was
taken. -/
def Mach.startComposing (m : Mach) (h : Nat) (took fresh : Bool) : Mach :=
  let fs := m.fsMode h
  let r := m.head h
  let m := m.putB (Fld.HEAD_STATUS_FS_NONE h)
    (m.latIs (Fld.HEAD_CTRL_MODE h) && !m.is (Fld.HEAD_FS_ADDR_EN h))
  if fs && !m.slated h &&
      (took || (m.stack h).any m.timed || r.incomplete || !r.wasFs || fresh) then
    let m := forEach (m.stack h) m Mach.openLayer
    m.updHead h fun r =>
      { r with composing := true, composedTo := 0, incomplete := false, wasFs := true
               prevBands := r.bands, bands := [] }
  else m.updHead h fun r => { r with composing := false, wasFs := fs && !m.slated h }

/-! ### The latch instant -/

/-- What the head does at the start of the line at which it takes its set. -/
def Mach.atLatch (m : Mach) (h : Nat) : Mach :=
  if !m.is (Fld.HEAD_CTRL_EN h) || (m.head h).target.isSome then m.headStop h
  else
    let pending := m.commitPending h
    let leaves := m.slated h && pending && !m.frozen && !m.is (Fld.HEAD_CTRL_SLATE_FORCE h)
    let m := if leaves then m.put (Fld.HEAD_STATUS_SLATE h) 0 else m
    let t := m.latchHead h
    -- a frame with a timed layer is not scanned again (R211), nor one from before a lease was granted
    let anew := (m.stack h).any m.timed ||
      (m.slotsOf h).any fun x => (m.layer x).leaseWait && !(t.1.layer x).leaseWait
    t.1.startComposing h (t.2 || anew) leaves

/-! ### Chase switch (R195) -/

/-- The newest picture of a stream, READY or FILLING, later than the latched one. -/
def Mach.chaseTarget (m : Mach) (x : Nat) : Option Nat :=
  let s := m.layerStream x
  match m.latest (m.descsOf s dReady ++ m.descsOf s dFilling) with
  | none => none
  | some d => match m.pic d, (m.layer x).shown with
    | some p, some q => if p.after q.seqNo q.poc then some d else none
    | some _, none => some d
    | none, _ => none

/-- The test of R195 on one line, for a picture. -/
def Mach.chaseTest (m : Mach) (h x : Nat) (p : Picture) (y : Int) : Bool :=
  let need := m.rowNeeded x p y
  let front := p.front
  let lp := m.linePeriod h
  let t : Rat := (y : Rat) * lp - (m.lat (Fld.LAYER_ALPHA_LEAD_LINES x) : Rat) * lp
  decide (need + 1 ≤ front) ||
  match (m.strm (m.layerStream x)).pace with
  | none => false
  | some k => if k ≤ 0 then decide (0 ≤ t) else decide ((need + 1 : Rat) ≤ (front : Rat) + t / k)

/-- The choice of a chase-mode layer at the start of line 0. -/
def Mach.chaseSwitch (m : Mach) (h x : Nat) : Mach :=
  if !(m.layerOn x && m.timed x && m.chasing x) then m
  else match m.chaseTarget x with
    | none => m
    | some d =>
      let v := m.visible h x
      let passes := match m.pic d with
        | some p => !v.isEmpty && m.chaseTest h x p v.y0 && m.chaseTest h x p v.y1
        | none => false
      match passes, m.takeShown h d with
      | true, some s =>
        let m := (m.takeHold d).updLayer x fun l => { l with chased := some s, offside := none }
        (m.putB (Fld.FRESH_LAYER_STATUS_ARRIVAL x) s.byArrival).putB (Fld.LAYER_STATUS_CROP_OUT x)
          (m.cropOut x (some s))
      | _, _ => m

/-! ### Latency tolerance (R289) -/

/-- The set that a pending commit will take has a layer that fetches from DRAM, or will (R367). -/
def Mach.comingDram (m : Mach) (h : Nat) : Bool :=
  let r := m.head h
  let c := m.latchKeys (m.markedKeys h r.commitHead r.commitLayers r.commitFresh)
  !(c.dramLayers h).isEmpty || (c.stack h).any fun x =>
    !(c.visible h x).isEmpty && c.timed x && (c.nextPicture x).any fun d => placeOf (c.descBase d) == .dram

/-- The head needs DRAM for the rest of this frame or for its next composition. -/
def Mach.needsDram (m : Mach) (h : Nat) : Bool :=
  let r := m.head h
  m.scanning h && !m.slated h &&
  ((!(m.dramLayers h).isEmpty &&
    (!m.fsMode h || (r.composing && decide (r.composedTo < m.vActive h)) || r.incomplete ||
     (m.stack h).any m.timed)) ||
   (m.commitPending h && m.comingDram h))

/-- Bytes that one output line of a layer fetches, of all its planes (R197, R277). -/
def Mach.lineBytes (m : Mach) (x : Nat) : Nat :=
  let g := m.geometry x
  let samples := g.srcW * max 1 ((g.srcH + g.dstH - 1) / g.dstH)
  let halves (c : Chroma) : Nat := match c with
    | .c420 => 3
    | .c422 => 4
    | .c444 => 6
  if m.layerKind x = kindBuffer then
    let f := m.layerFormat x
    samples * pixelBytes f * (if planesOf f = 2 then halves (formatChroma f) else 2) / 2
  else match ((m.layer x).chased <|> (m.layer x).shown).bind fun s => m.pic s.desc with
    | some p => samples * (if p.tenBits then 2 else 1) * halves p.chroma / 2
    | none => 0

/-- Quarter lines of source data that live compose has fetched ahead: at most FETCH.AHEAD lines, and no more
than the fetch buffer holds (R277; log entry 13). -/
def Mach.fetchedAhead (m : Mach) (h ahead : Nat) : Nat :=
  let lines := max 1 (min 8 (m.get (Fld.HEAD_FETCH_AHEAD h)))
  let bytes := ((m.stack h).filter fun x => m.fetches x && !(m.visible h x).isEmpty).foldl
    (fun n x => n + m.lineBytes x) 0
  let room := if bytes = 0 then 4 * lines else 4 * 393216 / bytes
  min ahead (min (4 * lines) room)

/-- Report the tolerance and set panic at the start of a line. -/
def Mach.reportTolerance (m : Mach) (h : Nat) (env : LineEnv) : Mach :=
  let r := m.head h
  let quarters := if m.fsMode h then
      -- from line VACTIVE until the latch nothing of the coming frame is composed
      4 * ((if m.vActive h ≤ r.line ∧ r.line < m.takeLine h then 0 else r.composedTo) +
        (if r.line < m.vActive h then 0 else r.vtot - r.line) - (if r.line < m.vActive h then r.line else 0))
    else m.fetchedAhead h env.ahead
  let tol := if m.needsDram h
    then min 0xFFFFFFFF (wholeOf ((quarters : Rat) * m.linePeriod h / 4)).toNat else 0xFFFFFFFF
  let m := m.put (Fld.HEAD_TOL_TOL h) tol
  let q4 := max 4 (m.get (Fld.HEAD_FETCH_PANIC_Q4 h))
  let m := m.putB (Fld.HEAD_STATUS_PANIC h)
    (env.pending && m.needsDram h &&
     (decide (quarters < q4) || (m.is (Fld.HEAD_STATUS_PANIC h) && decide (quarters < q4 + 2))))
  m.debtsPaid.monSample 9 h none tol

/-! ### The start of a line -/

/-- The number of the line that starts next (R270, R300). -/
def Mach.nextLine (m : Mach) (h : Nat) : Nat :=
  let r := m.head h
  if m.teSync h && !r.teLost then
    match r.teAt with
    | some t => if t ≤ r.line + 1 then 0 else r.line + 1
    | none => r.line + 1
  else if r.vtot ≤ r.line + 1 then 0 else r.line + 1

/-- Line 0: a new frame. -/
def Mach.lineZero (m : Mach) (h : Nat) : Mach :=
  let m := (m.updHead h fun r =>
    { r with frames := r.frames + 1, crc := 0xFFFFFFFF, wins := [], dirty := [], underran := false
             gridNow := r.grid, excusedNow := r.excused, teAt := none }).steer h
  let m := if m.fsMode h && !m.slated h then m else forEach (m.stack h) m Mach.openLayer
  let m := forEach (m.stack h) m fun m x => m.chaseSwitch h x
  let up := if h < 16 then m.is (Fld.HEAD_DP_STATUS_TRAINED h) else true
  let m := if up then m.put (Fld.HEAD_STATUS_LINK_UP h) 1 else m
  (m.put (Fld.HEAD_PUSH_STATUS_PSR_STATE h) (m.psrState h)).sendInfo h

/-- FRESH on a line of a head that shows the slate: every timed layer is DARK (R220). -/
def Mach.slateEval (m : Mach) (h y : Nat) : Mach :=
  forEach (m.stack h) m fun m x =>
    let v := m.visible h x
    if v.isEmpty || !(decide (v.y0 ≤ y) && decide ((y : Int) ≤ v.y1)) then m
    else (m.evalLayer h x y ((m.nowNs : Int) + m.pipeNs h)).1

/-- An active line: what the head sends of it (R277, R278, R280, R281, R291). -/
def Mach.activeLine (m : Mach) (h y : Nat) (env : LineEnv) : Mach :=
  let m := m.noteBand h y
  let p : Mach × List Nat :=
    if m.slated h then
      let q := (m.slateEval h y).slateLine h y
      (q.1, q.1.plainWords h q.2)
    else if m.fsMode h && (m.head h).wasFs then
      if (m.head h).composing && decide ((m.head h).composedTo ≤ y) then
        let m := (m.updHead h fun r =>
          { r with incomplete := true, dirty := if m.pushing h
              then insertNat r.dirty (y / m.bandLines h) else r.dirty }).underrun h y 0
        (m, m.plainWords h (List.replicate (m.hActive h) (m.background h)))
      else
        let q := m.loadLine h (m.fsAddr h + y * m.fsPitch h) (m.hActive h)
        (q.1, q.1.outWords h y q.2)
    else
      let q := m.composeLine h y ((m.nowNs : Int) + m.pipeNs h)
      let w := q.1.outWords h y q.2
      match env.late with
      | some px => if px < m.hActive h then (q.1.underrun h y px, q.1.cutWords h px w) else (q.1, w)
      | none => (q.1, w)
  p.1.updHead h fun r => { r with cur := p.2 }

/-- Sequencers that wait for this line (R117). -/
def Mach.lineWaits (m : Mach) (h y : Nat) : Mach :=
  { m with seqs := m.seqs.map fun e => match e.2.wait with
      | .line k t hit => if k = h ∧ t = y then (e.1, { e.2 with wait := .line k t true }) else
          (e.1, { e.2 with wait := .line k t hit })
      | _ => e }

/-- The start of line `y` of a head (R265). -/
def Mach.lineBody (m : Mach) (h y : Nat) (env : LineEnv) : Mach :=
  let m := m.takeFronts env.fronts
  let m := m.updHead h fun r => { r with line := y, startAt := m.now }
  let m := if y = 0 then m.lineZero h else m
  let m := m.put (Fld.HEAD_POSITION_LINE h) y
  let m := m.put (Fld.HEAD_POSITION_FRAME h) ((m.head h).frames - 1)
  let m := m.composeTo h env.composed
  let m := if y < m.vActive h ∧ (m.head h).frames ≠ 0 then m.activeLine h y env else m
  let m := if y = m.vActive h ∧ (m.head h).frames ≠ 0 then
      (forEach (m.slotsOf h) ((m.frameResult h).closeRegion h) Mach.closeLayer).raise (evBlankStart h)
    else if y = m.vActive h then m.raise (evBlankStart h) else m
  let m := m.raiseIf (y == m.get (Fld.HEAD_LINE_MATCH_LINE h)) (evLineMatch h)
  let m := if m.sendsLine h y then m else m.dsiSend h
  let m := m.lineWaits h y
  let m := if y = m.takeLine h then m.atLatch h else m
  m.reportTolerance h env

/-! ### The end of a frame (R282, R284, R430) -/

/-- Mismatched windows of a result, from the results of the frame before; a window that was OFF then has
none. -/
def Mach.mismatches (m : Mach) (h : Nat) (r : FrameResult) : List Nat :=
  (r.wins.filter fun e =>
    let prev := BitVec.ofNat 32 (m.get (Fld.HEAD_CW_RESULT_RESULT h e.1))
    (e.2.1 == 2 && e.2.2.2 != e.2.2.1) ||
      (e.2.1 == 3 && (m.head h).computed.contains e.1 && e.2.2.2 == prev)).map fun e => e.1

/-- A head's referee result of its last frame, with pair operation enabled or not (R419, R431); a standby whose
referee fails is faulty (R433). -/
def Mach.noteReferee (m : Mach) (h : Nat) (r : FrameResult) : Mach :=
  let fail := r.referee == some false
  let m := m.updPair fun p =>
    { p with refFailed := if fail then insertNat p.refFailed h else p.refFailed.filter (· != h) }
  if !m.balloted h then m
  else
    let m := if fail && !m.pair.poss then m.put Fld.PAIR_STATUS_SELF_FAULTY 1 else m
    m.updPair fun p => { p with grid := twosOf 16 r.grid }

/-- FRAME_CRC and the window results become final; the signature message that a paired unit sends. -/
def Mach.frameDone (m : Mach) (h : Nat) : Mach × Option SigMsg :=
  match (m.head h).result with
  | none => (m, none)
  | some r =>
    let bad := m.mismatches h r
    let mask := bad.foldl (fun a w => a + 2 ^ w) 0
    let m := m.put (Fld.HEAD_FRAME_CRC_CRC h) r.crc.toNat
    let m := m.put (Fld.HEAD_CW_STATUS_MISMATCH h) mask
    let m := m.put (Fld.HEAD_CW_STATUS_STICKY h) (m.get (Fld.HEAD_CW_STATUS_STICKY h) ||| mask)
    let m := r.wins.foldl (fun m e => m.put (Fld.HEAD_CW_RESULT_RESULT h e.1) e.2.2.2.toNat) m
    let m := (m.updHead h fun x =>
      { x with result := none, computed := r.wins.map fun e => e.1 }).raise (evFrameDone h)
    let m := m.noteReferee h r
    (m, if m.balloted h then some
        { head := h, grid := twosOf 64 r.grid, crc := r.crc
          windows := r.wins.map fun e => (e.1, e.2.2.2)
          refereePass := r.referee != some false, excused := r.excused
          eligible := m.eligible, selfFaulty := m.is Fld.PAIR_STATUS_SELF_FAULTY }
      else none)

end Sys2Proof.Machine
end

