-- ==== Sys2Proof/Machine/DecQueue.lean ====
section
/-! DEFINITION. Decode jobs before they are taken: units that become jobs (R174 to R179, R206), work
(R172), deadlines (R185, R186), backlog and shedding (R189 to R191), and the partition that a chase job
ends (R193). -/

namespace Sys2Proof.Machine

/-! ### Work (R171, R172): thirds of a ns -/

def chromaThirds (c : Chroma) : Nat :=
  match c with
  | .c420 => 3
  | .c422 => 4
  | .c444 => 6

def partWork (c : Chroma) (p : PartFacts) : Nat := max (4 * p.samples * chromaThirds c) (6 * p.bits)

def factsWork (f : CodedPic) : Nat := (f.parts.map (partWork f.chroma)).foldl (· + ·) 0

def thirdsToNs (w : Nat) : Rat := (w : Rat) / 3

/-! ### Streams -/

def Mach.streamEn (m : Mach) (x : Nat) : Bool := m.is (Fld.DECSCHED_STREAM_CTRL_EN x)

def stStopped : Nat := 0
def stWaitRap : Nat := 1
def stRunning : Nat := 2
def stRejected : Nat := 3

def Mach.streamState (m : Mach) (x : Nat) : Nat := m.get (Fld.DECSCHED_STREAM_STATUS_STATE x)

/-- MAX_CELLS in effect. -/
def Mach.maxCells (m : Mach) (x : Nat) : Nat :=
  max 1 (min 8 (m.get (Fld.DECSCHED_STREAM_CTRL_MAX_CELLS x)))

def Mach.affinity (m : Mach) (x : Nat) : Nat := m.get (Fld.DECSCHED_STREAM_CTRL_AFFINITY x)

def Mach.decCellOn (m : Mach) (c : Nat) : Bool := m.is (Fld.DEC_CTRL_EN c)

/-- An error of R206: LAST_ERR, a counter of the stream, and its event. -/
def Mach.decError (m : Mach) (x code cnt : Nat) : Mach :=
  let m := m.put (Fld.DECSCHED_STREAM_STATUS_LAST_ERR x) code
  let m := m.count (Fld.DECSCHED_STREAM_CNT_COUNT x cnt)
  m.raiseIf (m.is (Fld.DECSCHED_STREAM_CTRL_ERR_EVT x)) evDecErr

/-- The stream that an enabled entry binds to a session. -/
def Mach.streamOf (m : Mach) (session : Nat) : Option Nat :=
  (m.decode.streams.find? fun e => m.streamEn e.1 && m.streamSession e.1 == session).map (·.1)

/-! ### Effective deadlines (R186) -/

/-- The earliest of a deadline and those of some jobs. -/
def earliest (d : Rat) (jobs : List DecJob) : Rat :=
  jobs.foldl (fun a j => if j.deadline < a then j.deadline else a) d

/-- Jobs of a stream with their effective deadlines. -/
def effective : List DecJob → List (DecJob × Rat)
  | [] => []
  | j :: r => (j, earliest j.deadline r) :: effective r

/-! ### Chase jobs (R192) -/

/-- The slice belongs to the picture in decode. -/
def Mach.joins (m : Mach) (x : Nat) (j : DecJob) : Bool :=
  j.slice && match (m.strm x).cur with
    | some p => p.chase && (m.pic p.desc).any fun q => q.unit.id == j.unit.id
    | none => false

/-- A job is eligible when no other picture of its stream is in decode (R187). -/
def Mach.eligible1 (m : Mach) (x : Nat) (j : DecJob) : Bool := (m.strm x).cur.isNone || m.joins x j

/-! ### Backlog (R189) -/

/-- Work of queued jobs and unstarted partitions of a stream. -/
def Mach.streamWork (s : DecStream) : Nat :=
  (s.jobs.map fun j => factsWork j.facts).foldl (· + ·) 0 +
  match s.cur with
  | some p => ((p.parts.filter fun q => q.st == .waiting || match q.st with
      | .chosen _ => true
      | _ => false).map fun q => q.work).foldl (· + ·) 0
  | none => 0

/-- STATUS.BACKLOG, µs. -/
def Mach.backlog (m : Mach) : Nat :=
  let w := (m.decode.streams.map fun e => Mach.streamWork e.2).foldl (· + ·) 0
  let n := ((List.range 64).filter m.decCellOn).length
  min 0xFFFF (if n = 0 then Config.backlogNoCells w else w / 3000 / n)

/-- BACKLOG_HI and BACKLOG_LO in µs. -/
def Mach.backlogHi (m : Mach) : Nat := m.get Fld.DECSCHED_SHED_CTRL_BACKLOG_HI * 100
def Mach.backlogLo (m : Mach) : Nat :=
  min (m.get Fld.DECSCHED_SHED_CTRL_BACKLOG_LO * 100) m.backlogHi

/-! ### Shedding (R189 to R191) -/

/-- An end-of-sequence or end-of-bitstream NAL unit: the held pictures become READY, once what came before
it has been decoded (R201). -/
def Mach.seqEnds (m : Mach) (x : Nat) : Mach :=
  let s := m.strm x
  match s.jobs.reverse, s.cur, s.finishing.reverse with
  | j :: r, _, _ => m.updStrm x fun s => { s with jobs := ({ j with ends := true } :: r).reverse }
  | [], some p, _ => m.updStrm x fun s => { s with cur := some { p with ends := true } }
  | [], none, p :: r =>
    m.updStrm x fun s => { s with finishing := ({ p with ends := true } :: r).reverse }
  | [], none, [] => m.flushHeld x

/-- Units whose pictures are dropped: slices of them that come later go too. -/
def Mach.noteDropped (m : Mach) (x : Nat) (units : List Nat) : Mach :=
  m.updStrm x fun s => { s with counted := (units.reverse ++ s.counted).dedup.take 16 }

/-- Count a dropped picture of a stream once, whatever slices of it come. -/
def Mach.countDropped (m : Mach) (x cnt unit : Nat) : Mach :=
  if (m.strm x).counted.contains unit then m
  else (m.noteDropped x [unit]).count (Fld.DECSCHED_STREAM_CNT_COUNT x cnt)

/-- Remove queued jobs of a stream and count the pictures they were of. -/
def Mach.dropJobs (m : Mach) (x cnt : Nat) (gone : DecJob → Bool) : Mach :=
  let out := (m.strm x).jobs.filter gone
  let ids := (out.map fun j => j.unit.id).dedup
  let n := (ids.filter fun i => !(m.strm x).counted.contains i).length
  let m := ((m.updStrm x fun s => { s with jobs := s.jobs.filter fun j => !gone j }).noteDropped x ids).count
    (Fld.DECSCHED_STREAM_CNT_COUNT x cnt) n
  if out.any fun j => j.ends then m.seqEnds x else m

/-- A stream is shed to its next random access point (R191). -/
def Mach.shedToRap (m : Mach) (x : Nat) : Mach :=
  (m.dropJobs x 3 fun j => !m.joins x j).put (Fld.DECSCHED_STREAM_STATUS_SHED_TO_RAP x) 1

/-- Queued jobs that may be shed: stream, job and effective deadline. -/
def Mach.sheddable (m : Mach) (prio : Nat) (nonRef : Bool) : List (Nat × DecJob × Rat) :=
  m.decode.streams.flatMap fun e => ((effective e.2.jobs).filter fun p =>
    p.1.prio == prio && p.1.facts.nonRef == nonRef && !m.joins e.1 p.1).map fun p => (e.1, p)

/-- The first entry with the least deadline. -/
def leastBy : List (Nat × DecJob × Rat) → Option (Nat × DecJob × Rat)
  | [] => none
  | e :: r => match leastBy r with
    | some f => if f.2.2 < e.2.2 then some f else some e
    | none => some e

/-- The stream with the most queued work among some. -/
def Mach.mostWork (m : Mach) : List Nat → Option Nat
  | [] => none
  | x :: r => match m.mostWork r with
    | some y =>
      let w (z : Nat) : Nat := ((m.strm z).jobs.map fun j => factsWork j.facts).foldl (· + ·) 0
      if w x < w y then some y else some x
    | none => some x

/-- One victim of R190, from a priority on; none when nothing may be shed. -/
def Mach.shedOne (m : Mach) : List Nat → Option Mach
  | [] => none
  | prio :: r =>
    match leastBy (m.sheddable prio true) with
    | some (x, j, _) => some (m.dropJobs x 2 fun k => k.unit.id == j.unit.id)
    | none => match m.mostWork ((m.sheddable prio false).map fun e => e.1).dedup with
      | some x => some (m.shedToRap x)
      | none => m.shedOne r

def Mach.shedLoop (m : Mach) : Nat → Mach
  | 0 => m
  | n + 1 =>
    if m.backlog ≤ m.backlogLo then m.put Fld.DECSCHED_STATUS_SHEDDING 0
    else match m.shedOne (List.range 7) with
      | some m => m.shedLoop n
      | none => m

/-- Shedding starts above BACKLOG_HI and goes on until BACKLOG_LO. -/
def Mach.shed (m : Mach) : Mach :=
  let m := if !m.is Fld.DECSCHED_STATUS_SHEDDING && decide (m.backlogHi < m.backlog)
    then (m.put Fld.DECSCHED_STATUS_SHEDDING 1).raise evDecShed else m
  if m.is Fld.DECSCHED_STATUS_SHEDDING then
    m.shedLoop ((m.decode.streams.map fun e => e.2.jobs.length).foldl (· + ·) 0 + 1)
  else m

/-! ### Deadlines (R185) -/

/-- Source rows a job covers, first and last. -/
def jobRows (f : CodedPic) : Nat × Nat :=
  (f.parts.foldl (fun a p => min a p.top) f.height,
   f.parts.foldl (fun a p => max a (p.top + p.rows)) 0 - 1)

/-- The first line of a layer whose sampling reads a source row. -/
def Mach.lineReading (m : Mach) (h x row : Nat) : Option Nat :=
  let v := m.visible h x
  if v.isEmpty then none
  else (rowsFrom v.y0.toNat v.y1.toNat).find? fun (y : Nat) =>
    let r := m.rowsOf x (y : Int)
    decide (r.1 ≤ row ∧ row ≤ r.2)

/-- The first source row of a job that a layer reads: the least row, from the job's first to its last, that
a visible line samples. -/
def Mach.topRead (m : Mach) (h x : Nat) (f : CodedPic) : Option Nat :=
  let v := m.visible h x
  let j := jobRows f
  if v.isEmpty then none
  else (rowsFrom v.y0.toNat v.y1.toNat).foldl (fun a (y : Nat) =>
    let r := m.rowsOf x (y : Int)
    let k := max r.1 j.1
    if r.2 < j.1 ∨ j.2 < r.1 then a
    else some (match a with
      | some b => min b k
      | none => k)) none

/-- The chase term of a layer. -/
def Mach.chaseTerm (m : Mach) (h x : Nat) (f : CodedPic) : Option Rat :=
  if m.scanning h then
    ((m.topRead h x f).bind fun top => m.lineReading h x top).map fun y =>
      m.lineStart h 0 +
        ((y : Rat) - (m.lat (Fld.LAYER_ALPHA_LEAD_LINES x) : Rat)) * m.linePeriod h
  else none

/-- The earliest of the terms. -/
def leastRat : List Rat → Option Rat
  | [] => none
  | a :: r => match leastRat r with
    | some b => some (if b < a then b else a)
    | none => some a

/-- The deadline of a job queued now, LOCAL ns. -/
def Mach.jobDeadline (m : Mach) (x : Nat) (chase : Bool) (f : CodedPic) : Rat :=
  let tq : Rat := (m.now : Rat) / (unitNs : Rat)
  let cells := max 1 (min (m.maxCells x) f.parts.length)
  let emin := thirdsToNs (factsWork f) / (cells : Rat) + 51500
  let terms := (m.layersOf x).filterMap fun l =>
    if m.chasing l then (if chase then m.chaseTerm (m.owner l) l f else none)
    else m.latchAfter (m.owner l) (tq + emin)
  let idle := m.get (Fld.DECSCHED_STREAM_IDLE_DL_IDLE_DEADLINE x)
  (leastRat terms).getD (tq + ((if idle = 0 then 100000 else idle) * 1000 : Nat))

/-! ### The partition that a chase job ends (R193) -/

/-- A cell's running partition, where a chase job may end it: its effective deadline and its stream. A
disabled cell could not take the job (R188). -/
def Mach.endable (m : Mach) (c : Nat) : Option (Rat × Nat) :=
  match (m.cell c).cur, (m.cell c).preempt with
  | some (x, i), none => match (m.strm x).cur with
    | some p => if m.decCellOn c then (p.parts.find? fun q => q.idx == i && !q.chase).map fun q =>
        (earliest q.deadline (m.strm x).jobs, x) else none
    | none => none
  | _, _ => none

/-- The cell with the latest effective deadline: of equal ones the higher stream index counts as later
(R185), and of one stream's the lowest cell is taken. -/
def Mach.latestCell (m : Mach) : List Nat → Option (Nat × Rat × Nat)
  | [] => none
  | c :: r => match m.endable c, m.latestCell r with
    | some d, some e =>
      if d.1 < e.2.1 ∨ (d.1 = e.2.1 ∧ d.2 < e.2.2) then some e else some (c, d)
    | some d, none => some (c, d)
    | none, o => o

/-- No cell is idle: one running partition is picked to end at its next boundary. -/
def Mach.chasePreempt (m : Mach) (x : Nat) : Mach :=
  let idle := (List.range 64).any fun c => m.decCellOn c && (m.cell c).cur.isNone
  if idle || !m.is Fld.DECSCHED_CTRL_EN then m
  else
    let k := m.affinity x / 8
    let near := m.latestCell ((List.range 8).map fun i => 8 * k + i)
    match (match near with
      | some e => some e
      | none => m.latestCell (List.range 64)) with
    | some (c, _) => m.updCell c fun r => { r with preempt := some x }
    | none => m

/-! ### Content (R174 to R178, R182, R190, R251) -/

/-- The codec of a stream, from its session's PAYLOAD (R177): 0 H.264, 1 H.265, 2 JPEG. -/
def Mach.codec (m : Mach) (x : Nat) : Nat := m.get (Fld.INGEST_SESS_CTRL_PAYLOAD (m.streamSession x))

/-- A picture size is outside R178. -/
def Mach.sizeBad (m : Mach) (x width height : Nat) : Bool :=
  let lim (v k top : Nat) : Nat := if v = 0 then top else min v k * 64
  let w := lim (m.get (Fld.DECSCHED_STREAM_GEOM_MAX_W64 x)) 128 8192
  let h := lim (m.get (Fld.DECSCHED_STREAM_GEOM_MAX_H64 x)) 68 4352
  !(decide (16 ≤ width ∧ width ≤ w) && decide (16 ≤ height ∧ height ≤ h))

/-- A set's profile: general_profile_idc 0 reads as the lowest profile whose compatibility flag is set
(R176). -/
def seqIdc (h265 : Bool) (p : SeqSet) : Nat :=
  if h265 && p.profile == 0 then
    (p.compat.foldl (fun a c => some (match a with
      | some b => min b c
      | none => c)) none).getD 0
  else p.profile

/-- The code of a profile that R176 names. -/
def kindCode (h265 : Bool) (i : Nat) : Option Nat :=
  if h265 then
    if [4, 5].contains i then some 0x04
    else if [9, 11].contains i then some 0x05
    else if [6, 7, 8, 10].contains i then some 0x06 else none
  else if [83, 86].contains i then some 0x02
  else if [118, 128, 134].contains i then some 0x03 else none

/-- A profile of R174, with the bit depths and the chroma that the table gives it: H.264 Baseline (66), Main
(77), High (100) and High 10 (110); H.265 Main (1), Main 10 (2) and Main Still Picture (3). -/
def profileOk (h265 : Bool) (i : Nat) (p : SeqSet) : Bool :=
  let ten := if h265 then i == 2 else i == 110
  (if h265 then [1, 2, 3].contains i else [66, 77, 100, 110].contains i) && p.chromaFormat == 1 &&
  p.lumaDepth == p.chromaDepth && (p.lumaDepth == 8 || (ten && p.lumaDepth == 10))

/-- Level 5.2 of H.264 is level_idc 52; level 6.1 of H.265 is general_level_idc 183. -/
def levelOk (h265 : Bool) (p : SeqSet) : Bool := decide (p.level ≤ if h265 then 183 else 52)

/-- The codes that a sequence parameter set of the base layer meets (R174, R176, R178). -/
def Mach.setCodes (m : Mach) (x : Nat) (p : SeqSet) : List Nat :=
  let h := m.codec x == 1
  let i := seqIdc h p
  (if p.fields then [0x01] else []) ++
  (match kindCode h i with
   | some c => [c]
   | none => if profileOk h i p then [] else [0x0B]) ++
  (if levelOk h p then [] else [0x0C]) ++ (if m.sizeBad x p.width p.height then [0x0D] else [])

/-- Codes whose parameter set is rejected. -/
def rejecting (code : Nat) : Bool := [0x01, 0x04, 0x05, 0x0B, 0x0C, 0x0D].contains code

/-- The code of a NAL unit of an enhancement layer or of another view (R176). -/
def nalCode (codec : Nat) (n : NalHead) : Option Nat :=
  if codec = 0 then
    if [14, 20].contains n.type && n.svcExt then some 0x02
    else if n.type == 15 || n.type == 20 then some 0x03 else none
  else if codec = 1 ∧ 0 < n.layer then some 0x06 else none

/-- The codes of what is discarded beside the base layer, each once for a unit or slice. -/
def enhancementCodes (codec : Nat) (f : PicFacts) : List Nat :=
  ((f.seqSets.filter fun p => !p.base).filterMap (fun p => kindCode (codec == 1) (seqIdc (codec == 1) p)) ++
    f.nals.filterMap (nalCode codec)).dedup

/-- Slices of the base layer. -/
def slicesIn (codec : Nat) (f : PicFacts) : List NalHead :=
  f.nals.filter fun n =>
    if codec = 0 then decide (1 ≤ n.type ∧ n.type ≤ 5) else decide (n.type < 32 ∧ n.layer = 0)

/-- A slice of one of some NAL unit types. -/
def hasSlice (codec : Nat) (f : PicFacts) (types : List Nat) : Bool :=
  (slicesIn codec f).any fun n => types.contains n.type

/-- The kind of random access point (R179). -/
def rapOf (codec : Nat) (f : PicFacts) : Rap :=
  if codec = 2 then .jpeg
  else if codec = 0 then
    if hasSlice 0 f [5] then .idr else if f.recovery.isSome then .recovery else .none
  else if hasSlice 1 f [19, 20] then .idr
  else if hasSlice 1 f [21] then .cra else .none

/-- The picture starts a new coded video sequence (R201). -/
def opensSequence (codec : Nat) (f : PicFacts) : Bool :=
  if codec = 0 then hasSlice 0 f [5] || f.opens
  else if codec = 1 then hasSlice 1 f [16, 17, 18, 19, 20, 21, 22, 23] && f.opens
  else true

/-- An end-of-sequence or end-of-bitstream NAL unit of the base layer (R201). -/
def endsSequence (codec : Nat) (f : PicFacts) : Bool :=
  f.nals.any fun n => if codec = 0 then [10, 11].contains n.type
    else codec == 1 && [36, 37].contains n.type && n.layer == 0

/-- The picture counts as non-reference (R190): H.264 nal_ref_idc 0; an H.265 sub-layer non-reference
picture (the even NAL unit types below 16) of the highest TemporalId; every JPEG picture. -/
def countsNonRef (codec topTid : Nat) (f : PicFacts) : Bool :=
  if codec = 0 then (slicesIn 0 f).all fun n => n.refIdc == 0
  else if codec = 1 then
    (slicesIn 1 f).all fun n => decide (n.type < 16) && n.type % 2 == 0 && n.tid == topTid
  else true

/-- The preset that AUTO resolves to (R251). -/
def autoPreset (codec : Nat) (s : SeqSet) : Nat :=
  let full := s.fullRange.toNat
  if codec = 2 then 4
  else match s.matrix with
    | some 1 => 5 + full
    | some 5 => 3 + full
    | some 6 => 3 + full
    | some 9 => 7 + full
    | _ => 5

/-- Chroma of a JPEG picture by its RFC 2435 type (R151). -/
def jpegChroma (j : JpegHead) : Chroma :=
  if 128 ≤ j.type then .c444 else if j.type % 64 = 1 then .c420 else .c422

/-- A JPEG picture's headers as a parameter set; whole MCUs are coded. -/
def jpegSet (j : JpegHead) : SeqSet :=
  let c := jpegChroma j
  { id := 0, base := true, profile := 0, compat := [], level := 0, lumaDepth := 8, chromaDepth := 8
    chromaFormat := 1, fields := false, codedW := align j.width (if halfW c then 16 else 8)
    codedH := align j.height (if halfH c then 16 else 8), cropX := 0, cropY := 0, width := j.width
    height := j.height, topTid := 0, matrix := none, fullRange := true, reorder := 0 }

/-- The codes that a JPEG picture's headers meet (R174, R176, R178). -/
def Mach.jpegCodes (m : Mach) (x : Nat) (j : JpegHead) : List Nat :=
  let has (l : List Nat) : Bool := j.markers.any fun k => l.contains k
  (if has [0xC2, 0xC6] then [0x07] else []) ++
  (if has [0xC9, 0xCA, 0xCB, 0xCD, 0xCE, 0xCF] then [0x08] else []) ++
  (if j.precision = 12 ∨ j.table16 then [0x09] else []) ++
  (if has [0xC3, 0xC5, 0xC7, 0xDE] ∨ j.components = 1 then [0x0A] else []) ++
  (if has [0xC1] ∨ ([8, 12].contains j.precision && [1, 3].contains j.components) = false then [0x0B]
   else []) ++
  (if m.sizeBad x j.width j.height then [0x0D] else [])

/-! ### Partitions (R182, R192) -/

/-- Which partition a piece falls into; pieces of one partition follow each other. -/
def pieceKey (byTile bySlice byRow restarts : Bool) (e : PieceFacts × Nat) : Nat × Nat :=
  if byTile then (e.1.tile, e.1.slice)
  else if bySlice then (e.1.slice, 0)
  else if byRow then (e.1.row, 0)
  else if restarts then (e.2 / 8, 0) else (0, 0)

/-- Add a piece to the partitions found so far, newest first. -/
def addPiece (byRow : Bool) (acc : List ((Nat × Nat) × PartFacts)) (k : Nat × Nat) (p : PieceFacts) :
    List ((Nat × Nat) × PartFacts) :=
  match acc with
  | [] => [(k, ⟨p.samples, p.bits, false, p.top, p.rows⟩)]
  | e :: r =>
    if e.1 = k then
      let top := min e.2.top p.top
      (k, ⟨e.2.samples + p.samples, e.2.bits + p.bits, e.2.follows, top,
        max (e.2.top + e.2.rows) (p.top + p.rows) - top⟩) :: r
    else (k, ⟨p.samples, p.bits, byRow, p.top, p.rows⟩) :: acc

/-- The cut of a picture: by the first row of R182's table that fits it, tiles before slices (log entry
15); a slice in chase release is one partition. -/
def cutParts (codec : Nat) (p : PicSet) (f : PicFacts) (slice : Bool) : List PartFacts :=
  let byTile := !slice && codec == 1 && p.tiles
  let bySlice := !slice && !byTile && codec != 2 &&
    f.pieces.any fun a => f.pieces.any fun b => a.slice != b.slice
  let byRow := !slice && !byTile && !bySlice && codec == 1 && p.wpp
  let restarts := !slice && codec == 2 && f.jpeg.restarts
  let parts := (f.pieces.zipIdx.foldl (fun acc e =>
    addPiece byRow acc (pieceKey byTile bySlice byRow restarts e) e.1) []).reverse.map (·.2)
  if parts.isEmpty then [⟨0, 0, false, 0, 0⟩] else parts

/-- A coded picture, or a slice, with the parameter sets it names. -/
def codedOf (codec : Nat) (s : SeqSet) (p : PicSet) (f : PicFacts) (slice : Bool) : CodedPic :=
  { rap := rapOf codec f, leading := f.leading, rasl := codec == 1 && hasSlice 1 f [8, 9]
    newSequence := opensSequence codec f, nonRef := countsNonRef codec s.topTid f, poc := f.poc
    refs := f.refs, keep := f.keep, reorder := s.reorder, recovered := f.recovery
    chroma := if codec = 2 then jpegChroma f.jpeg else .c420, tenBits := s.lumaDepth == 10
    codedW := s.codedW, codedH := s.codedH, cropX := s.cropX, cropY := s.cropY, width := s.width
    height := s.height, preset := autoPreset codec s, parts := cutParts codec p f slice
    bounds := f.bounds }

/-- The picture of a unit with its parameter sets; none where one of them is absent. -/
def Mach.resolve (m : Mach) (x : Nat) (f : PicFacts) (slice : Bool) : Option CodedPic :=
  let c := m.codec x
  if c = 2 then some (codedOf 2 (jpegSet f.jpeg) ⟨0, true, 0, 1, false, false⟩ f slice)
  else ((m.strm x).picSets.find? fun p => p.id == f.pps).bind fun p =>
    ((m.strm x).seqSets.find? fun s => s.id == p.seq).map fun s => codedOf c s p f slice

/-! ### Parameter sets (R176, R181, R206) -/

/-- A parameter set is rejected: the stream is REJECTED until a supported one with its identifier comes. -/
def Mach.rejectSet (m : Mach) (x : Nat) (pic : Bool) (id : Nat) : Mach :=
  let was := m.streamState x
  let m := m.updStrm x fun s =>
    { s with rejected := (pic, id) :: s.rejected.filter fun e => e != (pic, id)
             seqSets := s.seqSets.filter fun p => pic || p.id != id
             picSets := s.picSets.filter fun p => !pic || p.id != id }
  (m.put (Fld.DECSCHED_STREAM_STATUS_STATE x) stRejected).raiseIf (was != stRejected) evDecReject

/-- A supported parameter set: a REJECTED stream that has none left to wait for goes on at the next random
access point. -/
def Mach.acceptSet (m : Mach) (x : Nat) (pic : Bool) (id : Nat) : Mach :=
  let m := m.updStrm x fun s => { s with rejected := s.rejected.filter fun e => e != (pic, id) }
  if m.streamState x = stRejected ∧ (m.strm x).rejected = [] then
    m.put (Fld.DECSCHED_STREAM_STATUS_STATE x) stWaitRap
  else m

/-- Report codes of a stream's content. -/
def Mach.reportCodes (m : Mach) (x : Nat) (codes : List Nat) : Mach :=
  codes.foldl (fun m c => m.decError x c 5) m

/-- A sequence parameter set arrives. -/
def Mach.takeSeqSet (m : Mach) (x : Nat) (p : SeqSet) : Mach :=
  if !p.base then m
  else
    let codes := m.setCodes x p
    let m := m.reportCodes x codes
    if codes.any rejecting then m.rejectSet x false p.id
    else (m.updStrm x fun s =>
      { s with seqSets := p :: s.seqSets.filter fun q => q.id != p.id }).acceptSet x false p.id

/-- A picture parameter set arrives: one of a layer above the base or of another view is discarded (R176), and
one with several slice groups belongs to no profile of R174. -/
def Mach.takePicSet (m : Mach) (x : Nat) (p : PicSet) : Mach :=
  if !p.base then m
  else if m.codec x = 0 ∧ 1 < p.sliceGroups then (m.reportCodes x [0x0B]).rejectSet x true p.id
  else (m.updStrm x fun s =>
    { s with picSets := p :: s.picSets.filter fun q => q.id != p.id }).acceptSet x true p.id

/-- What a unit says beside its picture; of a JPEG picture the headers count as a parameter set, and what
they meet is reported once for all its slices (`again`). Whether the picture may be decoded. -/
def Mach.takeSets (m : Mach) (x : Nat) (f : PicFacts) (again : Bool) : Mach × Bool :=
  let c := m.codec x
  if c = 2 then
    let codes := m.jpegCodes x f.jpeg
    let m := if again then m else m.reportCodes x codes
    if codes.any rejecting then (m.rejectSet x false 0, false)
    else if codes.isEmpty then (m.acceptSet x false 0, true)
    else (m, false)
  else
    let m := m.reportCodes x (enhancementCodes c f)
    let m := f.picSets.foldl (fun m p => m.takePicSet x p)
      (f.seqSets.foldl (fun m p => m.takeSeqSet x p) m)
    -- Baseline without arbitrary slice order (R174)
    match if c = 0 ∧ f.arbitraryOrder = true then
        ((m.strm x).picSets.find? fun p => p.id == f.pps).map (·.seq) else none with
    | some id => ((m.reportCodes x [0x0B]).rejectSet x false id, false)
    | none => (m, true)

/-! ### Units (R179, R191, R206) -/

/-- A picture arrives at a random access point in WAIT_RAP: the stream runs (R179). -/
def Mach.startRunning (m : Mach) (x : Nat) (u : UnitInfo) (f : CodedPic) : Mach :=
  (m.put (Fld.DECSCHED_STREAM_STATUS_STATE x) stRunning).updStrm x fun s =>
    { s with skipRasl := if f.rap == .cra then some u.id else none, fresh := true, recovering := f.rap == .recovery
             recoverAt := none }

/-- What goes with a job beside what it holds: whether it is a slice, whether the session releases in chase
mode, whether the sequence ends after it, when its last packet arrived, and ns from its release to the
job (R484). -/
structure JobEnv where
  slice : Bool
  chase : Bool
  ends : Bool
  last : Nat
  created : Nat
  deriving DecidableEq, Repr

/-- Queue a job (R185); a chase job, a slice or a picture released whole, may need a cell (R193). -/
def Mach.queueJob (m : Mach) (x : Nat) (u : UnitInfo) (f : CodedPic) (e : JobEnv) : Mach :=
  let j : DecJob :=
    { unit := u, facts := f, slice := e.slice, ends := e.ends, chase := e.chase, lastPacket := e.last
      queued := m.nowNs, deadline := m.jobDeadline x e.chase f
      prio := m.get (Fld.DECSCHED_STREAM_CTRL_SHED_PRIO x) }
  let m := m.updStrm x fun s => { s with jobs := s.jobs ++ [j] }
  let m := (m.monSample 5 x (some 0x7FF) e.created).shed
  if e.chase && ((m.strm x).jobs.any fun k => k == j) then m.chasePreempt x else m

/-- A picture of a unit is not decoded: an end of sequence after it still acts. -/
def Mach.skipPicture (m : Mach) (x : Nat) (ends : Bool) : Mach := if ends then m.seqEnds x else m

/-- A slice of a picture that was refused (R203) or dropped: it goes with it. -/
def Mach.sliceGone (m : Mach) (x unit : Nat) (slice : Bool) : Bool :=
  slice && ((m.strm x).refused == some unit || (m.strm x).counted.contains unit)

/-- A picture of a running stream that has passed the checks of its state. -/
def Mach.takePicture (m : Mach) (x : Nat) (u : UnitInfo) (f : CodedPic) (e : JobEnv) : Mach :=
  if m.sliceGone x u.id e.slice then m.skipPicture x e.ends
  else if f.rasl && (m.strm x).skipRasl.isSome then (m.countDropped x 5 u.id).skipPicture x e.ends
  else
    let m := if f.rap == .none || (m.strm x).skipRasl == some u.id then m
      else m.updStrm x fun s => { s with skipRasl := none }
    m.queueJob x u f e

/-- A picture that the fabric can decode, by the state of its stream. -/
def Mach.pictureIn (m : Mach) (x : Nat) (u : UnitInfo) (f : CodedPic) (e : JobEnv) : Mach :=
  if m.streamState x = stWaitRap then
    ((m.put (Fld.DECSCHED_STREAM_STATUS_SHED_TO_RAP x) 0).startRunning x u f).queueJob x u f e
  else if m.is (Fld.DECSCHED_STREAM_STATUS_SHED_TO_RAP x) && (f.rap == .none || m.sliceGone x u.id e.slice) then
    (m.countDropped x 3 u.id).skipPicture x e.ends
  else (m.put (Fld.DECSCHED_STREAM_STATUS_SHED_TO_RAP x) 0).takePicture x u f e

/-- A released unit, or in chase release a slice, comes to the fabric. -/
def Mach.decodeUnit (m : Mach) (x : Nat) (u : UnitInfo) (f : PicFacts) (slice chase : Bool)
    (last created : Nat) : Mach :=
  let e : JobEnv := ⟨slice, chase, endsSequence (m.codec x) f, last, created⟩
  let t := m.takeSets x f (slice && (m.strm x).counted.contains u.id)
  let m := if t.2 then t.1 else t.1.noteDropped x [u.id]
  let waits := m.streamState x == stWaitRap
  if !f.picture || !t.2 || !(waits || m.streamState x == stRunning) ||
      (waits && rapOf (m.codec x) f == .none) then m.skipPicture x e.ends
  else match m.resolve x f slice with
    | some p => m.pictureIn x u p e
    | none =>
      ((m.decError x 0x0E 5).put (Fld.DECSCHED_STREAM_STATUS_STATE x) stWaitRap).skipPicture x e.ends

/-- Ingest has lost a unit of a stream (DEC_E_LOST). -/
def Mach.decLost (m : Mach) (session : Nat) : Mach :=
  match m.streamOf session with
  | some x => m.decError x 0x14 5
  | none => m

end Sys2Proof.Machine
end

