-- ==== Sys2Proof/Machine/DecodeOps.lean ====
section
/-! DEFINITION. The decode fabric at work: what a cell chooses (R188), pictures that enter decode (R200,
R203 to R205), the ends of partitions (R173, R183, R193, R206), the writing of pictures (R197 to R199,
R201), streams (R177, R180) and what a freeze leaves (R376). -/

namespace Sys2Proof.Machine

/-! ### Candidates (R188) -/

/-- A partition that a cell could take, or with `part` none the next job of a stream. -/
structure Cand where
  deadline : Rat
  strm : Nat
  part : Option Nat
  own : Bool
  cellNo : Nat
  deriving DecidableEq, Repr

/-- Earlier in the order of R188: deadline, the stream the cell holds, the own queue, the lower cell, then
the lower stream and partition. -/
def Cand.before (holds : Option Nat) (a b : Cand) : Bool :=
  let key (c : Cand) : List Nat :=
    [if holds = some c.strm then 0 else 1, if c.own then 0 else 1, c.cellNo, c.strm, c.part.getD 0]
  decide (a.deadline < b.deadline) || (a.deadline == b.deadline && decide (key a < key b))

def bestCand (holds : Option Nat) : List Cand → Option Cand
  | [] => none
  | a :: r => match bestCand holds r with
    | some b => some (if b.before holds a then b else a)
    | none => some a

/-- Cells other than `c` that work on a stream's picture or have chosen to. -/
def Mach.cellsOn (m : Mach) (c x : Nat) : Nat :=
  (m.decode.cells.filter fun e => e.1 != c &&
    ((e.2.cur.map (·.1)) == some x || (e.2.next.map (·.1)) == some x)).length

def Mach.roomOn (m : Mach) (c x : Nat) : Bool := decide (m.cellsOn c x < m.maxCells x)

/-- The cells that work on a picture. -/
def workers (p : DecPic) : List Nat :=
  p.parts.filterMap fun q => match q.st with
    | .running c => some c
    | .chosen c => some c
    | _ => none

/-- The picture is in decode on a cell of cluster `k`: while no cell works on it, on its affinity cell. -/
def Mach.inCluster (m : Mach) (x : Nat) (p : DecPic) (k : Nat) : Bool :=
  match workers p with
  | [] => m.affinity x / 8 == k
  | ws => ws.any fun c => c / 8 == k

/-- A partition's dependency is met (R182); `ready` lists those whose row above has completed two CTUs. -/
def depMet (p : DecPic) (x : Nat) (ready : List (Nat × Nat)) (q : DecPart) : Bool :=
  !q.follows || ready.contains (x, q.idx) || p.whole (q.idx - 1)

/-- Unstarted partitions of pictures in decode in a cluster. -/
def Mach.partCands (m : Mach) (c k : Nat) (ready : List (Nat × Nat)) : List Cand :=
  m.decode.streams.flatMap fun e => match e.2.cur with
    | some p =>
      if m.inCluster e.1 p k && m.roomOn c e.1 then
        (p.parts.filter fun q => q.st == .waiting && depMet p e.1 ready q).map fun q =>
          ⟨earliest q.deadline e.2.jobs, e.1, some q.idx, false, (workers p).headD (m.affinity e.1)⟩
      else []
    | none => []

/-- The earliest eligible job of a cell's queue. -/
def Mach.queueCand (m : Mach) (c q : Nat) : Option Cand :=
  bestCand none <| m.decode.streams.filterMap fun e =>
    match e.2.jobs with
    | j :: r =>
      if m.affinity e.1 == q && m.eligible1 e.1 j && m.roomOn c e.1
      then some ⟨earliest j.deadline r, e.1, none, q == c, q⟩ else none
    | [] => none

/-- Length of a cell's queue: the work queued there (R187). -/
def Mach.queueWork (m : Mach) (q : Nat) : Nat :=
  ((m.decode.streams.filter fun e => m.affinity e.1 == q).map fun e =>
    (e.2.jobs.map fun j => factsWork j.facts).foldl (· + ·) 0).foldl (· + ·) 0

/-- The earliest eligible job of the longest of some queues. -/
def Mach.stealFrom (m : Mach) (c : Nat) : List Nat → Option Cand
  | [] => none
  | q :: r =>
    match m.queueCand c q, m.stealFrom c r with
    | some a, some b => some (if m.queueWork q < m.queueWork b.cellNo then b else a)
    | some a, none => some a
    | none, o => o

def clusterCells (k : Nat) : List Nat := (List.range 8).map fun i => 8 * k + i

/-- Other clusters, nearest first. -/
def Mach.crossSteal (m : Mach) (c : Nat) (ready : List (Nat × Nat)) : List Nat → Option Cand
  | [] => none
  | j :: r =>
    match bestCand (m.cell c).holds (m.partCands c j ready) with
    | some a => some a
    | none => match m.stealFrom c (clusterCells j) with
      | some a => some a
      | none => m.crossSteal c ready r

/-- What a cell chooses. -/
def Mach.choice (m : Mach) (c : Nat) (ready : List (Nat × Nat)) : Option Cand :=
  let k := c / 8
  let steal := m.is Fld.DECSCHED_CTRL_STEAL
  match bestCand (m.cell c).holds ((m.queueCand c c).toList ++ m.partCands c k ready) with
  | some a => some a
  | none =>
    match m.stealFrom c ((clusterCells k).filter fun q => q != c && (steal || !m.decCellOn q)) with
    | some a => some a
    | none =>
      if steal && m.is Fld.DECSCHED_CTRL_CROSS_STEAL
      then m.crossSteal c ready ((List.range 7).map fun d => (k + d + 1) % 8) else none

/-! ### Pictures that enter decode (R200, R203 to R205) -/

/-- The lowest FREE descriptor of a stream's range. -/
def Mach.freeDesc (m : Mach) (x : Nat) : Option Nat :=
  let first := m.get (Fld.DECSCHED_STREAM_DESC_FIRST x)
  ((List.range (m.get (Fld.DECSCHED_STREAM_DESC_COUNT x))).map fun i => first + i).find? fun d =>
    m.descState d == dFree

/-- The DPB that a picture keeps; pictures no longer used for reference may be freed. -/
def Mach.setDpb (m : Mach) (x : Nat) (keep : Int → Bool) : Mach :=
  let gone := (m.strm x).dpb.filter fun e => !keep e.1
  let m := m.updStrm x fun s => { s with dpb := s.dpb.filter fun e => keep e.1 }
  (forEach (gone.map (·.2)) m fun m d => m.put (Fld.DECSCHED_DESC_STATE_REF d) 0).freeOld x

/-- Before a picture enters decode: the end of a sequence (R201) and where the mark is cleared (R205). -/
def Mach.enterSequence (m : Mach) (x : Nat) (f : CodedPic) : Mach :=
  let m := if f.newSequence
    then (m.flushHeld x).updStrm x fun s => { s with seqNo := s.seqNo + 1 } else m
  let m := m.updStrm x fun s =>
    { s with reorder := f.reorder
             recoverAt := if f.recovered.isSome then f.recovered
               else if f.newSequence then none else s.recoverAt
             recovering := s.recovering && f.rap != .idr && f.rap != .cra && f.rap != .jpeg }
  let clear := f.rap == .idr || (f.rap == .cra && !f.leading) ||
    (match (m.strm x).recoverAt with
     | some p => decide (p ≤ f.poc)
     | none => false)
  if clear then
    (m.clearImpaired x).updStrm x fun s => { s with recoverAt := none, recovering := false }
  else m

/-- Names of the references that are not in the DPB. -/
def Mach.missingRefs (m : Mach) (x : Nat) (f : CodedPic) : List Int :=
  f.refs.dedup.filter fun r => !((m.strm x).dpb.any fun e => e.1 == r)

/-- The descriptor of the DPB's picture nearest in picture order count, the earlier on a tie (R204). -/
def nearestPoc (dpb : List (Int × Nat)) (r : Int) : Option Nat :=
  (dpb.foldl (fun best e => match best with
    | none => some e
    | some b =>
      let d (k : Int × Nat) : Nat := (k.1 - r).natAbs
      if d e < d b ∨ (d e = d b ∧ e.1 < b.1) then some e else some b) none).map (·.2)

/-- A reference is IMPAIRED or substituted. -/
def Mach.refImpaired (m : Mach) (x : Nat) (f : CodedPic) : Bool :=
  (m.strm x).dpb.any fun e => f.refs.contains e.1 && m.is (Fld.DECSCHED_DESC_STATE_IMPAIRED e.2)

/-- What a unit brings with it goes into the descriptor (R159). -/
def Mach.descUnit (m : Mach) (d : Nat) (u : UnitInfo) : Mach :=
  let m := m.putB (Fld.DECSCHED_DESC_STATE_INCOMPLETE d) u.incomplete
  let m := m.putB (Fld.DECSCHED_DESC_STATE_CT_NONE d) u.ctNone
  let m := m.putB (Fld.DECSCHED_DESC_STATE_CT_FUTURE d) u.ctFuture
  let m := m.put (Fld.DECSCHED_DESC_CAPT_SEC_SEC d) (u.capture / 1000000000)
  let m := m.put (Fld.DECSCHED_DESC_CAPT_NS_NS d) (u.capture % 1000000000)
  m.wr (Reg.DECSCHED_DESC_LIVE d) u.live

/-- Fill a descriptor's registers with what is known of its picture. -/
def Mach.fillDesc (m : Mach) (x d : Nat) (u : UnitInfo) (f : CodedPic) (impaired : Bool) : Mach :=
  let m := m.put (Fld.DECSCHED_DESC_STATE_STATE d) dFilling
  let m := m.put (Fld.DECSCHED_DESC_STATE_STREAM d) x
  let m := m.putB (Fld.DECSCHED_DESC_STATE_IMPAIRED d) impaired
  let m := m.putB (Fld.DECSCHED_DESC_STATE_CONCEALED d) u.incomplete
  let m := (m.put (Fld.DECSCHED_DESC_STATE_REF d) 0).put (Fld.DECSCHED_DESC_STATE_KEEP d) 0
  let m := m.put (Fld.DECSCHED_DESC_SIZE_HEIGHT d) f.height
  let m := m.put (Fld.DECSCHED_DESC_SIZE_WIDTH d) f.width
  m.descUnit d u

/-- Ingest tells what later packets of a chase unit have brought (R159): its jobs and its picture take it. -/
def Mach.unitUpdate (m : Mach) (x : Nat) (u : UnitInfo) : Mach :=
  let s := m.strm x
  let ds := ((s.cur.toList ++ s.finishing).map (·.desc)).filter fun d =>
    (m.pic d).any fun q => q.unit.id == u.id
  let m := m.updStrm x fun s => { s with jobs := s.jobs.map fun j =>
    if j.unit.id = u.id then { j with unit := u } else j }
  forEach ds m fun m d => (m.updPic d fun q => { q with unit := u }).descUnit d u

/-- The partitions of a job. -/
def jobParts (j : DecJob) (first : Nat) : List DecPart :=
  (List.range j.facts.parts.length).zip j.facts.parts |>.map fun e =>
    { idx := first + e.1, work := partWork j.facts.chroma e.2, samples := e.2.samples, top := e.2.top
      rows := e.2.rows, follows := e.2.follows, rest := none, cell := none, chase := j.chase
      lastPacket := j.lastPacket, deadline := j.deadline, ended := 0, st := .waiting }

def Mach.newPicture (m : Mach) (x d : Nat) (j : DecJob) : Mach :=
  let f := j.facts
  let p : Picture :=
    { serial := m.decode.nextSerial, unit := j.unit, chroma := f.chroma, tenBits := f.tenBits
      codedW := f.codedW, codedH := f.codedH, cropX := f.cropX, cropY := f.cropY
      width := f.width, height := f.height, preset := f.preset, jpeg := f.rap == .jpeg
      seqNo := (m.strm x).seqNo, poc := f.poc, stale := false, abandoned := false, readyAt := 0
      frozenAlive := false, frozenSig := false, queued := j.queued, deadline := j.deadline, front := 0, firstFinal := 0
      firstRows := 0, lastFinal := 0 }
  m.updDecode fun q => { q with pics := tabSet q.pics d p, nextSerial := q.nextSerial + 1 }

/-- A further chase slice joins its picture in decode: references that it names and that are missing or
IMPAIRED count and mark the picture as those of its first slice do (R204 to R206). -/
def Mach.sliceJoins (m : Mach) (x : Nat) (j : DecJob) : Mach :=
  match (m.strm x).cur with
  | none => m
  | some p =>
    let lost := (m.missingRefs x j.facts).filter fun r => !p.subst.any fun e => e.1 == r
    let dpb := (m.strm x).dpb
    let imp := !lost.isEmpty || m.refImpaired x j.facts
    let m := lost.foldl (fun m _ => m.decError x 0x10 4) m
    let m := if imp then m.put (Fld.DECSCHED_DESC_STATE_IMPAIRED p.desc) 1 else m
    m.updStrm x fun s => { s with cur := s.cur.map fun p =>
      { p with parts := p.parts ++ jobParts j p.parts.length, bounds := p.bounds ++ j.facts.bounds
               ends := p.ends || j.ends, impaired := p.impaired || imp
               facts := { p.facts with refs := (p.facts.refs ++ j.facts.refs).dedup }
               subst := p.subst ++ lost.map fun r => (r, nearestPoc dpb r) } }

/-- The first job of a stream enters decode: its picture takes the lowest FREE descriptor, or is not
decoded (R203); a slice joins its picture. -/
def Mach.decodeStart (m : Mach) (c x : Nat) (j : DecJob) : Mach :=
  let joins := m.joins x j
  let m := m.updStrm x fun s => { s with jobs := s.jobs.drop 1 }
  if joins then m.sliceJoins x j
  else if j.slice && (m.strm x).refused == some j.unit.id then m.skipPicture x j.ends
  else
    let f := j.facts
    let m := m.enterSequence x f
    let m := (m.setDpb x fun r => f.keep.contains r).freeEarlier x (m.newestReady x)
    match m.freeDesc x with
    | none =>
      let m := (m.decError x 0x12 5).updStrm x fun s => { s with refused := some j.unit.id }
      (if f.nonRef then m else m.shedToRap x).skipPicture x j.ends
    | some d =>
      let lost := m.missingRefs x f
      let dpb := (m.strm x).dpb
      let m := lost.foldl (fun m _ => m.decError x 0x10 4) m
      let imp := !lost.isEmpty || m.refImpaired x f || j.unit.incomplete || (m.strm x).recovering
      let m := if j.unit.incomplete then m.decError x 0x11 5 else m
      let m := (m.fillDesc x d j.unit f imp).newPicture x d j
      let cur : DecPic :=
        { desc := d, facts := f, parts := jobParts j 0, bounds := f.bounds, impaired := imp
          concealed := j.unit.incomplete, chase := j.slice, closed := !j.slice, taker := c
          ends := j.ends, subst := lost.map fun r => (r, nearestPoc dpb r), nearRef := nearestPoc dpb f.poc
          lost := [], written := [], filtered := [] }
      m.updStrm x fun s => { s with cur := some cur }

/-! ### A cell takes a partition -/

def Mach.updPart (m : Mach) (x i : Nat) (st : PartState) : Mach :=
  let cell (q : DecPart) : Option Nat := match st with
    | .running c => some c
    | _ => q.cell
  m.updStrm x fun s => { s with cur := s.cur.map fun p =>
    let n := (p.parts.filter fun q => q.st == .done).length
    { p with parts := p.parts.map fun q => if q.idx = i then
        { q with st := st, cell := cell q, ended := if st = .done then n + 1 else q.ended } else q } }

/-- The context of a stream in DRAM (R181). -/
def Mach.ctxAddr (m : Mach) (x : Nat) : Nat :=
  m.get Fld.DECSCHED_CTX_BASE_BASE * 2 ^ 20 + x * 0x10000

/-- Bytes of a stream's context. -/
def ctxSize : Nat := 0x10000

/-- A cell reads in the buffer of a descriptor's picture. -/
def Mach.readPicture (m : Mach) (c d : Nat) : Mach :=
  match m.pic d with
  | some q => m.readSomewhere (mstDec c) (m.descBase d) (m.picLayoutOf d q).size
  | none => m

/-- A cell that starts on a partition reads its coded data from the session's jitter buffer and the
references from their buffers; the spec places neither, so that where the cell reads in them is open (log entry
15). -/
def Mach.cellReads (m : Mach) (c x : Nat) : Mach :=
  let e := m.streamSession x
  let m := m.readSomewhere (mstDec c) (m.get (Fld.INGEST_SESS_BUF_BASE e) * 0x10000)
    (m.get (Fld.INGEST_SESS_BUF_SIZE e) * 0x100000)
  match (m.strm x).cur with
  | some p =>
    let refs := ((m.strm x).dpb.filter fun e => p.facts.refs.contains e.1).map (·.2)
    forEach (refs ++ p.subst.filterMap (·.2)).dedup m fun m d => m.readPicture c d
  | none => m

/-- The context load that a cell needs for a stream. -/
def DecCell.loadFor (r : DecCell) (x : Nat) : Option Nat :=
  if r.holds = some x then none else some x

/-- A cell starts on a partition at once, or chooses it to follow its current one. -/
def Mach.cellTake (m : Mach) (c x i : Nat) : Mach :=
  let r := m.cell c
  match r.cur with
  | none =>
    ((m.updCell c fun r => { r with cur := some (x, i), loading := DecCell.loadFor r x
                                    busyFrom := some m.nowNs }).updPart x i (.running c)).cellReads c x
  | some _ =>
    (m.updCell c fun r => { r with next := some (x, i), loading := DecCell.loadFor r x }).updPart x i
      (.chosen c)

/-- The first partition of a stream's picture that waits and whose row above, where it needs one, is whole. -/
def Mach.firstWaiting (m : Mach) (x : Nat) : Option Nat :=
  ((m.strm x).cur.bind fun p => p.parts.find? fun q => q.st == .waiting && depMet p x [] q).map fun q => q.idx

/-- A cell takes the next job of a stream: the new picture's first partition, or the slice. -/
def Mach.takeJob (m : Mach) (c x : Nat) : Mach :=
  match (m.strm x).jobs with
  | [] => m
  | j :: _ =>
    let n := match (m.strm x).cur with
      | some p => p.parts.length
      | none => 0
    let m := m.decodeStart c x j
    match (m.strm x).cur with
    | some p => if p.parts.any (fun q => q.idx == n && q.st == .waiting) then m.cellTake c x n else m
    | none => m

/-- A cell may choose: enabled, and idle or with nothing chosen yet to follow. -/
def Mach.mayChoose (m : Mach) (c : Nat) : Bool :=
  m.is Fld.DECSCHED_CTRL_EN && m.decCellOn c && !m.frozen && (m.cell c).next.isNone &&
  (m.cell c).preempt.isNone && !((m.cell c).cur.isSome && (m.cell c).loading.isSome)

/-- A cell chooses. -/
def Mach.cellChoose (m : Mach) (c : Nat) (ready : List (Nat × Nat)) : Mach :=
  if !m.mayChoose c then m
  else match m.choice c ready with
    | none => m
    | some a =>
      let other := match a.part with
        | none => !a.own
        | some _ => match (m.strm a.strm).cur with
          | some p => p.taker != c
          | none => false
      let m := if other then m.count (Fld.DEC_CNT_STEAL_COUNT c) else m
      (match a.part with
      | some i => m.cellTake c a.strm i
      | none => m.takeJob c a.strm).shed

/-- A context load ends (R181). -/
def Mach.contextLoaded (m : Mach) (c : Nat) : Mach :=
  match (m.cell c).loading with
  | none => m
  | some x =>
    if m.frozen then m
    else
      let m := m.memScan (mstDec c) (m.ctxAddr x) ctxSize
      if m.frozen then m else
      let m := m.updCell c fun r => { r with loading := none, holds := some x }
      (m.count (Fld.DEC_CNT_SWITCH_COUNT c)).monSample 6 c (some 0x7F) 1500

/-! ### The end of a partition (R173, R206) -/

/-- Intervals of the last millisecond. -/
def recent (now : Nat) (l : List (Nat × Nat)) : List (Nat × Nat) :=
  l.filter fun e => decide (now < e.2 + 1000000)

/-- A cell takes a chase job of a stream: the next one where it may start, else a partition that waits of the
one in decode and whose dependency is met, where MAX_CELLS leaves room (R178, R188, R193). -/
def Mach.chaseTake (m : Mach) (c x : Nat) : Mach :=
  if !(m.decCellOn c && m.is Fld.DECSCHED_CTRL_EN && m.roomOn c x) then m
  else if ((m.strm x).jobs.head?).any fun j => j.chase && m.eligible1 x j then m.takeJob c x
  else match m.firstWaiting x with
    | some i => m.cellTake c x i
    | none => m

/-- The cell's partition has ended: it takes the chase job for which it was picked (R193), else goes on with
the partition it has chosen, or is idle. A disabled cell starts nothing, and none starts while CTRL.EN is 0
(R188): the chosen partition waits for another cell. -/
def Mach.cellNext (m : Mach) (c : Nat) : Mach :=
  let r := m.cell c
  let now := m.nowNs
  let m := m.updCell c fun k =>
    { k with cur := none, next := none, preempt := none, busyFrom := none
             busyLog := match r.busyFrom with
               | some t => recent now k.busyLog ++ [(t, now)]
               | none => k.busyLog }
  let m := match r.preempt with
    | some y => m.chaseTake c y
    | none => m
  if (m.cell c).cur.isSome then m.updCell c fun k => { k with next := r.next }
  else match r.next with
    | some (x, i) =>
      if m.decCellOn c && m.is Fld.DECSCHED_CTRL_EN then
        ((m.updCell c fun k => { k with cur := some (x, i), loading := DecCell.loadFor k x
                                        busyFrom := some now }).updPart x i (.running c)).cellReads c x
      else (m.updCell c fun k => { k with loading := none }).updPart x i .waiting
    | none => m.updCell c fun k => { k with loading := none }

/-- A part of the picture in decode is concealed (R206): `lost` are the areas that a partition lacks. -/
def Mach.concealCur (m : Mach) (x : Nat) (lost : List Area) : Mach :=
  match (m.strm x).cur with
  | none => m
  | some p =>
    ((m.put (Fld.DECSCHED_DESC_STATE_IMPAIRED p.desc) 1).put
      (Fld.DECSCHED_DESC_STATE_CONCEALED p.desc) 1).updStrm x fun s =>
        { s with cur := s.cur.map fun p =>
            { p with impaired := true, concealed := true, lost := p.lost ++ lost } }

/-- Slices of the picture in decode still wait in the queue. -/
def Mach.slicesWait (m : Mach) (x : Nat) (p : DecPic) : Bool :=
  match m.pic p.desc with
  | some q => (m.strm x).jobs.any fun j => j.slice && j.unit.id == q.unit.id
  | none => false

/-- Whether ingest has closed the unit of the chase picture in decode, and its last slice has joined it. -/
def Mach.takeClosing (m : Mach) (x : Nat) : Mach :=
  match (m.strm x).cur with
  | none => m
  | some p => match (m.pic p.desc).bind fun q =>
      (m.strm x).closing.find? fun e => e.1 == q.unit.id with
    | none => m
    | some e =>
      if m.slicesWait x p then m
      else
        let m := m.updStrm x fun s =>
          { s with closing := s.closing.filter fun k => k.1 != e.1
                   cur := s.cur.map fun p => { p with closed := true } }
        if e.2 then (m.concealCur x []).decError x 0x11 5 else m

/-- The picture in decode has finished all its partitions: it joins the DPB, and the stream's next picture
may start. -/
def Mach.picFinish (m : Mach) (x : Nat) : Mach :=
  let m := m.takeClosing x
  match (m.strm x).cur with
  | none => m
  | some p =>
    if !(p.closed && !m.slicesWait x p && p.parts.all fun q => q.st == .done) then m
    else
      let m := m.updStrm x fun s =>
        { s with cur := none, finishing := s.finishing ++ [p]
                 dpb := if p.facts.nonRef then s.dpb else s.dpb ++ [(p.facts.poc, p.desc)] }
      if p.facts.nonRef then m else m.put (Fld.DECSCHED_DESC_STATE_REF p.desc) 1

/-- The cell's partition ends as `f` reports; `front` is the decode front then. -/
def Mach.partEnd (m : Mach) (c : Nat) (front : FrontFacts) (f : Mach → Nat → Mach) : Mach :=
  let r := m.cell c
  match r.cur with
  | none => m
  | some (x, i) =>
    if r.loading = some x ∨ m.frozen = true then m
    else match (m.strm x).cur with
      | none => (m.cellNext c).shed
      | some p =>
        let m := (m.updPart x i .done).takeFront p.desc front
        let m := (f m x).count (Fld.DEC_CNT_PART_COUNT c)
        ((m.cellNext c).picFinish x).shed

/-- A partition is decoded; `lost` is what a syntax error in it leaves undecoded. -/
def Mach.partDone (m : Mach) (c : Nat) (front : FrontFacts) (lost : List Area) : Mach :=
  m.partEnd c front fun m x =>
    if lost.isEmpty then m else (m.concealCur x lost).decError x 0x0F 5

/-- A partition has occupied its cell too long; `lost` is what is left of it. -/
def Mach.partTimeout (m : Mach) (c : Nat) (front : FrontFacts) (lost : List Area) : Mach :=
  m.partEnd c front fun m x =>
    ((m.concealCur x lost).decError x 0x13 5).count (Fld.DEC_CNT_TIMEOUT_COUNT c)

/-- A picture's partitions with one cut at a boundary: the remainder becomes a partition of its own. -/
def splitPart (p : DecPic) (i samples bits : Nat) : DecPic :=
  let n := p.parts.length
  -- rows left, from the share of the samples that is left
  let left (q : DecPart) : Nat :=
    if q.samples = 0 then 0 else min q.rows ((samples * q.rows + q.samples - 1) / q.samples)
  { p with
    parts := (p.parts.map fun q =>
        if q.idx = i then { q with st := .done, rest := some n, rows := q.rows - left q } else q) ++
      ((p.parts.filter fun q => q.idx == i).map fun q =>
        { q with idx := n, work := partWork p.facts.chroma ⟨samples, bits, false, 0, 0⟩
                 samples := samples, top := q.top + q.rows - left q, rows := left q
                 follows := false, rest := none, cell := none, ended := 0, st := .waiting })
    bounds := p.bounds ++ [(i, n)] }

/-- A partition reaches a boundary at which it ends: for a chase job, or because its stream was disabled.
`samples` and `bits` are what remains of it. The cell saves the state into the stream's context. -/
def Mach.partEnded (m : Mach) (c samples bits : Nat) (front : FrontFacts) : Mach :=
  let r := m.cell c
  match r.cur with
  | none => m
  | some (x, i) =>
    if m.frozen then m
    else match (m.strm x).cur, r.preempt with
      | none, _ => (m.cellNext c).shed
      | some _, none => m
      | some p, some _ =>
        let m := (m.takeFront p.desc front).writeOpen (mstDec c) (m.ctxAddr x) ctxSize
        let m := m.updStrm x fun s => { s with cur := s.cur.map fun p => splitPart p i samples bits }
        (m.cellNext c).shed

/-! ### Filtering and writing (R183, R197 to R199, R201) -/

/-- The boundary between two partitions of a picture is filtered, once both are reconstructed with what was
cut from them (R183, R193). -/
def Mach.boundaryDone (m : Mach) (d a b : Nat) (front : FrontFacts) : Mach :=
  if m.frozen then m else
  let x := m.descStream d
  let s := m.strm x
  let hit (p : DecPic) : Bool :=
    p.desc == d && p.bounds.contains (a, b) && p.whole a && p.whole b
  let del (p : DecPic) : DecPic :=
    if hit p then
      { p with bounds := p.bounds.erase (a, b)
               filtered := ((p.boundRow a b).bind fun r => (p.filterCell a b).map fun c => (r, c)).toList ++
                 p.filtered }
    else p
  match (s.cur.toList ++ s.finishing).find? hit with
  | none => m
  | some p =>
    -- the samples that filtering changes are the filtering cell's to write
    let by' (w : CellWrites) : CellWrites := { w with cell := (p.filterCell a b).getD w.cell }
    (m.updStrm x fun s => { s with cur := s.cur.map del, finishing := s.finishing.map del }).takeFront d
      { front with writes := front.writes.map by' }

/-- Samples of block `(i, j)` of a plane. -/
def blockOf (bw width : Nat) (plane : List Nat) (i j : Nat) : List Nat :=
  (List.range 4).flatMap fun r => (plane.drop ((4 * j + r) * width + i * bw)).take bw

/-- Samples of a plane of a given size. -/
def sized (n : Nat) (l : List Nat) : List Nat := l.take n ++ List.replicate (n - l.length) 0

/-- The cell whose samples stand in a row of the cropped picture: the one that filtered the boundary below it,
for the last 8 rows above that (R183, R184), or the one that worked on it; `c` where no partition covers it. -/
def DecPic.cellAt (p : DecPic) (c row : Nat) : Nat :=
  match p.filtered.find? fun e => decide (row < e.1 ∧ e.1 ≤ row + 8) with
  | some e => e.2
  | none => ((p.parts.find? fun q => decide (q.top ≤ row ∧ row < q.top + q.rows)).bind (·.cell)).getD c

/-- The blocks `ks` of a plane, given as rows of samples, with concealed samples filled in; those that no
front has carried to memory are written, each by the cell that worked on its rows (R173, R197). -/
def Mach.writeRest (m : Mach) (c : Nat) (p : DecPic) (q : Picture) (chroma : Bool) (plane : List Nat) :
    List Nat → Mach × List (List Nat)
  | [] => (m, [])
  | k :: ks =>
    let l := m.picLayoutOf p.desc q
    let width := if chroma then l.chromaW else l.width
    let bw := blockWidth l.bytes
    let per := width / bw
    let mst := mstDec (p.cellAt c ((blockPos l q.chroma chroma k 0).2 - q.cropY))
    match p.written.find? fun w => w.chroma == chroma && w.block == k with
    | some w =>
      let r := m.writeRest c p q chroma plane ks
      (r.1, w.samples :: r.2)
    | none =>
      let s := m.concealBlock mst p q chroma k (blockOf bw width plane (k % per) (k / per))
      let r := (s.1.writeBlock mst p.desc chroma k s.2).writeRest c p q chroma plane ks
      (r.1, s.2 :: r.2)

/-- A plane's rows of samples from its blocks, `per` of them across. -/
def fromBlocks (bw per rows : Nat) (blocks : List (List Nat)) : List Nat :=
  (List.range rows).flatMap fun y => ((blocks.drop (y / 4 * per)).take per).flatMap fun s =>
    (s.drop (y % 4 * bw)).take bw

/-- The rest of a picture is written into its buffer (R197): samples as the planes hold them, padding
included. Answers the luma plane as it stands there. -/
def Mach.writePicture (m : Mach) (c : Nat) (p : DecPic) (q : Picture) (luma chroma : List Nat) :
    Mach × List Nat :=
  let l := m.picLayoutOf p.desc q
  let lh := align q.codedH 64
  let a := m.writeRest c p q false (sized (l.width * lh) luma) (List.range (l.blocks q.codedH false))
  let b := a.1.writeRest c p q true (sized (l.chromaW * l.chromaH) chroma)
    (List.range (l.blocks q.codedH true))
  (b.1, fromBlocks (blockWidth l.bytes) (l.width / blockWidth l.bytes) lh a.2)

/-- The signature of a picture (R199). -/
def pictureSig (p : Picture) (width : Nat) (luma : List Nat) : Word :=
  crc32c <| (List.range p.height).flatMap fun r =>
    ((luma.drop ((p.cropY + r) * width + p.cropX)).take p.width).flatMap fun s =>
      if p.tenBits then toLE 2 s else toLE 1 s

/-- Pace of a picture (R195): ns for each source row that became final after the first did, up to the last. In
the example of R196, slices of 135 rows that end 2.083 ms apart pace at 15.43 µs a row. -/
def paceOf (p : Picture) : Option Rat :=
  if p.height ≤ p.firstRows ∨ p.firstRows = 0 then none
  else some (((p.lastFinal - p.firstFinal : Nat) : Rat) / ((p.height - p.firstRows : Nat) : Rat))

/-- The end of a sequence after a decoded picture (R201); where pictures before it are not all written, it
acts after the last of them. -/
def Mach.endAfter (m : Mach) (x d : Nat) (before : List DecPic) : Mach :=
  match before.getLast? with
  | none => m.flushHeld x
  | some p => if p.desc = d then m.flushHeld x else m.updDecPic p.desc fun q => { q with ends := true }

/-- A picture's writes have reached memory: it joins the held set (R201). -/
def Mach.writesDrained (m : Mach) (c d : Nat) (luma chroma : List Nat) : Mach :=
  if m.frozen then m else
  let x := m.descStream d
  match (m.strm x).finishing.find? (fun p => p.desc == d && p.bounds.isEmpty), m.pic d with
  | some p, some q =>
    let before := (m.strm x).finishing.takeWhile fun p => p.desc != d
    let w := m.writePicture c p q luma chroma
    let sig := pictureSig q (m.picLayoutOf d q).width w.2
    let m := (w.1.wr (Reg.DECSCHED_DESC_SIG d) sig).sigFinal q.serial sig
    let m := m.setFront d q.height
    let m := m.updStrm x fun s =>
      { s with finishing := s.finishing.filter fun k => k.desc != d
               pace := ((m.pic d).bind paceOf) <|> s.pace }
    let m := if q.seqNo = (m.strm x).seqNo then m.holdBack x d q.poc else m.becomeReady x d
    if p.ends then m.endAfter x d before else m
  | _, _ => m

/-! ### Streams (R177, R180) -/

/-- Cells hold work of the stream, or its writes may still run. -/
def Mach.streamBusy (m : Mach) (x : Nat) : Bool :=
  m.decode.cells.any fun e => (e.2.cur.map (·.1)) == some x || (e.2.next.map (·.1)) == some x

/-- The stream is DRAINED: the descriptors it left FILLING go (R180). -/
def Mach.streamDrained (m : Mach) (x : Nat) : Mach :=
  if m.is (Fld.DECSCHED_STREAM_STATUS_DRAINED x) || m.streamBusy x then m
  else
    let m := m.put (Fld.DECSCHED_STREAM_STATUS_DRAINED x) 1
    let ds := (m.strm x).leaving
    forEach ds (m.updStrm x fun s => { s with leaving := [] }) fun m d => m.letGo d false

/-- An enable is refused (R177): `was` is the state before the write. -/
def Mach.streamConflict (m : Mach) (x : Nat) : Bool :=
  let first (y : Nat) := m.get (Fld.DECSCHED_STREAM_DESC_FIRST y)
  let count (y : Nat) := m.get (Fld.DECSCHED_STREAM_DESC_COUNT y)
  decide (16384 < first x + count x) ||
  m.decode.streams.any fun e => e.1 != x && m.streamEn e.1 &&
    (m.streamSession e.1 == m.streamSession x ||
     (decide (first e.1 < first x + count x) && decide (first x < first e.1 + count e.1)))

def Mach.streamEnable (m : Mach) (x : Nat) : Mach :=
  if m.streamConflict x then
    (m.put (Fld.DECSCHED_STREAM_CTRL_EN x) 0).put (Fld.DECSCHED_STREAM_STATUS_BIND_CONFLICT x) 1
  else
    (m.put (Fld.DECSCHED_STREAM_STATUS_STATE x) stWaitRap).updStrm x fun s =>
      { DecStream.reset with seqNo := s.seqNo + 1, prev := s.prev }

/-- A stream stops (R180): its queue, its held pictures and its references go. -/
def Mach.streamStop (m : Mach) (x : Nat) : Mach :=
  let s := m.strm x
  let left := (s.cur.toList ++ s.finishing).map (·.desc) ++ s.held.map (·.2)
  let refs := s.dpb.map (·.2)
  let m := forEach left m fun m d => m.updPic d fun p => { p with abandoned := true }
  let m := forEach refs m fun m d => m.put (Fld.DECSCHED_DESC_STATE_REF d) 0
  let m := forEach (m.descsOf x dReady) m fun m d => m.updPic d fun p => { p with stale := true }
  let m := m.updStrm x fun s =>
    { s with jobs := [], cur := none, finishing := [], held := [], dpb := [], leaving := left
             closing := [], recoverAt := none, recovering := false, skipRasl := none, pace := none }
  let m := m.updDecode fun d => { d with cells := d.cells.map fun e =>
    (e.1, { e.2 with
      next := if (e.2.next.map (·.1)) = some x then none else e.2.next
      loading := if (e.2.next.map (·.1)) = some x ∧ e.2.loading = some x then none else e.2.loading
      preempt := if e.2.preempt = some x then none else e.2.preempt }) }
  let m := (m.put (Fld.DECSCHED_STREAM_STATUS_STATE x) stStopped).put
    (Fld.DECSCHED_STREAM_STATUS_SHED_TO_RAP x) 0
  let m := m.put (Fld.DECSCHED_STREAM_STATUS_DRAINED x) 0
  if left.isEmpty && !m.streamBusy x then m.streamDrained x else m

/-- A write clears EN (R180, R189). -/
def Mach.streamDisable (m : Mach) (x : Nat) : Mach := (m.streamStop x).shed

/-- A write of STREAM_CTRL has set or cleared EN: `was` is the state before it. -/
def Mach.streamWrote (m was : Mach) (x : Nat) : Mach :=
  if was.streamEn x = m.streamEn x then m
  else if m.streamEn x then m.streamEnable x else m.streamDisable x

/-- Ingest closes a chase unit, with what its last packets brought (R159); `missing` tells that slices of it
are missing (R192). -/
def Mach.chaseClose (m : Mach) (x : Nat) (u : UnitInfo) (missing : Bool) : Mach :=
  let id := u.id
  let m := m.unitUpdate x u
  let here := (m.strm x).jobs.any (fun j => j.unit.id == id) || match (m.strm x).cur with
    | some p => (m.pic p.desc).any fun q => q.unit.id == id
    | none => false
  if !here then m
  else (m.updStrm x fun s => { s with closing := s.closing ++ [(id, missing)] }).picFinish x

/-! ### After a freeze (R376) -/

/-- One stream at the release of a freeze. -/
def Mach.decodeThaw (m : Mach) (x : Nat) : Mach :=
  let s := m.strm x
  let left := (s.cur.toList ++ s.finishing).map (·.desc) ++ s.leaving
  let m := m.flushHeld x
  let m := m.updStrm x fun s =>
    { s with jobs := [], cur := none, finishing := [], leaving := [], closing := []
             dpb := s.dpb.filter fun e => !left.contains e.2 }
  let m := forEach left m fun m d =>
    (m.updPic d fun p => { p with abandoned := true }).letGo d false
  let m := m.put (Fld.DECSCHED_STREAM_STATUS_DRAINED x) 1
  if m.streamEn x then m.put (Fld.DECSCHED_STREAM_STATUS_STATE x) stWaitRap else m

/-- Every cell stops, pictures in decode are abandoned, and held pictures become READY. -/
def Mach.fabricThaw (m : Mach) : Mach :=
  let m := m.updDecode fun d => { d with cells := d.cells.map fun e =>
    (e.1, { e.2 with cur := none, next := none, loading := none, preempt := none, busyFrom := none
                     busyLog := match e.2.busyFrom with
                       | some t => recent m.nowNs e.2.busyLog ++ [(t, m.nowNs)]
                       | none => e.2.busyLog }) }
  (forEach (m.decode.streams.map (·.1)) m Mach.decodeThaw).shed

/-! ### What reads show -/

/-- Busy time of a cell in the last millisecond, ns. -/
def Mach.busyNs (m : Mach) (c : Nat) : Nat :=
  let r := m.cell c
  let now := m.nowNs
  let spans := r.busyLog ++ match r.busyFrom with
    | some t => [(t, now)]
    | none => []
  (spans.map fun e => e.2 - max e.1 (now - 1000000)).foldl (· + ·) 0

def Mach.permille (m : Mach) (c : Nat) : Nat := min 1000 (m.busyNs c / 1000)

/-- Fabric load, %: the average of BUSY over all cells (R208). -/
def Mach.fabricLoad (m : Mach) : Nat :=
  ((List.range 64).map m.permille).foldl (· + ·) 0 / 640

/-- DECSCHED.STATUS as it reads. -/
def Mach.showDecsched (m : Mach) : Mach :=
  (m.put Fld.DECSCHED_STATUS_LOAD m.fabricLoad).put Fld.DECSCHED_STATUS_BACKLOG m.backlog

/-- A stream's status as it reads. -/
def Mach.showStream (m : Mach) (x : Nat) : Mach :=
  (m.putB (Fld.DECSCHED_STREAM_STATUS_IMPAIRED x) (m.streamImpaired x)).put
    (Fld.DECSCHED_STREAM_LAST_DESC x) ((m.newestReady x).getD 0x3FFF)

/-- A cell's status as it reads. -/
def Mach.showCell (m : Mach) (c : Nat) : Mach :=
  let r := m.cell c
  let st := if r.cur.isNone then (if m.decCellOn c then 0 else 3)
    else if r.loading.isSome && r.loading == r.cur.map (·.1) then 1 else 2
  let m := (m.put (Fld.DEC_STATUS_STATE c) st).put (Fld.DEC_STATUS_STREAM c) (r.holds.getD 0)
  let jobs := ((m.decode.streams.filter fun e => m.affinity e.1 == c).map fun e =>
    e.2.jobs.length).foldl (· + ·) 0
  let m := m.put (Fld.DEC_STATUS_QUEUE_JOBS c) (min 255 jobs)
  let m := m.put (Fld.DEC_QUEUE_WORK_WORK c) (min 0xFFFFF (m.queueWork c / 3000))
  m.put (Fld.DEC_BUSY_PERMILLE c) (m.permille c)

end Sys2Proof.Machine
end

