-- ==== Sys2Proof/Machine/IngestOps.lean ====
section
/-! DEFINITION. Stream ingest: sessions (R146 to R149), packets and units (R150 to R156), capture times and
liveness (R157 to R162), host queues (R163 to R165), relay (R167, R168) and counters (R169, R170). -/

namespace Sys2Proof.Machine

def Mach.updIngest (m : Mach) (f : Ingest → Ingest) : Mach := { m with ingest := f m.ingest }
def Mach.sess (m : Mach) (x : Nat) : Session := tabGet .reset m.ingest.sessions x
def Mach.updSess (m : Mach) (x : Nat) (f : Session → Session) : Mach :=
  m.updIngest fun i => { i with sessions := tabSet i.sessions x (f (tabGet .reset i.sessions x)) }

def Mach.sessEn (m : Mach) (x : Nat) : Bool := m.is (Fld.INGEST_SESS_CTRL_EN x)
def Mach.sessCnt (m : Mach) (x k : Nat) (n : Nat := 1) : Mach :=
  m.count (Fld.INGEST_SESS_CNT_COUNT x k) n

/-- An error of R169, with the counter it goes to, if any. -/
def Mach.ingError (m : Mach) (x code : Nat) (cnt : Option Nat) : Mach :=
  let m := m.put (Fld.INGEST_SESS_STATUS_LAST_ERR x) code
  let m := match cnt with
    | some k => m.sessCnt x k
    | none => m
  m.raiseIf (m.is (Fld.INGEST_SESS_CTRL_ERR_EVT x)) evIngErr

/-! ### Host queues (R163, R164) -/

def Mach.hqEntries (m : Mach) (q : Nat) : Nat :=
  let l := m.get (Fld.INGEST_HQ_BASE_LO_LOG2 q)
  2 ^ (if 4 ≤ l ∧ l ≤ 12 then l else 4)

def Mach.hqAddr (m : Mach) (q i : Nat) : Nat :=
  m.get (Fld.INGEST_HQ_BASE_HI_BASE_HI q) * 2 ^ 32 + m.get (Fld.INGEST_HQ_BASE_LO_BASE_LO q) * 4096 +
  i % m.hqEntries q * 2048

/-- The stamp fields of a header: seconds, ns and the visible fraction. -/
def stampBytes (t : Nat) : List Byte := toLE 6 (secOf t) ++ toLE 4 (nsOf t) ++ toLE 2 (fracOf t)

/-- A frame classed to a host queue: written as an entry, or dropped and counted. -/
def Mach.hqReceive (m : Mach) (q port session stamp : Nat) (tagged : Bool) (frame : List Byte) : Mach :=
  let drop (m : Mach) (event : Bool) : Mach :=
    (m.count (Fld.INGEST_HQ_DROP_COUNT q)).raiseIf event evHostqFull
  let n := m.hqEntries q
  let prod := m.get (Fld.INGEST_HQ_PTR_PROD q)
  if !m.is (Fld.INGEST_HQ_BASE_LO_EN q) then drop m false
  else if 2016 < frame.length ∨ (prod + 1) % n = m.get (Fld.INGEST_HQ_PTR_CONS q) % n then drop m true
  else
    let head := toLE 2 frame.length ++ [BitVec.ofNat 8 port, BitVec.ofNat 8 q,
        BitVec.ofNat 8 (m.get Fld.CHAIN_STATUS_ADDR), if tagged then 1 else 0] ++
      toLE 2 session ++ stampBytes stamp ++ toLE 12 0
    let r := m.hostWrite q (m.hqAddr q prod) (head ++ frame)
    if r.2 then r.1.put (Fld.INGEST_HQ_PTR_PROD q) ((prod + 1) % n) else drop r.1 false

/-! ### Transmit queue (R165) -/

/-- The producer pointer of HQ5 advances; the entries that the host has filled, in order, where they come with
the write. -/
def Mach.hq5Produce (m : Mach) (prod : Nat) (entries : List (List Byte)) : Mach :=
  let n := m.hqEntries 5
  let old := m.get Fld.INGEST_HQ5_PTR_PROD
  let count := (prod % n + n - old % n) % n
  let new := (List.range count).map fun i => ((old + i) % n, entries[i]?)
  let m := m.put Fld.INGEST_HQ5_PTR_PROD prod
  if m.is (Fld.INGEST_HQ_BASE_LO_EN 5) then m.updIngest fun i => { i with tx := i.tx ++ new } else m

/-- A frame padded to 64 bytes with its FCS. -/
def framed (f : List Byte) : List Byte :=
  let f := f ++ List.replicate (60 - f.length) 0
  f ++ toLE 4 (fcs f).toNat

/-- The FEC mode in use: Clause 108 acts as none at 10GBASE-R (R140). -/
def Mach.fecMode (m : Mach) (port : Nat) : Nat :=
  let f := m.get (Fld.ETH_CTRL_FEC port)
  if f = 2 ∧ m.get (Fld.ETH_CTRL_SPEED port) = 1 then 0 else f

/-- The transmit stamp of a frame (R338): `emission` is LOCAL at its emission. -/
def Mach.txStamp (m : Mach) (port emission : Nat) : Nat :=
  let lat := Config.latTx port (m.get (Fld.ETH_CTRL_SPEED port)) (m.fecMode port)
  let adj := signedOf 32 (m.get (Fld.TIME_PORT_TX_ADJ_ADJ port))
  let t := wrapTime ((emission : Int) + lat + wholeOf ((adj : Rat) * unitNs / 1000))
  t / 2 ^ 12 * 2 ^ 12

/-- The oldest transmit entry has been sent, or is refused: its stamp and flags are written back. `read` is
what host memory holds there, for an entry that did not come with the write; nothing is read or sent while host
memory cannot be reached. -/
def Mach.hq5Done (m : Mach) (emission : Nat) (read : List Byte) : Mach :=
  match m.ingest.tx with
  | [] => m
  | (i, held) :: r =>
    if !m.hostReaches then m else
    let e := held.getD read
    let len := leNat (e.take 2)
    let port := byteAt e 2
    let flags := byteAt e 5
    let refused := decide (3 < port) || decide (len < 14) || decide (2016 < len)
    let m := m.updIngest fun x => { x with tx := r }
    let m := m.put Fld.INGEST_HQ5_PTR_CONS ((i + 1) % m.hqEntries 5)
    let a := m.hqAddr 5 i
    if refused then (m.hostWrite 5 (a + 5) [BitVec.ofNat 8 (flags ||| 0xC0)]).1
    else
      let m := m.send (.eth port (framed ((e.drop 32).take len)))
      let m := if flags % 2 = 1
        then (m.hostWrite 5 (a + 8) (stampBytes (m.txStamp port emission))).1 else m
      (m.hostWrite 5 (a + 5) [BitVec.ofNat 8 (flags ||| 0x80)]).1

/-! ### Session keys (R147, R148) -/

/-- Sessions with EN = 1: only a listed SESS_CTRL can have it. -/
def Mach.sessOn (m : Mach) : List Nat :=
  m.regs.filterMap fun e =>
    if e.1 % 0x1000000 = regKey 0 0x14 0x1000 ∧ e.2.getLsbD 31 = true then some (e.1 / 0x1000000)
    else none

/-- An address from the four words of a key. -/
def Mach.keyAddr (m : Mach) (reg : Nat → Nat) (v6 : Bool) : Nat :=
  if v6 then (List.range 4).foldl (fun a k => a * 2 ^ 32 + (m.rd (reg k)).toNat) 0
  else (m.rd (reg 0)).toNat

/-- A packet matches an entry's key at a UDP port, without the SSRC (R147). -/
def Mach.keyMatches (m : Mach) (x port : Nat) (vid : Option Nat) (p : IpPacket) (udp : Nat) : Bool :=
  !m.is (Fld.INGEST_SESS_CTRL_KIND x) && m.bit (Fld.INGEST_SESS_CTRL_PORTS x) port &&
  (match vid with
   | some v => m.is (Fld.INGEST_SESS_MATCH_VLAN_EN x) && m.get (Fld.INGEST_SESS_MATCH_VID x) == v
   | none => !m.is (Fld.INGEST_SESS_MATCH_VLAN_EN x)) &&
  m.is (Fld.INGEST_SESS_CTRL_IPV6 x) == p.v6 &&
  m.keyAddr (Reg.INGEST_SESS_DST x) p.v6 == p.dst &&
  m.get (Fld.INGEST_SESS_MATCH_UDP_PORT x) == udp &&
  (!m.is (Fld.INGEST_SESS_CTRL_MATCH_SRC x) || m.keyAddr (Reg.INGEST_SESS_SRC x) p.v6 == p.src)

def Mach.ssrcMatches (m : Mach) (x : Nat) (ssrc : Word) : Bool :=
  !m.is (Fld.INGEST_SESS_CTRL_MATCH_SSRC x) || m.rd (Reg.INGEST_SESS_SSRC x) == ssrc

/-- How specific an entry is. -/
def Mach.specificity (m : Mach) (x : Nat) : Nat :=
  2 * m.get (Fld.INGEST_SESS_CTRL_MATCH_SRC x) + m.get (Fld.INGEST_SESS_CTRL_MATCH_SSRC x)

/-- The most specific of some entries, the lowest on a tie. -/
def Mach.mostSpecific (m : Mach) : List Nat → Option Nat
  | [] => none
  | x :: r => match m.mostSpecific r with
    | some y => some (if m.specificity x < m.specificity y then y else x)
    | none => some x

/-- Two entries have the same key at the same specificity and share a port. -/
def Mach.sameKey (m : Mach) (x y : Nat) : Bool :=
  let eq (f : Nat → Fld) : Bool := m.get (f x) == m.get (f y)
  let v6 := m.is (Fld.INGEST_SESS_CTRL_IPV6 x)
  eq Fld.INGEST_SESS_CTRL_MATCH_SRC && eq Fld.INGEST_SESS_CTRL_MATCH_SSRC &&
  eq Fld.INGEST_SESS_CTRL_KIND && eq Fld.INGEST_SESS_MATCH_VLAN_EN && eq Fld.INGEST_SESS_MATCH_VID &&
  eq Fld.INGEST_SESS_CTRL_IPV6 && eq Fld.INGEST_SESS_MATCH_UDP_PORT &&
  m.keyAddr (Reg.INGEST_SESS_DST x) v6 == m.keyAddr (Reg.INGEST_SESS_DST y) v6 &&
  (!m.is (Fld.INGEST_SESS_CTRL_MATCH_SRC x) ||
    m.keyAddr (Reg.INGEST_SESS_SRC x) v6 == m.keyAddr (Reg.INGEST_SESS_SRC y) v6) &&
  (!m.is (Fld.INGEST_SESS_CTRL_MATCH_SSRC x) || m.rd (Reg.INGEST_SESS_SSRC x) == m.rd (Reg.INGEST_SESS_SSRC y)) &&
  (m.get (Fld.INGEST_SESS_CTRL_PORTS x) &&& m.get (Fld.INGEST_SESS_CTRL_PORTS y)) != 0

/-! ### Units of a session -/

/-- A unit's first and last stored numbers. -/
def IngUnit.first (u : IngUnit) : Nat :=
  (u.packets.map fun p => p.seq).foldl min ((u.drops.foldl min (2 ^ 80)))
def IngUnit.last (u : IngUnit) : Nat :=
  (u.packets.map fun p => p.seq).foldl max (u.drops.foldl max 0)
def IngUnit.bytes (u : IngUnit) : Nat := (u.packets.map fun p => p.payload.length).foldl (· + ·) 0

/-- Numbers from a unit's first packet to its last that it lacks (R152, R153): not received, or dropped. -/
def IngUnit.missing (u : IngUnit) : List Nat :=
  ((List.range (u.last + 1 - u.first)).map fun i => u.first + i).filter fun n =>
    !(u.packets.any fun p => p.seq == n)

/-- The unit has no gap. -/
def IngUnit.complete (u : IngUnit) : Bool := u.missing.isEmpty

/-- Numbers of a chase session that have not been received, from what has gone to the unit's last packet
(R154). -/
def Session.gaps (s : Session) (u : IngUnit) : List Nat :=
  let a := match s.floor with
    | some f => min (f + 1) u.first
    | none => u.first
  (List.range (u.first - a)).map (fun i => a + i) ++ u.missing

/-- Two numbers of one timestamp lie in one run: none of another timestamp is known between them (R152). -/
def Session.oneRun (s : Session) (rtp : Word) (a b : Nat) : Bool :=
  let between (n : Nat) : Bool := decide (min a b < n ∧ n < max a b)
  !(s.units.any fun u => u.rtp != rtp && (u.packets.any (fun p => between p.seq) || u.drops.any between)) &&
  !(s.gone.any fun g => g.1 != rtp && between g.2)

/-- A packet belongs to a unit. -/
def Session.holds (s : Session) (rtp : Word) (n : Nat) (u : IngUnit) : Bool :=
  u.rtp == rtp && s.oneRun rtp n (min u.last (max u.first n))

/-- A packet belongs to a unit that has gone. -/
def Session.isGone (s : Session) (rtp : Word) (n : Nat) : Bool :=
  s.gone.any fun g => g.1 == rtp && s.oneRun rtp n g.2

/-- A number of a timestamp has gone; those that the window has passed are forgotten. -/
def Session.leave (s : Session) (rtp : Word) (n : Nat) : Session :=
  { s with gone := ((rtp, n) :: s.gone.filter fun g => g != (rtp, n)).filter fun g =>
      match s.high with
      | some h => decide (h < g.2 + 512)
      | none => false }

/-- A unit's last stored packet bears the marker. -/
def IngUnit.marked (u : IngUnit) : Bool := u.packets.any fun p => p.seq == u.last && p.marker

/-- A chase unit's first or last packet is missing: a gap stands before its first one though the unit before
had ended with its marker, or its last one bears no marker and the next unit does not follow on it (R154, log
entry 17). -/
def Session.endsMissing (s : Session) (u : IngUnit) : Bool :=
  (match s.floor with
   | some f => s.ended && decide (f + 1 < u.first)
   | none => false) ||
  !(u.marked || s.units.any fun v => v.first == u.last + 1)

/-- A unit goes from the session: the floor moves up where it was the front, and its timestamp is kept. -/
def Session.drop (s : Session) (u : IngUnit) (front : Bool) : Session :=
  { s with
    units := s.units.filter fun v => v.id != u.id
    floor := if front then some (max u.last (s.floor.getD 0)) else s.floor
    ended := if front then u.marked else s.ended }.leave u.rtp u.last

/-- The front unit goes; units discarded behind it lie below the floor then. -/
def Mach.dropUnit (m : Mach) (x : Nat) (u : IngUnit) : Mach :=
  m.updSess x fun s => s.drop u ((s.units.head?.map (·.id)) == some u.id)

/-- Whether a decode job still reads a unit (R149, R156). -/
def Mach.unitRead (m : Mach) (id : Nat) : Bool :=
  m.decode.streams.any fun e =>
    (e.2.jobs.any fun j => j.unit.id == id) ||
    match e.2.cur with
    | some p => (m.pic p.desc).any fun q => q.unit.id == id
    | none => false

/-- Bytes of the jitter buffer in use. -/
def Mach.bufferUsed (m : Mach) (x : Nat) : Nat :=
  let s := m.sess x
  (s.units.map IngUnit.bytes).foldl (· + ·) 0 +
  ((s.released.filter fun e => m.unitRead e.1).map (·.2)).foldl (· + ·) 0

/-- A unit is discarded with a count and a report to the fabric; of a unit whose first slices have been
released, the fabric learns that no more come (R154). -/
def Mach.discardUnit (m : Mach) (x : Nat) (u : IngUnit) : Mach :=
  let m := ((m.sessCnt x 5).dropUnit x u).decLost x
  match m.streamOf x, u.info with
  | some y, some i =>
    if u.slices.any (·.released) then m.chaseClose y { i with incomplete := true } true else m
  | _, _ => m

/-! ### Capture time and liveness at a release (R157 to R162) -/

/-- The view of a domain from LOCAL, and back, at this tick. -/
def Mach.toDom (m : Mach) (d t : Nat) : Int := (t : Int) + (m.dom d).ofs
def Mach.fromDomNs (m : Mach) (d : Nat) (ns : Int) : Int := ns * unitNs - (m.dom d).ofs

/-- The mapping pair that a unit uses, by the stamp of its first packet: the newest written by then. -/
def Session.mapFor (s : Session) (stamp : Nat) : Option MapPair :=
  s.maps.find? fun p => decide (p.since ≤ stamp)

/-- The liveness data of a unit once its packets up to a number have been read: of the packet with the lowest
number that carries a valid element, else of an SEI message (R161, R162). A bad message is reported as it is
read. -/
def Mach.unitLive (m : Mach) (x : Nat) (u : IngUnit) (upto : Nat) : Mach × Option (Bool × Liveness) :=
  let ps := u.packets.filter fun p => decide (u.readTo ≤ p.seq ∧ p.seq ≤ upto)
  let p := m.get (Fld.INGEST_SESS_CTRL_PAYLOAD x)
  let found := if m.is (Fld.INGEST_SESS_CTRL_SEI_EN x) && decide (p < 2)
    then seiLiveness (p == 1) ps else []
  let m := (found.filter Option.isNone).foldl (fun m _ => m.ingError x 0x09 (some 6)) m
  (m, match u.live, ps.findSome? (·.live) with
    | some (true, l), _ => some (true, l)
    | _, some l => some (true, l)
    | some e, none => some e
    | none, none => (found.findSome? id).map fun l => (false, l))

/-- The capture time by CT_SRC, in LOCAL units; none without a mapping. -/
def Mach.captureOf (m : Mach) (x : Nat) (u : IngUnit) (first last : Nat) : Option Int :=
  let floorNs (t : Int) : Int := t / (unitNs : Int)
  match m.get (Fld.INGEST_SESS_CTRL_CT_SRC x) with
  | 3 => some ((last : Int) - m.get (Fld.INGEST_SESS_ALLOW_NETWORK_ALLOWANCE x) * 1000 * unitNs)
  | 2 => ((m.sess x).mapFor first).map fun p =>
      let d := signedOf 32 (u.rtp - p.rtp).toNat
      m.fromDomNs p.dom ((p.time : Int) + d * 1000000000 / 90000)
  | d =>
    let n := floorNs (m.toDom d first) * 90000 / 1000000000
    let ta := n + m.get (Fld.INGEST_SESS_RTP_OFFSET_RTP_OFFSET x)
    let dist := signedOf 32 (twosOf 32 ((u.rtp.toNat : Int) - ta))
    some (m.fromDomNs d ((n + dist) * 1000000000 / 90000))

/-- What extraction gives a unit when its packets up to a number are released (R157 to R162): the source's
time is taken once, and for ARRIVAL again while packets come; what later packets of a chase unit bring is
added. -/
def Mach.extract (m : Mach) (x : Nat) (u : IngUnit) (upto : Nat) (incomplete : Bool) : Mach × IngUnit :=
  let stamps := (u.packets.filter fun p => decide (p.seq ≤ upto)).map (·.stamp)
  let first := stamps.headD m.now
  let last := stamps.foldl max 0
  let p := m.unitLive x u upto
  let m := match p.2 with
    | some l => if p.2 = u.live then p.1 else p.1.put (Fld.INGEST_SESS_STATUS_LAST_ALIVE x) (liveAlive l.2.word)
    | none => p.1
  let source := m.captureOf x u first last
  let base := match u.base with
    | some b => if m.get (Fld.INGEST_SESS_CTRL_CT_SRC x) = 3 then source else b
    | none => source
  let adj : Int := match p.2 with
    | some l => l.2.adj
    | none => 0
  let info (m : Mach) (capture : Nat) (none' future : Bool) : Mach × IngUnit :=
    (m, { u with
      readTo := upto + 1, base := some base, live := p.2
      info := some { session := x, id := u.id, rtp := u.rtp, capture := capture
                     arrival := last / unitNs, incomplete := incomplete, ctNone := none'
                     ctFuture := future, live := (p.2.map (·.2.word)).getD 0 } })
  match base, u.info with
  | none, some i => info m i.capture true false
  | none, none =>
    let m := m.ingError x 0x0B (some 6)
    info m.free.2 m.free.1.toNat true false
  | some c, old =>
    let c := c + adj * unitNs
    let limit : Int := (last : Int) + m.get Fld.INGEST_CTRL_FUTURE_TOL * 1000 * unitNs
    if limit < c then
      info (if old.any fun i => i.ctFuture then m else m.ingError x 0x0A (some 6)) (last / unitNs) false true
    else info m (wrapTime c / unitNs) false false

/-! ### Releases (R153, R154) -/

/-- A session has a decode stream that takes its units. -/
def Mach.toFabric (m : Mach) (x : Nat) (i : UnitInfo) (f : PicFacts) (slice : Bool) (last created : Nat) :
    Mach :=
  match m.streamOf x with
  | none => m
  | some y =>
    let m := (m.unitUpdate y i).decodeUnit y i f slice (m.is (Fld.INGEST_SESS_CTRL_CHASE x)) last created
    if m.unitRead i.id then m.put (Fld.INGEST_SESS_STATUS_DRAINED x) 0 else m

/-- A unit that goes to the fabric: its buffer space stays in use (R156). -/
def Mach.keepSpace (m : Mach) (x : Nat) (u : IngUnit) : Mach :=
  m.updSess x fun s =>
    { s with released := (s.released.filter fun e => m.unitRead e.1) ++ [(u.id, u.bytes)] }

/-- The front unit is released, complete or INCOMPLETE, or discarded when no packet of it is stored. -/
def Mach.releaseFront (m : Mach) (x : Nat) (f : PicFacts) (created : Nat) : Mach :=
  match (m.sess x).units with
  | [] => m
  | u :: _ =>
    let waited := (m.nowNs - u.closedAt.getD m.nowNs) / 1000
    if u.packets.isEmpty then m.discardUnit x u
    else
      let miss := u.missing
      let ok := u.complete
      let m := (m.sessCnt x (if ok then 4 else 5)).sessCnt x 1 miss.length
      let p := m.extract x u u.last (!ok)
      let m := ((p.1.dropUnit x u).keepSpace x u).monSample 4 x (some 0xFFF) waited
      match p.2.info with
      | some i => m.toFabric x i f false i.arrival created
      | none => m

/-- A unit of a session, as it now is. -/
def Mach.setUnit (m : Mach) (x : Nat) (u : IngUnit) : Mach :=
  m.updSess x fun s => { s with units := s.units.map fun w => if w.id = u.id then u else w }

/-- The number up to which slices of a unit have been released. -/
def IngUnit.sentTo (u : IngUnit) : Nat :=
  (u.slices.filter (·.released)).foldl (fun a k => max a k.last) 0

/-- A slice of the front unit goes to the fabric. -/
def Mach.releaseSlice (m : Mach) (x created : Nat) (u : IngUnit) (k : IngSlice) : Mach :=
  let p := m.extract x u k.last (u.missing.any fun n => decide (n ≤ k.last))
  let m := p.1.setUnit x { p.2 with slices := u.slices.map fun q =>
    if q.last = k.last then { q with released := true } else q }
  match p.2.info with
  | some i => m.toFabric x i k.facts true (k.stamp / unitNs) created
  | none => m

/-- Release the slices of the front unit that may go, in sequence order: a gap after what has been released,
before or within a slice, holds it back unless it is one of `waited` slices that have waited LOSS_WAIT. -/
def Mach.releaseSlices (m : Mach) (x created waited : Nat) (id : Nat) : List IngSlice → Mach
  | [] => m
  | k :: r =>
    match (m.sess x).units with
    | [] => m
    | u :: _ =>
      if u.id ≠ id then m
      else if k.released then m.releaseSlices x created waited id r
      else if ((m.sess x).gaps u).any fun n => decide (u.sentTo < n ∧ n ≤ k.last) then
        if waited = 0 then m
        else (m.releaseSlice x created u k).releaseSlices x created (waited - 1) id r
      else (m.releaseSlice x created u k).releaseSlices x created waited id r

/-- The front unit of a chase session is closed: the fabric learns that its last slice has come, with what
the unit's last packets brought, and the unit goes. -/
def Mach.closeChase (m : Mach) (x : Nat) (u : IngUnit) : Mach :=
  let miss := (m.sess x).gaps u
  let ok := u.complete && !(m.sess x).endsMissing u
  let m := (m.sessCnt x (if ok then 4 else 5)).sessCnt x 1 miss.length
  let waited := (m.nowNs - u.closedAt.getD m.nowNs) / 1000
  let p := m.extract x u u.last (!ok)
  let m := ((p.1.dropUnit x u).monSample 4 x (some 0xFFF) waited).keepSpace x u
  match m.streamOf x, p.2.info with
  | some y, some i => m.chaseClose y i (!ok)
  | _, _ => m

/-- A closed chase unit waits for nothing more: its slices have gone, and no packet after them is missing. -/
def Mach.chaseOver (m : Mach) (x : Nat) (u : IngUnit) : Bool :=
  u.slices.all (·.released) && !(u.missing.any fun n => decide (u.sentTo < n)) &&
  (u.marked || (m.sess x).units.any fun v => v.first == u.last + 1)

/-- Chase release of what has become complete (R154). `waited` tells that LOSS_WAIT is over for all that
waits behind a gap. -/
def Mach.chaseRun (m : Mach) (x created : Nat) (waited : Bool) : Nat → Mach
  | 0 => m
  | n + 1 =>
    if !m.is (Fld.INGEST_SESS_CTRL_CHASE x) then m
    else match (m.sess x).units with
      | [] => m
      | u :: _ =>
        let m := m.releaseSlices x created (if waited then u.slices.length else 0) u.id u.slices
        match (m.sess x).units with
        | [] => m
        | u :: _ =>
          if u.slices.isEmpty || u.closedAt.isNone then m
          else if m.chaseOver x u || waited then
            (m.closeChase x u).chaseRun x created waited n
          else m

def Mach.chaseAll (m : Mach) (x created : Nat) (waited : Bool) : Mach :=
  m.chaseRun x created waited ((m.sess x).units.length + 1)

/-- The front unit of a chase session has come to a release time: the first slice that waits behind a gap has
waited LOSS_WAIT, or none waits and the closed unit goes as it is. -/
def Mach.chaseDue (m : Mach) (x created : Nat) (u : IngUnit) : Mach :=
  if u.slices.all (·.released) then
    if u.closedAt.isSome then (m.closeChase x u).chaseAll x created false else m
  else (m.releaseSlices x created 1 u.id u.slices).chaseAll x created false

/-- UNIT_RELEASE: the front unit's release time is reached; in chase release also that of a slice which waits
in a unit still open. -/
def Mach.unitRelease (m : Mach) (x : Nat) (f : PicFacts) (created : Nat) : Mach :=
  if m.frozen then m
  else match (m.sess x).units with
    | [] => m
    | u :: _ =>
      if m.is (Fld.INGEST_SESS_CTRL_CHASE x) && !u.slices.isEmpty then m.chaseDue x created u
      else if u.closedAt.isNone then m
      else m.releaseFront x f created

/-! ### Packets (R150 to R156) -/

/-- Insert a packet in sequence order. -/
def insertPacket (p : IngPacket) : List IngPacket → List IngPacket
  | [] => [p]
  | q :: r => if p.seq < q.seq then p :: q :: r else q :: insertPacket p r

def insertSlice (k : IngSlice) : List IngSlice → List IngSlice
  | [] => [k]
  | q :: r => if k.last < q.last then k :: q :: r else q :: insertSlice k r

/-- Insert a unit in sequence order. -/
def insertUnit (u : IngUnit) : List IngUnit → List IngUnit
  | [] => [u]
  | v :: r => if u.first < v.first then u :: v :: r else v :: insertUnit u r

/-- Close the units that a packet of another timestamp with a higher number closes, and the one that its
marker closes (R152). -/
def closeUnits (now seq : Nat) (rtp : Word) (marker : Bool) (us : List IngUnit) : List IngUnit :=
  us.map fun u =>
    let own := u.drops.contains seq || u.packets.any fun p => p.seq == seq
    let later := us.any fun v => v.rtp != rtp && decide (seq < v.last)
    if u.closedAt.isSome then u
    else if (u.rtp ≠ rtp ∧ u.last < seq) ∨ own && (marker || later) then { u with closedAt := some now }
    else u

/-- Give a packet's unit something: the unit it belongs to, or a new one. -/
def Mach.intoUnit (m : Mach) (x n : Nat) (rtp : Word) (f : IngUnit → IngUnit) : Mach :=
  match (m.sess x).units.find? ((m.sess x).holds rtp n) with
  | some u => m.updSess x fun s => { s with units := s.units.map fun v => if v.id = u.id then f v else v }
  | none =>
    let u := f ⟨m.ingest.nextUnit, rtp, [], [], none, [], 0, none, none, none⟩
    (m.updIngest fun i => { i with nextUnit := i.nextUnit + 1 }).updSess x fun s =>
      { s with units := insertUnit u s.units }

/-- A number becomes known as received, and the window advances. -/
def Mach.noteSeq (m : Mach) (x n : Nat) : Mach :=
  m.updSess x fun s =>
    let h := max n (s.high.getD n)
    { s with high := some h, got := (n :: s.got).filter fun k => decide (h < k + 512) }

/-- Discard units until a packet fits (R156); whether it does. -/
def Mach.makeRoom (m : Mach) (x need num : Nat) (rtp : Word) : Nat → Mach × Bool
  | 0 => (m, false)
  | n + 1 =>
    if m.bufferUsed x + need ≤ m.get (Fld.INGEST_SESS_BUF_SIZE x) * 0x100000 then (m, true)
    else match (m.sess x).units.find? fun u => !(m.sess x).holds rtp num u with
      | some u => (((m.ingError x 0x08 none).discardUnit x u)).makeRoom x need num rtp n
      | none => (m, false)

/-- Where a number lies with respect to the window (R155). -/
inductive SeqPlace
  | at (n : Nat)
  | jump
  | old
  deriving DecidableEq, Repr

def seqPlace (high : Option Nat) (seq : Nat) : SeqPlace :=
  match high with
  | none => .at (0x10000 + seq)
  | some h =>
    let d := (seq + 0x10000 - h % 0x10000) % 0x10000
    if d = 0 then .at h
    else if d ≤ 512 then .at (h + d)
    else if d ≤ 0x8000 then .jump
    else if 0x10000 - d ≤ 511 then .at (h - (0x10000 - d))
    else .old

/-- At a forward jump the complete units are released in order and the others discarded (R155): the packet
of another timestamp closes the last. `fs` says what each released unit holds. -/
def Mach.jumpUnits (m : Mach) (x created : Nat) (rtp : Word) (fs : List PicFacts) : Nat → Mach
  | 0 => m
  | n + 1 => match (m.sess x).units with
    | [] => m
    | u :: _ =>
      let ok := u.complete && (u.closedAt.isSome || u.rtp != rtp) && !u.packets.isEmpty
      if ok && m.is (Fld.INGEST_SESS_CTRL_CHASE x) && !u.slices.isEmpty then
        ((m.releaseSlices x created u.slices.length u.id u.slices).closeChase x u).jumpUnits x created rtp fs n
      else if ok then
        match fs with
        | f :: fs => (m.releaseFront x f created).jumpUnits x created rtp fs n
        | [] => (m.discardUnit x u).jumpUnits x created rtp [] n
      else (m.discardUnit x u).jumpUnits x created rtp fs n

def Mach.windowJump (m : Mach) (x : Nat) (rtp : Word) (env : RxEnv) : Mach :=
  let m := m.ingError x 0x07 none
  let m := m.jumpUnits x env.created rtp env.units (m.sess x).units.length
  m.updSess x fun s => { s with high := none, got := [], floor := none, ended := false, gone := [] }

/-- The chain is being enumerated: at the head, and at a member that the enumeration has passed (R80). -/
def Mach.enumerating (m : Mach) : Bool := m.is Fld.CHAIN_STATUS_ENUM_BUSY || m.chain.enumPass

/-- A packet relayed onward (R167): the port toward the target, or the session's error. A target of the
module's own address is not deliverable (log entry 17). -/
def Mach.relayOut (m : Mach) (x stamp : Nat) (payload : List Byte) : Mach :=
  let t := m.get (Fld.INGEST_SESS_RELAY_TARGET_ADDR x)
  let own := m.get Fld.CHAIN_STATUS_ADDR
  let up := decide (t < own)
  if !m.is Fld.CHAIN_STATUS_ADDR_VALID || m.enumerating || t == own ||
      !m.portUp up || (m.isHead && decide (m.chain.routed ≤ t))
  then m.ingError x 0x0C (some 6)
  else (m.sessCnt x 7).sendRelay up
    ⟨false, x, .relay t (m.get (Fld.INGEST_SESS_RELAY_TARGET_SESSION x)) stamp payload⟩

/-- An accepted packet is forwarded where the entry relays (R167). -/
def Mach.forward (m : Mach) (x stamp : Nat) (udp : List Byte) : Mach :=
  if m.is (Fld.INGEST_SESS_CTRL_RELAY_EN x) then m.relayOut x stamp udp else m

/-- The entry only forwards: it has no buffer. -/
def Mach.onlyForwards (m : Mach) (x : Nat) : Bool :=
  m.get (Fld.INGEST_SESS_BUF_SIZE x) == 0 && m.is (Fld.INGEST_SESS_CTRL_RELAY_EN x)

/-- A packet is written to a session's jitter buffer, at a place that the spec leaves open: a free value (log
entry 17). The write is checked as INGEST's, by protection and by leases (R259); false where it is refused. -/
def Mach.bufferWrite (m : Mach) (x len : Nat) : Mach × Bool :=
  let a := m.get (Fld.INGEST_SESS_BUF_BASE x) * 0x10000
  let size := m.get (Fld.INGEST_SESS_BUF_SIZE x) * 0x100000
  let p := a + m.free.1.toNat % (size - len + 1)
  let whole := partsOf a size
  let q := if whole.all (fun u => (m.memDenied mstIngest u.1 true).isNone) && (m.leaseHit a size).isNone
    then (m.free.2, partsOf p len) else m.free.2.writeChecked mstIngest p len
  if q.2.isEmpty && len != 0 then (q.1, false)
  else
    let m := q.1.awake (if inDramParts whole then [(a, 1)] else q.2)
    if m.freezing then (m.dramEnded, false)
    else if inDramParts whole then (m.storeFree q.2, q.2.length == (partsOf p len).length)
    else (m, q.2.length == (partsOf p len).length)

/-- A packet that is dropped stays missing from its unit, which becomes INCOMPLETE. -/
def Mach.lostPacket (m : Mach) (x n : Nat) (r : RtpPacket) : Mach :=
  let m := m.intoUnit x n r.time fun u => { u with drops := u.drops ++ [n] }
  m.updSess x fun s => { s with units := closeUnits m.nowNs n r.time r.marker s.units }

/-- A packet that passed the checks of its headers and lies in the window at number `n`: dropped for its
packetization or for want of room, or accepted: forwarded (R167), and stored. A packet whose write is refused or
ended (R259, R401, R375) is dropped, and is missing from its unit. -/
def Mach.storePacket (m : Mach) (x n stamp : Nat) (r : RtpPacket) (live : Option Liveness)
    (udp : List Byte) (env : RxEnv) : Mach :=
  let now := m.nowNs
  let udpLen := udp.length
  if m.get (Fld.INGEST_SESS_CTRL_PAYLOAD x) = 3 then
    let m := m.forward x stamp udp
    if m.onlyForwards x then m else m.ingError x 0x03 (some 6)
  else if !packetizationOk (m.get (Fld.INGEST_SESS_CTRL_PAYLOAD x)) r.payload then
    let m := m.ingError x 0x03 (some 6)
    if m.onlyForwards x then m else m.lostPacket x n r
  else if m.onlyForwards x then m.forward x stamp udp
  else
    let room := m.makeRoom x udpLen n r.time ((m.sess x).units.length + 1)
    let m := room.1
    if !room.2 then
      let m := m.ingError x 0x08 none
      match (m.sess x).units.find? ((m.sess x).holds r.time n) with
      | some u => m.discardUnit x u
      | none => ((m.sessCnt x 5).updSess x fun s => s.leave r.time n).decLost x
    else
      let w := (m.forward x stamp udp).bufferWrite x udpLen
      if !w.2 then w.1.lostPacket x n r else
      let m := w.1
      let p : IngPacket := ⟨n, stamp, r.marker, live, r.payload⟩
      let m := m.intoUnit x n r.time fun u =>
        { u with packets := insertPacket p u.packets
                 slices := env.slices.foldl
                   (fun l k => insertSlice ⟨n - k.back, n, stamp, k.facts, false⟩ l) u.slices }
      let m := (m.sessCnt x 0).put (Fld.INGEST_SESS_STATUS_ACTIVE x) 1
      let m := m.monSample 3 x (some 0xFFF) env.writeNs
      let m := m.updSess x fun s => { s with units := closeUnits now n r.time r.marker s.units }
      m.chaseAll x env.created false

/-- A chase session has released a later slice of the number's unit: slices leave in sequence order (R154), so
the packet comes too late (log entry 17). -/
def Mach.chaseLate (m : Mach) (x n : Nat) (rtp : Word) : Bool :=
  m.is (Fld.INGEST_SESS_CTRL_CHASE x) &&
  ((m.sess x).units.find? ((m.sess x).holds rtp n)).any fun u => decide (n < u.sentTo)

/-- An RTP packet of a session in the window, at number `n`. -/
def Mach.windowPacket (m : Mach) (x n stamp : Nat) (r : RtpPacket) (live : Option Liveness)
    (udp : List Byte) (env : RxEnv) : Mach :=
  let s := m.sess x
  if s.isGone r.time n then
    let m := (m.ingError x 0x05 (some 2)).noteSeq x n
    m.updSess x fun s =>
      let up := s.units.all fun u => decide (n < u.first)
      { s with floor := if up then some (max n (s.floor.getD 0)) else s.floor
               ended := if up && decide (s.floor.getD 0 < n) then r.marker else s.ended }.leave r.time n
  else if s.got.contains n then m.ingError x 0x06 (some 3)
  else if m.chaseLate x n r.time then (m.ingError x 0x05 (some 2)).noteSeq x n
  else
    (m.noteSeq x n).storePacket x n stamp r live udp env

/-- A packet matched to a session (R150 to R156, R161); during a freeze none reaches the buffer (R376). -/
def Mach.sessionPacket (m : Mach) (x stamp : Nat) (udp : List Byte) (env : RxEnv) : Mach :=
  match rtpOf udp with
  | none => m.ingError x 0x01 (some 6)
  | some r =>
    if r.pt ≠ m.get (Fld.INGEST_SESS_CTRL_PT x) then m.ingError x 0x02 (some 6)
    else if m.frozen && !(m.onlyForwards x || m.get (Fld.INGEST_SESS_CTRL_PAYLOAD x) == 3) then m
    else
      let e := extLive (m.get (Fld.INGEST_SESS_CTRL_LIV_ID x)) r.ext
      let m := match e with
        | .badBlock => m.ingError x 0x04 (some 6)
        | .badElem => m.ingError x 0x09 (some 6)
        | _ => m
      let live := match e with
        | .live l => some l
        | _ => none
      let changed := !m.is (Fld.INGEST_SESS_CTRL_MATCH_SSRC x) &&
        (match (m.sess x).ssrc with
         | some q => q != r.ssrc
         | none => false)
      let m := m.updSess x fun s => { s with ssrc := some r.ssrc }
      if changed then (m.windowJump x r.time env).windowPacket x (0x10000 + r.seq) stamp r live udp env
      else match seqPlace (m.sess x).high r.seq with
        | .at n => m.windowPacket x n stamp r live udp env
        | .jump => (m.windowJump x r.time env).windowPacket x (0x10000 + r.seq) stamp r live udp env
        | .old => m.ingError x 0x05 (some 2)

/-! ### Relayed packets (R168) -/

/-- A packet stamped before the tick on which the entry's EN was last cleared: it goes with the units of that
time, uncounted (R149). -/
def Mach.sessGone (m : Mach) (x stamp : Nat) : Bool :=
  match (m.sess x).cleared with
  | some t => decide (stamp < t)
  | none => false

/-- A RELAY flit with a session packet arrives at the UP or the DOWN port. Where no module is left toward the
target, the module that drops it reports. -/
def Mach.relayPacket (m : Mach) (up : Bool) (target x stamp : Nat) (udp : List Byte) (env : RxEnv) :
    Mach :=
  if m.is Fld.CHAIN_STATUS_ADDR_VALID && m.get Fld.CHAIN_STATUS_ADDR == target then
    if m.is (Fld.INGEST_SESS_CTRL_KIND x) && m.sessGone x stamp then m
    else if m.enumerating || !m.sessEn x || !m.is (Fld.INGEST_SESS_CTRL_KIND x)
    then m.ingError x 0x0C (some 6)
    else m.sessionPacket x stamp udp env
  else if m.portUp (!up) then m.sendRelay (!up) ⟨false, x, .relay target x stamp udp⟩
  else m.ingError x 0x0C (some 6)

/-! ### Frames (R140, R143 to R145) -/

/-- The receive stamp (R338): `detected` is LOCAL at the detection instant. -/
def Mach.rxStamp (m : Mach) (port detected : Nat) : Nat :=
  let lat := Config.latRx port (m.get (Fld.ETH_CTRL_SPEED port)) (m.fecMode port)
  let adj := signedOf 32 (m.get (Fld.TIME_PORT_RX_ADJ_ADJ port))
  let t := wrapTime ((detected : Int) - lat - wholeOf ((adj : Rat) * unitNs / 1000))
  t / 2 ^ 12 * 2 ^ 12

def Mach.portMac (m : Mach) (p : Nat) : Nat :=
  m.get (Fld.ETH_MAC_HI_ADDR_HI p) * 2 ^ 32 + m.get (Fld.ETH_MAC_LO_ADDR_LO p)

/-- What a frame is classed as. -/
inductive FrameClass
  | hostQueue (q session : Nat)
  | session (x : Nat) (udp : List Byte)
  | unmatched
  | malformed
  deriving DecidableEq, Repr

/-- Entries that were enabled at a stamp: those enabled now, and those whose EN was cleared after it. -/
def Mach.sessOnAt (m : Mach) (stamp : Nat) : List Nat :=
  m.sessOn ++ (m.ingest.sessions.map (·.1)).filter fun x => m.sessGone x stamp && !m.sessEn x

/-- Rows 4 to 6 of R145 for a UDP datagram. -/
def Mach.classUdp (m : Mach) (port stamp : Nat) (vid : Option Nat) (p : IpPacket) (dst : Nat)
    (d : List Byte) : Option FrameClass :=
  let on := m.sessOnAt stamp
  let keyed := on.filter fun x => m.keyMatches x port vid p dst
  let rtcp := byteAt d 1
  match m.mostSpecific keyed with
  | some x =>
    if 200 ≤ rtcp ∧ rtcp ≤ 204 ∧ 2 ≤ d.length then some (.hostQueue 3 x)
    else
      match m.mostSpecific (keyed.filter fun x => m.ssrcMatches x (BitVec.ofNat 32 (be d 8 4))) with
      | some y => some (.session y d)
      | none => (m.mostSpecific (on.filter fun x => decide (1 ≤ dst) && m.keyMatches x port vid p (dst - 1))).map
          fun y => .hostQueue 3 y
  | none => (m.mostSpecific (on.filter fun x => decide (1 ≤ dst) && m.keyMatches x port vid p (dst - 1))).map
      fun y => .hostQueue 3 y

/-- The rows of R145 that look into IP. -/
def Mach.classIp (m : Mach) (port stamp : Nat) (vid : Option Nat) (p : IpPacket) : Option FrameClass :=
  let icmp := p.v6 && p.proto == 58
  let t := byteAt p.data 0
  if p.proto = 17 then
    match udpOf p with
    | none => some .malformed
    | some (dst, d) =>
      if dst = 319 ∨ dst = 320 then some (.hostQueue 0 0xFFFF)
      else if p.ext then none
      else m.classUdp port stamp vid p dst d
  else if icmp && decide (133 ≤ t ∧ t ≤ 137) then some (.hostQueue 1 0xFFFF)
  else if (!p.v6 && p.proto == 2) || (icmp && (t == 130 || t == 131 || t == 132 || t == 143)) then
    some (.hostQueue 2 0xFFFF)
  else none

/-- Classify a frame (R143 to R145). -/
def Mach.classify (m : Mach) (port stamp : Nat) (f : EthFrame) : FrameClass :=
  let own := f.dst == m.portMac port
  let rest : FrameClass := if own || f.dst == broadcastMac then .hostQueue 4 0xFFFF else .unmatched
  if !own && !f.group then .unmatched
  else if f.deepTag then (if own then .hostQueue 4 0xFFFF else .unmatched)
  else
    let ip (r : IpResult) : FrameClass := match r with
      | .malformed => .malformed
      | .ip p => (m.classIp port stamp f.vid p).getD rest
    if f.etherType = 0x88F7 then .hostQueue 0 0xFFFF
    else if f.etherType = 0x0806 then .hostQueue 1 0xFFFF
    else if f.etherType = 0x0800 then ip (ipv4 f.body)
    else if f.etherType = 0x86DD then ip (ipv6 f.body)
    else rest

/-- A port receives a frame, FCS included. -/
def Mach.frameArrives (m : Mach) (port detected : Nat) (bytes : List Byte) (env : RxEnv) : Mach :=
  let n := bytes.length
  let f := bytes.take (n - 4)
  if !m.is (Fld.ETH_CTRL_EN port) then m
  else if n < 64 then m.count (Fld.ETH_RX_DROP_MALFORMED port)
  else if 9216 < n then m.count (Fld.ETH_RX_DROP_LONG port)
  else if leNat (bytes.drop (n - 4)) ≠ (fcs f).toNat then m.count (Fld.ETH_RX_DROP_FCS port)
  else if be f 12 2 = 0x8808 then m.count (Fld.ETH_RX_DROP_MALFORMED port)
  else
    let e := ethFrame f
    let stamp := m.rxStamp port detected
    match m.classify port stamp e with
    | .malformed => m.count (Fld.ETH_RX_DROP_MALFORMED port)
    | .unmatched => m.count (Fld.ETH_RX_DROP_UNMATCHED port)
    | .hostQueue q x => m.hqReceive q port x stamp e.vid.isSome f
    | .session x udp => if m.sessGone x stamp then m else m.sessionPacket x stamp udp env

/-! ### Timers, enables and the mapping (R148, R149, R152, R158) -/

/-- LOSS_WAIT has passed with no packet accepted. -/
def Mach.lossWait (m : Mach) (x created : Nat) : Mach :=
  if m.frozen then m
  else
    let now := m.nowNs
    let m := m.updSess x fun s => { s with units := s.units.map fun u =>
      if u.closedAt.isSome then u else { u with closedAt := some now } }
    m.chaseAll x created true

/-- A write has set or cleared EN: `was` is the state before it. An entry that an enabled encode stream
sends through is refused like a duplicate key (R319). -/
def Mach.sessWrote (m was : Mach) (x : Nat) : Mach :=
  if was.sessEn x = m.sessEn x then m
  else if m.sessEn x then
    if (m.sessOn.any fun y => y != x && m.sameKey x y) ||
        m.encOn.any fun e => m.get (Fld.ENCSCHED_STREAM_CTRL_SESSION e) == x then
      (m.put (Fld.INGEST_SESS_CTRL_EN x) 0).put (Fld.INGEST_SESS_STATUS_KEY_CONFLICT x) 1
    else m.updSess x fun s =>
      { Session.reset with maps := s.maps, released := s.released, cleared := s.cleared }
  else m.updSess x fun s =>
    { Session.reset with maps := s.maps, released := s.released, cleared := some m.now }

/-- No decode job reads the buffer any more. -/
def Mach.sessDrained (m : Mach) (x : Nat) : Mach :=
  if (m.sess x).released.any fun e => m.unitRead e.1 then m
  else (m.put (Fld.INGEST_SESS_STATUS_DRAINED x) 1).updSess x fun s => { s with released := [] }

/-- The seconds of a domain nearest its time whose low 32 bits are given (R158). -/
def nearestSec (now ns sec : Nat) : Nat :=
  let base := now / unitSec / 2 ^ 32 * 2 ^ 32 + sec
  let cands := [base, base + 2 ^ 32] ++ (if 2 ^ 32 ≤ base then [base - 2 ^ 32] else [])
  let dist (c : Nat) : Nat := ((timeOf c ns 0 : Int) - now).natAbs
  cands.foldl (fun a c =>
    if dist c < dist a ∨ (dist c = dist a ∧ Config.nearestHigh = true ∧ a < c) then c else a) base

/-- A write of SESS_MAP_NS takes the pair, unless its ns are out of range. -/
def Mach.mapWrite (m : Mach) (x : Nat) (v : Word) : Mach :=
  let ns := bitsOf v.toNat 0 30
  if 1000000000 ≤ ns then m
  else
    let m := m.wr (Reg.INGEST_SESS_MAP_NS x) (v &&& 0xBFFFFFFF)
    let d := bitsOf v.toNat 31 1
    let sec := nearestSec (m.view (d + 1)) ns (m.get (Fld.INGEST_SESS_MAP_SEC_MAP_SEC x))
    let p : MapPair := ⟨m.rd (Reg.INGEST_SESS_MAP_RTP x), sec * 1000000000 + ns, d, m.now⟩
    (m.put (Fld.INGEST_SESS_STATUS_MAP_VALID x) 1).updSess x fun s =>
      { s with maps := p :: s.maps }

/-- The release of a DRAM freeze: unreleased units are discarded and counted, windows restart (R376). -/
def Mach.ingestThaw (m : Mach) : Mach :=
  forEach (m.ingest.sessions.map (·.1)) m fun m x =>
    (m.sessCnt x 5 (m.sess x).units.length).updSess x fun s =>
      { s with high := none, got := [], floor := none, ended := false, gone := [], units := [] }

/-! ### Ports (R142) -/

/-- A port's link changes: the recovered clock is an input of the DPLL only while it is up with BLOCK_LOCK
(R343). -/
def Mach.ethLink (m : Mach) (p : Nat) (link lock : Bool) : Mach :=
  let was := m.is (Fld.ETH_STATUS_LINK p)
  let m := ((m.putB (Fld.ETH_STATUS_LINK p) link).putB (Fld.ETH_STATUS_BLOCK_LOCK p) lock).raiseIf
    (was != link) (evEthLink p)
  if link && lock then m else m.setValid (5 + p) false

def Mach.ethSideband (m : Mach) (p : Nat) (modabs los txflt : Bool) : Mach :=
  ((m.putB (Fld.ETH_STATUS_MODABS p) modabs).putB (Fld.ETH_STATUS_LOS p) los).putB
    (Fld.ETH_STATUS_TXFLT p) txflt

end Sys2Proof.Machine
end

