-- ==== Sys2Proof/Machine/EncOps.lean ====
section
/-! DEFINITION. Re-encoding (R303 to R326): the geometry of slices, the tap of a head, enable and its checks,
pictures under the rate control, slices on cells, and packets. -/

namespace Sys2Proof.Machine

/-! ### Geometry (R306 to R309) -/

def Mach.encFld (m : Mach) (f : Nat → Fld) (e : Nat) : Nat := m.get (f e)

def Mach.encCodec (m : Mach) (e : Nat) : Nat := m.get (Fld.ENCSCHED_STREAM_CTRL_CODEC e)
def Mach.encH265 (m : Mach) (e : Nat) : Bool := decide (m.encCodec e < 2)
def Mach.encTen (m : Mach) (e : Nat) : Bool := m.encCodec e == 1
/-- Bytes of a sample in memory. -/
def Mach.encBytes (m : Mach) (e : Nat) : Nat := if m.encTen e then 2 else 1

def Mach.encScale (m : Mach) (e : Nat) : Nat := m.get (Fld.ENCSCHED_STREAM_CTRL_SCALE e) % 3
def Mach.encSrc (m : Mach) (e : Nat) : Nat := m.get (Fld.ENCSCHED_STREAM_SRC_SRC e)
def Mach.encFromStream (m : Mach) (e : Nat) : Bool := m.is (Fld.ENCSCHED_STREAM_CTRL_SRC_KIND e)

def Mach.cropX (m : Mach) (e : Nat) : Nat := m.get (Fld.ENCSCHED_STREAM_CROP_POS_CROP_X e)
def Mach.cropY (m : Mach) (e : Nat) : Nat := m.get (Fld.ENCSCHED_STREAM_CROP_POS_CROP_Y e)
def Mach.cropW (m : Mach) (e : Nat) : Nat := m.get (Fld.ENCSCHED_STREAM_CROP_SIZE_CROP_W e)
def Mach.cropH (m : Mach) (e : Nat) : Nat := m.get (Fld.ENCSCHED_STREAM_CROP_SIZE_CROP_H e)

/-- Output size, and the size rounded up to multiples of 64. -/
def Mach.encW (m : Mach) (e : Nat) : Nat := m.cropW e / 2 ^ m.encScale e
def Mach.encH (m : Mach) (e : Nat) : Nat := m.cropH e / 2 ^ m.encScale e
def Mach.encWa (m : Mach) (e : Nat) : Nat := align (m.encW e) 64
def Mach.encHa (m : Mach) (e : Nat) : Nat := align (m.encH e) 64

/-- Width of a CTU. -/
def Mach.ctu (m : Mach) (e : Nat) : Nat := if m.encH265 e then 32 else 16
def Mach.ctuCols (m : Mach) (e : Nat) : Nat := m.encWa e / m.ctu e
def Mach.ctuRows (m : Mach) (e : Nat) : Nat := m.encHa e / m.ctu e
def Mach.ctus (m : Mach) (e : Nat) : Nat := m.ctuCols e * m.ctuRows e

def Mach.sliceRows (m : Mach) (e : Nat) : Nat := max 1 (m.get (Fld.ENCSCHED_STREAM_GOP_SLICE_ROWS e))
def Mach.sliceCount (m : Mach) (e : Nat) : Nat := (m.ctuRows e + m.sliceRows e - 1) / m.sliceRows e

/-- CTUs of a slice, and the output rows that it needs from the top. -/
def Mach.sliceCtus (m : Mach) (e s : Nat) : Nat :=
  m.ctuCols e * min (m.sliceRows e) (m.ctuRows e - s * m.sliceRows e)
def Mach.sliceEnd (m : Mach) (e s : Nat) : Nat := min (m.encH e) ((s + 1) * m.sliceRows e * m.ctu e)

/-- Settings as they act. -/
def Mach.encCells (m : Mach) (e : Nat) : Nat :=
  max 1 (min 4 (m.get (Fld.ENCSCHED_STREAM_CTRL_MAX_CELLS e)))
def Mach.encDiv (m : Mach) (e : Nat) : Nat := max 1 (m.get (Fld.ENCSCHED_STREAM_CTRL_DIV e))
def Mach.encSlots (m : Mach) (e : Nat) : Nat :=
  if m.is (Fld.ENCSCHED_STREAM_GOP_SLOTS4 e) then 4
  else max 2 (m.get (Fld.ENCSCHED_STREAM_GOP_SRC_SLOTS e))

/-- The stream's region, and its source slots at the start of it (log entry 18). -/
def Mach.encBase (m : Mach) (e : Nat) : Nat := m.get (Fld.ENCSCHED_STREAM_BUF_BASE e) * 2 ^ 16
def Mach.slotBytes (m : Mach) (e : Nat) : Nat := m.encWa e * m.encHa e * 3 / 2 * m.encBytes e
def Mach.slotBase (m : Mach) (e k : Nat) : Nat := m.encBase e + k * m.slotBytes e
def Mach.ringBytes (m : Mach) (e : Nat) : Nat :=
  if m.encFromStream e then 0 else m.encSlots e * m.slotBytes e

/-- The floor cost of a CTU (R314). -/
def Mach.floorBits (m : Mach) (e : Nat) (idr : Bool) : Nat :=
  if m.encH265 e then (if idr then 24 else 2) else if idr then 12 else 1

/-! ### Sources (R305, R325) -/

/-- The crop lies within the head's raster. -/
def Mach.cropFits (m : Mach) (e h : Nat) : Bool :=
  decide (h < 20 ∧ m.cropX e + m.cropW e ≤ m.hActive h ∧ m.cropY e + m.cropH e ≤ m.vActive h)

/-- The source can give pictures. -/
def Mach.encSourceOk (m : Mach) (e : Nat) : Bool :=
  let s := m.encSrc e
  if m.encFromStream e then m.streamState s == stRunning
  else m.cropFits e s && m.is (Fld.HEAD_CTRL_EN s) && m.scanning s

/-- A source that can give none is reported (ENC_E_SRC). -/
def Mach.encWatch (m : Mach) : Mach :=
  forEach m.encOn m fun m e =>
    if m.encSourceOk e || m.is (Fld.ENCSCHED_STREAM_STATUS_SRC_IDLE e) then m
    else ((m.put (Fld.ENCSCHED_STREAM_STATUS_SRC_IDLE e) 1).put (Fld.ENCSCHED_STREAM_STATUS_STATE e)
      1).encError e 0x07

/-- The source gives a picture that meets the checks. -/
def Mach.encRuns (m : Mach) (e : Nat) : Mach :=
  (m.put (Fld.ENCSCHED_STREAM_STATUS_SRC_IDLE e) 0).put (Fld.ENCSCHED_STREAM_STATUS_STATE e) 2

/-- A frame or picture is not coded (ENC_E_DROP). -/
def Mach.encDrop (m : Mach) (e : Nat) : Mach := ((m.encCnt e 1).encError e 0x08).raise evEncDrop

/-- A capture time, LOCAL, in whole ns of the stream's domain (R320). -/
def Mach.encCapture (m : Mach) (e t : Nat) : Nat :=
  wrapTime (m.toDom (m.get (Fld.ENCSCHED_STREAM_CTRL_CT_DOM e)) t) / unitNs

def EncPic.fresh (n : Nat) (capture : Nat) : EncPic :=
  { slot := none, desc := none, capture := capture, rows := 0, given := false, live := 0
    started := false, idr := false, order := 0, cap := 0, target := 0, qpLo := 0, qpHi := 0, qpI := 0, qpP := 0
    slices := List.replicate n ⟨none, none, 0, none, []⟩, sent := 0, short := false, buf := 0, qpSum := 0 }

/-! ### The tap (R306, R318) -/

/-- The mean of a block, rounded: `k` lines, pixel `i`. -/
def blockMean (scale : Nat) (lines : List (List Nat)) (i : Nat) : Rgb :=
  let k := 2 ^ scale
  let px := lines.flatMap fun l => ((l.drop (i * k)).take k).map rgbOf
  let mean (c : Rgb → Nat) : Nat := ((px.map c).foldl (· + ·) 0 + k * k / 2) / (k * k)
  ⟨mean Rgb.r, mean Rgb.g, mean Rgb.b⟩

/-- A row of output pixels, Y, Cb and Cr, from its source lines. -/
def Mach.tapRow (m : Mach) (e h : Nat) (lines : List (List Nat)) : List Rgb :=
  (List.range (m.encW e)).map fun i =>
    let p := blockMean (m.encScale e) lines i
    if m.is (Fld.HEAD_OUT_FMT_ENC h) then p else (outMatY 5).apply p

/-- A subsampled chroma component at column `i` of two rows: the mean of the rows is exact until the
last division (log entry 18). -/
def tapChroma (c : Rgb → Nat) (a b : List Rgb) (i : Nat) : Nat :=
  let s (k : Int) : Nat :=
    let j := (clampInt 0 ((a.length : Int) - 1) k).toNat
    ((a[j]?.map c).getD 0) + ((b[j]?.map c).getD 0)
  (s (2 * i - 1) + 2 * s (2 * i) + s (2 * i + 1) + 4) / 8

/-- A sample in memory: 8 bits, or 10 bits in the high bits of 16 (P010). -/
def encSample (ten : Bool) (v : Nat) : List Byte :=
  if ten then toLE 2 (v * 64) else [BitVec.ofNat 8 (min 255 ((v + 2) / 4))]

/-- A row filled to a length by repeating its last element. -/
def padRow {α : Type} (n : Nat) (l : List α) : List α :=
  match l.getLast? with
  | some x => l ++ List.replicate (n - l.length) x
  | none => l

/-- Write two output rows to a source slot, and after the last ones the rows below (R308). -/
def Mach.tapWrite (m : Mach) (e h slot row : Nat) (a b : List Rgb) : Mach :=
  let ten := m.encTen e
  let pitch := m.encWa e * m.encBytes e
  let base := m.slotBase e slot
  let luma (l : List Rgb) : List Byte := (padRow (m.encWa e) (l.map Rgb.r)).flatMap (encSample ten)
  let pairs := (List.range (m.encW e / 2)).map fun i => (tapChroma Rgb.g a b i, tapChroma Rgb.b a b i)
  let chroma := (padRow (m.encWa e / 2) pairs).flatMap fun p => encSample ten p.1 ++ encSample ten p.2
  let put (m : Mach) (at1 : Nat) (bytes : List Byte) : Mach := m.memWrite (mstHead h) at1 bytes
  let cbase := base + pitch * m.encHa e
  let m := put m (base + row * pitch) (luma a)
  let m := put m (base + (row + 1) * pitch) (luma b)
  let m := put m (cbase + row / 2 * pitch) chroma
  if row + 2 < m.encH e then m
  else
    let m := forEach (rowsFrom (row + 2) (m.encHa e - 1)) m fun m r => put m (base + r * pitch) (luma b)
    forEach (rowsFrom (row / 2 + 1) (m.encHa e / 2 - 1)) m fun m r => put m (cbase + r * pitch) chroma

/-- Change the newest picture of a stream. -/
def Mach.updNewest (m : Mach) (e : Nat) (f : EncPic → EncPic) : Mach :=
  m.updEnc e fun s => { s with pics := match s.pics.reverse with
    | p :: r => (f p :: r).reverse
    | [] => [] }

/-- The frame that is scanned is the one that the newest picture is of, and it had an underrun line or shows the
slate (R321). -/
def Mach.tapImpaired (m : Mach) (e h : Nat) : Mach :=
  if (m.enc e).tapped == some (m.head h).frames && ((m.head h).underran || m.slated h) then
    m.updNewest e fun p => { p with live := p.live ||| 0x4000 }
  else m

/-- Take one source line into the ring. -/
def Mach.tapLine (m : Mach) (e h y : Nat) (words : List Nat) : Mach :=
  let s := m.enc e
  if !s.capturing || decide (y < m.cropY e) || decide (m.cropY e + m.cropH e ≤ y) then m
  else match s.pics.getLast? with
    | none => m
    | some p =>
      let lines := s.lines ++ [(words.drop (m.cropX e)).take (m.cropW e)]
      let k := 2 ^ m.encScale e
      if lines.length < 2 * k then m.updEnc e fun s => { s with lines := lines }
      else
        let m := m.tapWrite e h (p.slot.getD 0) p.rows (m.tapRow e h (lines.take k))
          (m.tapRow e h (lines.drop k))
        let m := (m.updEnc e fun s => { s with lines := [] }).updNewest e fun p =>
          { p with rows := p.rows + 2 }
        if p.rows + 2 < m.encH e then m else m.updEnc e fun s => { s with capturing := false }

/-- Streams that tap a head. -/
def Mach.tapsOf (m : Mach) (h : Nat) : List Nat :=
  if !m.is Fld.ENCSCHED_CTRL_EN then []
  else m.encOn.filter fun e => !m.encFromStream e && m.encSrc e == h

/-- The line in progress of a head is complete: its taps take it. -/
def Mach.tapLines (m : Mach) (h : Nat) : Mach :=
  let r := m.head h
  if r.cur.isEmpty then m
  else forEach (m.tapsOf h) m fun m e => (m.tapImpaired e h).tapLine e h r.line r.cur

/-- A picture goes: its slot is free again, its hold is released. -/
def Mach.encGone (m : Mach) (e : Nat) (p : EncPic) : Mach :=
  let m := m.updEnc e fun s => { s with free := s.free ++ p.slot.toList }
  match p.desc with
  | some d => m.dropHold d
  | none => m

/-- Line 0 of a frame: a slot is taken for a frame to be coded (R318). A frame that did not come to its
end leaves no picture behind (log entry 18). -/
def Mach.tapFrame (m : Mach) (e h : Nat) : Mach :=
  let s := m.enc e
  let m := match s.capturing, s.pics.getLast? with
    | true, some p => (m.updEnc e fun s => { s with pics := s.pics.dropLast }).encGone e p
    | _, _ => m
  let m := m.updEnc e fun s => { s with capturing := false, lines := [], tapped := none }
  if !m.encSourceOk e || ((m.head h).frames - 1) % m.encDiv e != 0 then m
  else match (m.enc e).free with
    | [] => m.encDrop e
    | k :: r =>
      let t := m.now + (m.pipeNs h).toNat * unitNs
      let p := { EncPic.fresh (m.sliceCount e) (m.encCapture e t) with slot := some k }
      let frame := (m.head h).frames
      (m.updEnc e fun s =>
        { s with free := r, capturing := true, tapped := some frame, pics := s.pics ++ [p] }).encRuns e

/-! ### The raster with its taps -/

/-- The next line of a scanning head starts. -/
def Mach.lineStarts (m : Mach) (h : Nat) (env : LineEnv) : Mach :=
  if !m.scanning h then m
  else
    let y := m.nextLine h
    let m := (((m.enterSlate h env.cut).tapLines h).endLine h).lineBody h y env
    if y = 0 then forEach (m.tapsOf h) m fun m e => m.tapFrame e h else m

/-- An accepted enable starts the head at LATCH_LINE (R269), on a DSI head with TE_SYNC at the first
edge (R300): with TE_DELAY 0 line 0 starts with it. A head that still scans from an earlier enable starts
afresh (log entry 13). -/
def Mach.headStarts (m : Mach) (h : Nat) (env : LineEnv) : Mach :=
  if !m.startDue h then m
  else
    let m := (if m.scanning h then m.headStop h else m).put (Fld.HEAD_STATUS_SCANNING h) 1
    let m := m.updHead h fun r =>
      { r with vtot := m.vTotal h, frames := 0, ppm := 0, okRun := 0, cur := [], composing := false
               wasFs := false, incomplete := false, result := none, target := none
               startAt := m.now, line := m.latchLine h }
    let m := (m.enterSlate h 0).lineBody h (m.latchLine h) env
    if m.teSync h && (m.head h).teAt == some (m.latchLine h) then
      m.lineBody h 0 { env with fronts := [] }
    else m

/-! ### Enable (R319, R323) -/

/-- Limits of a level: picture size, luma samples or macroblocks a second, and CPB, in the units of the
standards' tables (log entry 19). -/
structure LevelLimit where
  level : Nat
  size : Nat
  rate : Nat
  cpb : Nat
  deriving DecidableEq, Repr

def h265Levels : List LevelLimit :=
  [⟨153, 8912896, 534773760, 40000⟩, ⟨150, 8912896, 267386880, 25000⟩, ⟨123, 2228224, 133693440, 20000⟩,
   ⟨120, 2228224, 66846720, 12000⟩, ⟨93, 983040, 33177600, 10000⟩, ⟨90, 552960, 16588800, 6000⟩,
   ⟨63, 245760, 7372800, 3000⟩, ⟨60, 122880, 3686400, 1500⟩, ⟨30, 36864, 552960, 350⟩]

def h264Levels : List LevelLimit :=
  [⟨52, 36864, 2073600, 240000⟩, ⟨51, 36864, 983040, 240000⟩, ⟨50, 22080, 589824, 135000⟩,
   ⟨42, 8704, 522240, 62500⟩, ⟨41, 8192, 245760, 62500⟩, ⟨40, 8192, 245760, 25000⟩,
   ⟨32, 5120, 216000, 20000⟩, ⟨31, 3600, 108000, 14000⟩, ⟨30, 1620, 40500, 10000⟩,
   ⟨22, 1620, 20250, 4000⟩, ⟨21, 792, 19800, 4000⟩, ⟨20, 396, 11880, 2000⟩, ⟨13, 396, 11880, 2000⟩,
   ⟨12, 396, 6000, 1000⟩, ⟨11, 396, 3000, 500⟩, ⟨10, 99, 1485, 175⟩]

/-- Level 1b of the profiles that give it a level_idc of its own: High. -/
def h264Level1b : LevelLimit := ⟨9, 99, 1485, 350⟩

def Mach.encLevels (m : Mach) (e : Nat) : List LevelLimit :=
  if m.encH265 e then h265Levels else h264Levels ++ if m.encCodec e = 2 then [h264Level1b] else []

/-- The nominal picture interval, s (R313). -/
def Mach.encInterval (m : Mach) (e : Nat) : Rat :=
  if m.encFromStream e then
    match (m.enc e).caps with
    | a :: b :: _ => ((a - b : Nat) : Rat) / 1000000000
    | _ => 33333 / 1000000
  else
    let h := m.encSrc e
    ((m.encDiv e * m.frDen h : Nat) : Rat) / (m.frNum h : Rat)

/-- LEVEL and its limits. -/
def Mach.levelOk (m : Mach) (e : Nat) : Bool :=
  let lv := m.get (Fld.ENCSCHED_STREAM_GOP_LEVEL e)
  let h265 := m.encH265 e
  let unit := if h265 then 1 else 256
  let size := m.encWa e * m.encHa e / unit
  let side := max (m.encWa e) (m.encHa e) / (if h265 then 1 else 16)
  let rate : Rat := if m.encFromStream e then 0 else (size : Rat) / m.encInterval e
  -- CPB sizes of H.264 High count 1250 bits, of the others 1000
  let factor := if m.encCodec e = 2 then 1250 else 1000
  match (m.encLevels e).find? fun l => decide (l.level ≤ lv) with
  | none => false
  | some l =>
    decide (lv ≤ if h265 then 153 else 52) && decide (size ≤ l.size) &&
    decide (side * side ≤ 8 * l.size) && decide (rate ≤ (l.rate : Rat)) &&
    decide (m.get (Fld.ENCSCHED_STREAM_CPB_CPB_SIZE e) * 1000 ≤ l.cpb * factor)

def Mach.cpbBits (m : Mach) (e : Nat) : Nat := m.get (Fld.ENCSCHED_STREAM_CPB_CPB_SIZE e) * 1000

/-- Bits that BITRATE gives in a time in s. -/
def Mach.bitsIn (m : Mach) (e : Nat) (t : Rat) : Nat :=
  (((m.get (Fld.ENCSCHED_STREAM_RATE_BITRATE e) * 1000 : Nat) : Rat) * t).floor.toNat

/-- A stream's reference buffer `k`, 0 or 1: after the source slots (R310; log entry 18). -/
def Mach.refLayout (m : Mach) (e k : Nat) : PicLayout :=
  let l := picLayout 0 (m.encWa e) (m.encHa e) (m.encTen e) .c420
  picLayout (m.encBase e + m.ringBytes e + k * l.size) (m.encWa e) (m.encHa e) (m.encTen e) .c420

/-- The bytes a stream's region must hold (ENC_E_BUF). -/
def Mach.encNeeds (m : Mach) (e : Nat) : Nat :=
  m.ringBytes e + 2 * (m.refLayout e 0).size + 4194304 + 65536

/-- The first failing check of R323. -/
def Mach.encRefusal (m : Mach) (e : Nat) : Option Nat :=
  let s := m.get (Fld.ENCSCHED_STREAM_CTRL_SESSION e)
  let others := m.encOn.filter (· != e)
  let ports := m.get (Fld.INGEST_SESS_CTRL_PORTS s)
  let k := 2 ^ (m.encScale e + 1)
  if m.sessEn s || m.is (Fld.INGEST_SESS_CTRL_KIND s) ||
      (others.any fun o => m.get (Fld.ENCSCHED_STREAM_CTRL_SESSION o) == s) ||
      (m.encFromStream e && others.any fun o => m.encReads o (m.encSrc e)) then some 0x01
  else if ((List.range 4).filter ports.testBit).length != 1 then some 0x02
  else if !(decide (128 ≤ m.encW e ∧ m.encW e ≤ 4096) && m.encW e % 2 == 0 &&
      decide (64 ≤ m.encH e ∧ m.encH e ≤ 2176) && m.encH e % 2 == 0 && m.cropW e % k == 0 &&
      m.cropH e % k == 0 && (m.encFromStream e || m.cropFits e (m.encSrc e))) then some 0x03
  else if !m.levelOk e then some 0x04
  else if decide (m.cpbBits e < m.floorBits e true * m.ctus e) ||
      decide (((m.get (Fld.ENCSCHED_STREAM_RATE_BITRATE e) * 1000 : Nat) : Rat) * m.encInterval e <
        ((m.floorBits e false * m.ctus e : Nat) : Rat)) then some 0x05
  else if m.get (Fld.ENCSCHED_STREAM_BUF_SIZE e) * 1048576 < m.encNeeds e then some 0x06
  else none

/-- The fields that the enabling write copies (R319). -/
def Mach.encCopy (m : Mach) (s : Nat) : EncTx :=
  let v6 := m.is (Fld.INGEST_SESS_CTRL_IPV6 s)
  let ports := m.get (Fld.INGEST_SESS_CTRL_PORTS s)
  { port := ((List.range 4).find? ports.testBit).getD 0
    vid := if m.is (Fld.INGEST_SESS_MATCH_VLAN_EN s) then some (m.get (Fld.INGEST_SESS_MATCH_VID s))
      else none
    v6 := v6
    dst := m.keyAddr (Reg.INGEST_SESS_DST s) v6
    src := m.keyAddr (Reg.INGEST_SESS_SRC s) v6
    udpPort := m.get (Fld.INGEST_SESS_MATCH_UDP_PORT s)
    ssrc := m.rd (Reg.INGEST_SESS_SSRC s)
    pt := m.get (Fld.INGEST_SESS_CTRL_PT s)
    livId := m.get (Fld.INGEST_SESS_CTRL_LIV_ID s)
    rtpOffset := m.get (Fld.INGEST_SESS_RTP_OFFSET_RTP_OFFSET s) }

/-- An enable is checked: refused with its code, or the stream starts. The alive counter starts at an
open value. Packets of an earlier run that still wait go out (R324; log entry 18). -/
def Mach.encEnable (m : Mach) (e : Nat) : Mach :=
  let asked := m.updEnc e fun s => { EncStream.reset with packets := s.packets, nextAt := s.nextAt }
  match asked.encRefusal e with
  | some c =>
    ((m.put (Fld.ENCSCHED_STREAM_CTRL_EN e) 0).put (Fld.ENCSCHED_STREAM_STATUS_BIND_CONFLICT e) 1).put
      (Fld.ENCSCHED_STREAM_STATUS_LAST_ERR e) c
  | none =>
    let f := asked.free
    let m := f.2
    let tx := m.encCopy (m.get (Fld.ENCSCHED_STREAM_CTRL_SESSION e))
    let m := m.updEnc e fun s =>
      { s with
        tx := some tx
        alive := f.1.toNat % 65536
        seq := m.get (Fld.ENCSCHED_STREAM_PACE_SEQ_INIT e)
        errEvt := m.is (Fld.ENCSCHED_STREAM_CTRL_ERR_EVT e)
        pace := m.get (Fld.ENCSCHED_STREAM_PACE_PACE e)
        free := if m.encFromStream e then [] else List.range (m.encSlots e)
        waiting := if m.encFromStream e then m.newestReady (m.encSrc e) else none }
    (m.put (Fld.ENCSCHED_STREAM_STATUS_STATE e) 1).put (Fld.ENCSCHED_STREAM_STATUS_DRAINED e) 0

/-- A write clears EN (R324): what has not started is discarded, running slices end unsent, packets of
finished slices go out. -/
def Mach.encDisable (m : Mach) (e : Nat) : Mach :=
  let m := (m.enc e).pics.foldl (fun m p => m.encGone e p) m
  let m := m.updEnc e fun s =>
    { s with pics := [], capturing := false, lines := [], waiting := none }
  let m := m.updEncode fun d => { d with cells := d.cells.map fun c =>
    (c.1, if (c.2.cur.map (·.1)) = some e then { c.2 with live := false } else c.2) }
  (m.put (Fld.ENCSCHED_STREAM_STATUS_STATE e) 0).put (Fld.ENCSCHED_STREAM_STATUS_SRC_IDLE e) 0

/-- A write of STREAM_CTRL has set or cleared EN: `was` is the state before it. -/
def Mach.encWrote (m was : Mach) (e : Nat) : Mach :=
  if was.encEn e = m.encEn e then m
  else if m.encEn e then m.encEnable e else m.encDisable e

/-- A cell works for a stream. -/
def Mach.encBusy (m : Mach) (e : Nat) : Bool :=
  m.encode.cells.any fun c => (c.2.cur.map (·.1)) == some e

/-- The stream's work has ended (R324). -/
def Mach.encDrained (m : Mach) (e : Nat) : Mach :=
  if m.encEn e || m.encBusy e || !(m.enc e).packets.isEmpty then m
  else m.put (Fld.ENCSCHED_STREAM_STATUS_DRAINED e) 1

/-- A write of STREAM_CMD.FORCE_IDR. -/
def Mach.encForce (m : Mach) (e : Nat) : Mach := m.updEnc e fun s => { s with forced := true }

/-! ### Packets (R320, R321) -/

/-- Pack 16-bit words of a checksum: the complement of the folded sum. -/
def ipSum (n : Nat) : Nat := 0xFFFF - (if n = 0 then 0 else (n - 1) % 0xFFFF + 1)

/-- A UDP datagram in an IP packet; IPv6 carries a checksum, 0 sent as all ones. -/
def Mach.encIp (m : Mach) (e : Nat) (tx : EncTx) (payload : List Byte) : List Byte :=
  let sport := m.get (Fld.ENCSCHED_STREAM_DMAC_HI_SPORT e)
  let tos := m.get (Fld.ENCSCHED_STREAM_TX_DSCP e) * 4
  let ttl := m.get (Fld.ENCSCHED_STREAM_TX_TTL e)
  let len := payload.length + 8
  let ports := toBE 2 sport ++ toBE 2 tx.udpPort ++ toBE 2 len
  if tx.v6 then
    let sum := onesSum (toBE 16 tx.src ++ toBE 16 tx.dst) + 17 + len + onesSum (ports ++ payload)
    let c := ipSum sum
    toBE 4 (6 * 2 ^ 28 + tos * 2 ^ 20 + Config.flowLabel % 2 ^ 20) ++ toBE 2 len ++
      [17, BitVec.ofNat 8 ttl] ++ toBE 16 tx.src ++ toBE 16 tx.dst ++ ports ++
      toBE 2 (if c = 0 then 0xFFFF else c) ++ payload
  else
    let head (c : Nat) : List Byte :=
      [0x45, BitVec.ofNat 8 tos] ++ toBE 2 (len + 20) ++ toBE 2 0 ++ toBE 2 0x4000 ++
        [BitVec.ofNat 8 ttl, 17] ++ toBE 2 c ++ toBE 4 tx.src ++ toBE 4 tx.dst
    head (ipSum (onesSum (head 0))) ++ ports ++ toBE 2 0 ++ payload

/-- An Ethernet frame with its FCS. -/
def Mach.encFrame (m : Mach) (e : Nat) (tx : EncTx) (payload : List Byte) : List Byte :=
  let dst := m.get (Fld.ENCSCHED_STREAM_DMAC_HI_DMAC_HI e) * 2 ^ 32 +
    m.get (Fld.ENCSCHED_STREAM_DMAC_LO_DMAC_LO e)
  let src := m.get (Fld.ETH_MAC_HI_ADDR_HI tx.port) * 2 ^ 32 + m.get (Fld.ETH_MAC_LO_ADDR_LO tx.port)
  let tag : List Byte := match tx.vid with
    | some v => toBE 2 0x8100 ++ toBE 2 (Config.vlanPcp % 16 * 4096 + v)
    | none => []
  framed (toBE 6 dst ++ toBE 6 src ++ tag ++ toBE 2 (if tx.v6 then 0x86DD else 0x0800) ++
    m.encIp e tx payload)

/-- The RTP tick of a capture time, and what CAPTURE_ADJ adds to it. -/
def rtpTick (c : Nat) : Nat := c * 90000 / 1000000000
def captureAdj (c : Nat) : Nat := c - rtpTick c * 1000000000 / 90000

def EncTx.rtpTime (tx : EncTx) (c : Nat) : Word := BitVec.ofNat 32 (rtpTick c + tx.rtpOffset)

/-- The liveness element of a slice, as a header extension (R160, R321). -/
def EncTx.extension (tx : EncTx) (p : EncPic) : List Byte :=
  let w := p.live.toNat
  let impaired := bitsOf w 14 1 == 1 || p.short
  let b0 := 16 + impaired.toNat * 8 + bitsOf w 13 1 * 4 + bitsOf w 12 1 * 2
  let data := [BitVec.ofNat 8 b0, BitVec.ofNat 8 (bitsOf w 0 5)] ++ toBE 2 (bitsOf w 16 16) ++
    toBE 4 (captureAdj p.capture)
  if tx.livId = 0 then []
  else if tx.livId ≤ 14 then
    toBE 2 0xBEDE ++ toBE 2 3 ++ [BitVec.ofNat 8 (tx.livId * 16 + 7)] ++ data ++ [0, 0, 0]
  else toBE 2 0x1000 ++ toBE 2 3 ++ [BitVec.ofNat 8 tx.livId, 8] ++ data ++ [0, 0]

/-- Queue one RTP packet. -/
def Mach.encQueue (m : Mach) (e : Nat) (tx : EncTx) (capture : Nat) (marker : Bool) (ext : List Byte)
    (lastOf : Option Nat) (payload : List Byte) : Mach :=
  let seq := (m.enc e).seq
  let rtp := [BitVec.ofNat 8 (if ext.isEmpty then 0x80 else 0x90),
      BitVec.ofNat 8 (tx.pt + if marker then 128 else 0)] ++ toBE 2 seq ++
    toBE 4 (tx.rtpTime capture).toNat ++ toBE 4 tx.ssrc.toNat ++ ext ++ payload
  let pkt : EncPacket := ⟨tx.port, m.encFrame e tx rtp, lastOf⟩
  m.updEnc e fun s => { s with seq := (seq + 1) % 65536, packets := s.packets ++ [pkt] }

/-- Parameter sets and SEI messages in one AP or STAP-A packet. -/
def aggregate (h265 : Bool) (nals : List (List Byte)) : List Byte :=
  let hdr : List Byte :=
    if h265 then [0x60, 0x01]
    else [BitVec.ofNat 8 (24 + 32 * (nals.map fun n => byteAt n 0 / 32 % 4).foldl max 0)]
  hdr ++ nals.flatMap fun n => toBE 2 n.length ++ n

/-- Header bytes of a fragment. -/
def fuHeader (h265 : Bool) (nal : List Byte) (first last : Bool) : List Byte :=
  let se := first.toNat * 128 + last.toNat * 64
  if h265 then
    [BitVec.ofNat 8 (byteAt nal 0 / 128 * 128 + 49 * 2 + byteAt nal 0 % 2), nal.getD 1 0,
     BitVec.ofNat 8 (se + byteAt nal 0 / 2 % 64)]
  else [BitVec.ofNat 8 (byteAt nal 0 / 32 * 32 + 28), BitVec.ofNat 8 (se + byteAt nal 0 % 32)]

/-- The fragments of a NAL unit's body: each as full as its packet allows (log entry 18). -/
def fragments (first rest : Nat) : Nat → List Byte → List (List Byte)
  | 0, _ => []
  | n + 1, l =>
    if l.length ≤ first then [l]
    else l.take first :: fragments rest rest n (l.drop first)

/-- The RTP payload that fits in an IP packet of MTU bytes. -/
def Mach.encRoom (m : Mach) (e : Nat) (tx : EncTx) : Nat :=
  m.get (Fld.ENCSCHED_STREAM_TX_MTU e) - ((if tx.v6 then 40 else 20) + 20)

/-- Packetise a NAL unit: one packet where it fits, else fragments (R320). -/
def Mach.encNal (m : Mach) (e : Nat) (tx : EncTx) (capture : Nat) (closes : Bool) (ext : List Byte)
    (ready : Option Nat) (nal : List Byte) : Mach :=
  let h265 := m.encH265 e
  let room := m.encRoom e tx
  if nal.length + ext.length ≤ room then m.encQueue e tx capture closes ext ready nal
  else
    let hdr := if h265 then 3 else 2
    let parts := fragments (max 1 (room - ext.length - hdr)) (max 1 (room - hdr)) nal.length
      (nal.drop (hdr - 1))
    let n := parts.length
    parts.zipIdx.foldl (fun m q =>
      let last := q.2 + 1 == n
      m.encQueue e tx capture (closes && last) (if q.2 = 0 then ext else [])
        (if last then ready else none) (fuHeader h265 nal (q.2 == 0) last ++ q.1)) m

/-- Packetise a slice. -/
def Mach.encSlicePackets (m : Mach) (e : Nat) (tx : EncTx) (p : EncPic) (sl : EncSlice) (closes : Bool) :
    Mach :=
  m.encNal e tx p.capture closes (tx.extension p) (some (sl.readyAt.getD 0)) sl.nal

/-- Parameter sets and SEI messages go together, where one packet of MTU bytes holds them, else each by itself
(R320; log entry 18). -/
def Mach.encHeads (m : Mach) (e : Nat) (tx : EncTx) (capture : Nat) (nals : List (List Byte)) : Mach :=
  let all := aggregate (m.encH265 e) nals
  if all.length ≤ m.encRoom e tx then m.encQueue e tx capture false [] none all
  else nals.foldl (fun m n => m.encNal e tx capture false [] none n) m

/-! ### What the coded units say (R308 to R312) -/

/-- The format of a stream; `opens` gives what the spec leaves open in its parameter sets. -/
def Mach.encFormat (m : Mach) (e : Nat) (opens : List Nat) : EncFormat :=
  { h265 := m.encH265 e
    profile := match m.encCodec e with
      | 0 => 1
      | 1 => 2
      | 2 => 100
      | _ => 66
    -- constraint_set0 and constraint_set1 of Constrained Baseline
    constraints := if m.encCodec e = 3 then 0xC0 else 0
    level := m.get (Fld.ENCSCHED_STREAM_GOP_LEVEL e)
    tenBits := m.encTen e
    width := m.encWa e, height := m.encHa e
    right := m.encWa e - m.encW e, bottom := m.encHa e - m.encH e
    bitRate := m.get (Fld.ENCSCHED_STREAM_RATE_BITRATE e) * 1000
    cpbSize := m.cpbBits e
    orderBits := opens.getD 0 0 % 13, initQp := opens.getD 1 0 % 52 }

/-- The SEI messages of a picture (R312): on IDR pictures buffering period, by the fullness before the picture is
removed, then picture timing, by the RTP time since the last IDR picture; `opens` gives the delays that the spec
leaves open. -/
def EncFormat.seis (f : EncFormat) (full : Nat) (rtp : Word) (last : Option Word) (idr : Bool)
    (opens : List Nat) : List (List Byte) :=
  let ticks := match last with
    | some t => (rtp - t).toNat
    | none => 0
  (if idr then [f.bufferingPeriod full (opens.getD 1 0)] else []) ++
    [f.pictureTiming ticks (opens.getD 0 0)]

/-- A frame of HQ5 goes before an encode packet of a port (R165): one for that port, and one that is still to
be read from host memory. -/
def Mach.hq5First (m : Mach) (port : Nat) : Bool :=
  m.ingest.tx.any fun t => match t.2 with
    | some e => byteAt e 2 == port
    | none => m.hostReaches

/-- A packet leaves its port, after the frames of HQ5 that wait for it and no faster than PACE (R322). -/
def Mach.encSend (m : Mach) (e : Nat) : Mach :=
  match (m.enc e).packets with
  | [] => m
  | p :: r =>
    if m.frozen || m.hq5First p.port || decide (m.nowNs < (m.enc e).nextAt) then m
    else
      let pace := (m.enc e).pace
      let next := if pace = 0 then 0 else m.nowNs + (p.frame.length * 8000 + pace - 1) / pace
      let m := m.updEnc e fun s => { s with packets := r, nextAt := next }
      if m.is (Fld.ETH_STATUS_LINK p.port) then
        let m := (m.send (.eth p.port p.frame)).encCnt e 4
        match p.lastOf with
        | some t => m.monSample 10 e (some 0x1F) ((m.nowNs - t) / 1000)
        | none => m
      else (m.encCnt e 6).encError e 0x09

/-! ### Pictures (R311 to R315) -/

/-- Slices of a HEAD source become ready as their rows come into the ring: the next one that is not. -/
def Mach.encSliceReady (m : Mach) (e : Nat) : Mach :=
  let mark (n : Nat) : Nat → List EncSlice → Option (List EncSlice)
    | _, [] => none
    | rows, l =>
      let i := (l.takeWhile fun s => s.readyAt.isSome).length
      if i < l.length ∧ m.sliceEnd e i ≤ rows then
        some (l.zipIdx.map fun q => if q.2 = i then { q.1 with readyAt := some n } else q.1)
      else none
  let rec go : List EncPic → List EncPic
    | [] => []
    | p :: r => match mark m.nowNs p.rows p.slices with
      | some l => { p with slices := l } :: r
      | none => p :: go r
  if m.encEn e && !m.frozen then m.updEnc e fun s => { s with pics := go s.pics } else m

/-- The picture of a STREAM source that waits to be coded, as a picture of the encode stream. -/
def Mach.encTake (m : Mach) (e : Nat) : Option EncPic :=
  match (m.enc e).waiting with
  | none => none
  | some d =>
    if m.descState d ≠ dReady then none
    else (m.pic d).map fun q =>
      let live := m.rd (Reg.DECSCHED_DESC_LIVE d)
      let bad := m.is (Fld.DECSCHED_DESC_STATE_IMPAIRED d) || live.getLsbD 14
      let keep : Word := if livePresent live then live &&& 0xFFFF301F else 16
      let p := EncPic.fresh (m.sliceCount e) (m.encCapture e (q.unit.capture * unitNs))
      { p with
        desc := some d
        rows := m.encH e
        given := livePresent live
        live := keep ||| if bad then 0x4000 else 0
        slices := p.slices.map fun s => { s with readyAt := some m.nowNs } }

/-- The picture that can start: the oldest captured one, or the newest READY one, once nothing before it
is in coding. -/
def Mach.encNext (m : Mach) (e : Nat) : Option EncPic :=
  match (m.enc e).pics with
  | [] => if m.encFromStream e && m.encSourceOk e then m.encTake e else none
  | p :: _ => if !p.started && (p.slices.head?.any fun s => s.readyAt.isSome) then some p else none

/-- Ticks of 90 kHz between two RTP timestamps, as seconds. -/
def rtpSeconds (a b : Word) : Rat := ((b - a).toNat : Rat) / 90000

/-- Fullness before a picture is removed (R312). -/
def Mach.encFullness (m : Mach) (e : Nat) (s : EncStream) (rtp : Word) : Nat :=
  match s.coded, s.forced, s.lastRtp with
  | _ + 1, false, some last => min (m.cpbBits e) (s.fullness + m.bitsIn e (rtpSeconds last rtp))
  | _, _, _ => m.cpbBits e

/-- Target and cap of a picture (R313). -/
def Mach.encCap (m : Mach) (e : Nat) (s : EncStream) (full : Nat) (idr : Bool) : Nat × Nat :=
  let floor := m.floorBits e idr * m.ctus e
  let tn := m.bitsIn e (m.encInterval e * if idr then 4 else 1)
  let t := max (tn - s.carry) floor
  if m.is (Fld.ENCSCHED_STREAM_RC_MODE e) then
    (t, min full (max 4 (m.get (Fld.ENCSCHED_STREAM_RATE_CAP e)) * t / 4))
  else (0, full)

/-- The next picture is due as an IDR picture (R311). -/
def Mach.encIdrDue (m : Mach) (e : Nat) (s : EncStream) : Bool :=
  let n := m.get (Fld.ENCSCHED_STREAM_IDR_IDR_INTERVAL e)
  s.coded == 0 || s.forced || s.due || (n != 0 && s.coded % n == 0)

/-- Change the oldest picture of a stream. -/
def Mach.updOldest (m : Mach) (e : Nat) (f : EncPic → EncPic) : Mach :=
  m.updEnc e fun s => { s with pics := match s.pics with
    | p :: r => f p :: r
    | [] => [] }

/-- A picture starts with its cap and target, and with the LIVE fields of its stream as they stand (R323); an IDR picture's parameter sets (R311) and the SEI messages
(R312) go before its slices. -/
def Mach.encBegin (m : Mach) (e : Nat) (p : EncPic) (tx : EncTx) (full : Nat) (idr : Bool)
    (sets seis : List Nat) : Mach :=
  let s := m.enc e
  let ct := m.encCap e s full idr
  let hi := m.get (Fld.ENCSCHED_STREAM_RC_QP_MAX e)
  let alive := if p.given then s.alive else (s.alive + 1) % 65536
  let live : Word := if p.given then p.live
    else BitVec.ofNat 32 (alive * 65536 + p.live.toNat % 32768 / 32 * 32 + 16)
  let rtp := tx.rtpTime p.capture
  let opens := if idr then sets else s.opens
  let f := m.encFormat e opens
  let p := { p with
    started := true, idr := idr, order := if idr then 0 else s.coded - s.idrAt, buf := s.coded % 2, target := ct.1, cap := ct.2, live := live
    qpHi := hi, qpLo := min hi (m.get (Fld.ENCSCHED_STREAM_RC_QP_MIN e))
    qpI := m.get (Fld.ENCSCHED_STREAM_RC_QP_I e), qpP := m.get (Fld.ENCSCHED_STREAM_RC_QP_P e) }
  let m := if idr then m else m.updEnc e fun s => { s with due := m.encIdrDue e s }
  let m := m.updEnc e fun s =>
    { s with
      pics := p :: s.pics.drop 1
      coded := s.coded + 1
      idrAt := if idr then s.coded else s.idrAt
      idrRtp := if idr then some rtp else s.idrRtp
      opens := opens
      errEvt := m.is (Fld.ENCSCHED_STREAM_CTRL_ERR_EVT e)
      pace := m.get (Fld.ENCSCHED_STREAM_PACE_PACE e)
      forced := s.forced && !idr
      due := s.due && !idr
      alive := alive
      fullness := full
      lastRtp := some rtp
      caps := [p.capture] ++ s.caps.take 1
      waiting := if p.desc.isSome then none else s.waiting }
  let m := match p.desc with
    | some d => (m.takeHold d).encRuns e
    | none => m
  m.encHeads e tx p.capture
    ((if idr then f.sets else []) ++ f.seis full rtp s.idrRtp idr seis)

/-- The next picture of a stream: started, as an IDR picture where one is due and fits, or dropped. -/
def Mach.encPicture (m : Mach) (e : Nat) (sets seis : List Nat) : Mach :=
  match m.encNext e, (m.enc e).tx with
  | some p, some tx =>
    if !m.encEn e || !m.is Fld.ENCSCHED_CTRL_EN || m.frozen then m
    else
      let s := m.enc e
      let full := m.encFullness e s (tx.rtpTime p.capture)
      let fits (m : Mach) (idr : Bool) : Bool :=
        decide (m.floorBits e idr * m.ctus e ≤ (m.encCap e s full idr).2)
      let due := m.encIdrDue e s
      if due && fits m true then m.encBegin e p tx full true sets seis
      else
        let m := if due then (m.encCnt e 7).updEnc e fun s => { s with due := true } else m
        if fits m false then m.encBegin e p tx full false sets seis
        else
          let m := m.encDrop e
          if p.desc.isSome then m.updEnc e fun s => { s with waiting := none }
          else
            let last := decide ((m.enc e).pics.length ≤ 1)
            let m := m.updEnc e fun s =>
              { s with pics := s.pics.drop 1, capturing := s.capturing && !last }
            m.encGone e p
  | _, _ => m

/-! ### Slices (R304, R316) -/

/-- The slice of a stream that may start next: its number and when it became ready. -/
def Mach.encReadySlice (m : Mach) (e : Nat) : Option (Nat × Nat) :=
  match (m.enc e).pics with
  | p :: _ =>
    let i := (p.slices.takeWhile fun s => s.cell.isSome).length
    let running := (p.slices.filter fun s => s.cell.isSome && s.bits.isNone).length
    if !p.started || decide (m.encCells e ≤ running) then none
    else match p.slices[i]? with
      | some s => s.readyAt.map fun t => (i, t)
      | none => none
  | [] => none

/-- The slice that became ready earliest among all streams, the lower stream on a tie. -/
def Mach.earliestSlice (m : Mach) : List Nat → Option (Nat × Nat × Nat)
  | [] => none
  | e :: r => match m.encReadySlice e, m.earliestSlice r with
    | some q, some b => if b.2.2 < q.2 then some b else some (e, q)
    | some q, none => some (e, q)
    | none, b => b

/-- The allotment of a slice (R316). -/
def Mach.allotment (m : Mach) (e : Nat) (p : EncPic) (s : Nat) : Nat :=
  let f := m.floorBits e p.idr
  let c := (p.slices.map fun q => match q.bits with
    | some b => b
    | none => q.allot).foldl (· + ·) 0
  let after := ((rowsFrom (s + 1) (m.sliceCount e - 1)).map (m.sliceCtus e)).foldl (· + ·) 0
  f * m.sliceCtus e s + (p.cap - c - f * (m.sliceCtus e s + after)) / m.encCells e

/-- A free cell takes a slice. -/
def Mach.encSliceStart (m : Mach) (c : Nat) : Mach :=
  if m.frozen || !m.is Fld.ENCSCHED_CTRL_EN || !m.is (Fld.ENC_CTRL_EN c) || (m.encCell c).cur.isSome then m
  else match m.earliestSlice m.encOn with
    | none => m
    | some (e, i, _) => match (m.enc e).pics with
      | [] => m
      | p :: _ =>
        let a := m.allotment e p i
        let m := m.updOldest e fun p => { p with slices := p.slices.zipIdx.map fun q =>
          if q.2 = i then { q.1 with cell := some c, allot := a } else q.1 }
        let switch := (m.encCell c).holds.any (· != e)
        let m := if switch then m.count (Fld.ENC_CNT_SWITCH_COUNT c) else m
        let now := m.nowNs
        m.updEncCell c fun r =>
          { r with cur := some (e, i), live := true, holds := some e, busyFrom := some now
                   loadUntil := if switch then now + 1500 else 0 }

/-- Code the CTUs of a slice within its allotment (R316): bits used, CTUs in skip-floor mode at its end, and
the CTUs before them, coded normally. -/
def codeCtus (f allot used : Nat) : List CtuCode → Nat × Nat × List CtuCode
  | [] => (used, 0, [])
  | c :: r =>
    if allot < used + c.bits + f * r.length then (used + f * (r.length + 1), r.length + 1, [])
    else
      let t := codeCtus f allot (used + c.bits) r
      (t.1, t.2.1, c :: t.2.2)

/-- How a CTU of a picture is coded (R314): normally, as skip (merge index 0; P_Skip), or intra with DC
prediction and DC-only residual. -/
inductive CtuForm
  | normal (intra : Bool) (qp : Nat) (vectors : List (Int × Int))
  | skip
  | dcOnly (qp : Nat)
  deriving DecidableEq, Repr

def CtuForm.content : CtuForm → List Nat
  | .normal intra qp vs => [0, intra.toNat, qp, vs.length] ++ vs.flatMap fun v => [twosOf 16 v.1, twosOf 16 v.2]
  | .skip => [1]
  | .dcOnly qp => [2, qp]

/-- The QP of a coded CTU (R313). -/
def Mach.encQp (m : Mach) (e : Nat) (p : EncPic) (q : Nat) : Nat :=
  if m.is (Fld.ENCSCHED_STREAM_RC_MODE e) then max p.qpLo (min p.qpHi q)
  else if p.idr then p.qpI else p.qpP

/-- The CTUs of a slice as they are coded: `t` as `codeCtus` gives it. -/
def Mach.ctuForms (m : Mach) (e : Nat) (p : EncPic) (t : Nat × Nat × List CtuCode) : List CtuForm :=
  (t.2.2.map fun c => CtuForm.normal (p.idr || c.vectors.isEmpty) (m.encQp e p c.qp)
    (if p.idr then [] else c.vectors)) ++
  List.replicate t.2.1 (if p.idr then .dcOnly p.qpHi else .skip)

/-! ### What a cell reads and writes (R306 to R308, R310) -/

/-- The rounded mean of `k` × `l` samples. -/
def meanOf (k l : Nat) (get : Nat → Nat → Nat) (x y : Nat) : Nat :=
  let s := (List.range k).flatMap fun i => (List.range l).map fun j => get (x + i) (y + j)
  (s.foldl (· + ·) 0 + k * l / 2) / (k * l)

/-- A 10-bit value at the stream's bit depth (R306). -/
def encReduce (ten : Bool) (v : Nat) : Nat := if ten then v else min 255 ((v + 2) / 4)

/-- Output rows of a slice, of luma or of chroma: rows beyond the output repeat its last one (R308). -/
def Mach.sliceSpan (m : Mach) (e s : Nat) (chroma : Bool) : List Nat :=
  let rows := m.sliceRows e * m.ctu e
  let a := s * rows
  let b := min (m.encHa e) (a + rows)
  if chroma then rowsFrom (a / 2) (b / 2 - 1) else rowsFrom a (b - 1)

/-- The samples that a cell codes of a picture in a source slot: rows of luma, then of chroma (R306). -/
def Mach.ringSource (m : Mach) (e c slot s : Nat) : Mach × List (List Nat) :=
  let b := m.encBytes e
  let pitch := m.encWa e * b
  let base := m.slotBase e slot
  let row (bytes : List Byte) : List Nat :=
    (List.range (m.encWa e)).map fun i => leNat ((bytes.drop (i * b)).take b) / sampleUnit b
  let read (r : Mach × List (List Nat)) (a : Nat) : Mach × List (List Nat) :=
    let q := r.1.memRead (mstEnc c) a pitch
    (q.1, r.2 ++ [row q.2])
  let l := (m.sliceSpan e s false).foldl (fun r y => read r (base + y * pitch)) (m, [])
  (m.sliceSpan e s true).foldl (fun r y => read r (base + pitch * m.encHa e + y * pitch)) l

/-- The samples that a cell codes of a decoded picture: crop, downscale, 4:2:0 and reduction as R306, black
outside the picture (R307; log entry 18). -/
def Mach.streamRows (m : Mach) (e c d s : Nat) (q : Picture) : Mach × List (List Nat) :=
  let l := m.picLayoutOf d q
  let k := 2 ^ m.encScale e
  let x0 := m.cropX e
  let hw := halfW q.chroma
  let hh := halfH q.chroma
  let ys := (m.sliceSpan e s false).map fun y => min y (m.encH e - 1)
  let cs := (m.sliceSpan e s true).map fun y => min y (m.encH e / 2 - 1)
  let rows := (rowsFrom (m.cropY e + ys.headD 0 * k) (m.cropY e + ys.getLastD 0 * k + k - 1)).filter fun y =>
    decide (y < q.height)
  let x1 := min (x0 + m.cropW e) q.width
  let cRow (y : Nat) : Nat := if hh then (y + q.cropY) / 2 else y + q.cropY
  let cCol (x : Nat) : Nat := if hw then (x + q.cropX) / 2 else x + q.cropX
  let empty := decide (x1 ≤ x0) || rows.isEmpty
  let a := if empty then (m, Fetched.mk [] false)
    else m.fetchPlane (mstEnc c) l.base l.header l.bytes l.width false (q.cropX + x0) (x1 - x0)
      (rows.map fun y => y + q.cropY)
  let b := if empty then (a.1, Fetched.mk [] false)
    else a.1.fetchPlane (mstEnc c) l.chromaBase l.chromaHeader l.bytes l.chromaW true (2 * cCol x0)
      (2 * (cCol (x1 - 1) + 1 - cCol x0)) (rows.map cRow).dedup
  let luma (x y : Nat) : Nat :=
    if x < q.width ∧ y < q.height then sample10 q.tenBits (a.2.at (q.cropX + x0) (q.cropX + x) (q.cropY + y))
    else 64
  let chroma (n x y : Nat) : Nat :=
    if x < q.width ∧ y < q.height then
      sample10 q.tenBits (b.2.at (2 * cCol x0) (2 * cCol x + n) (cRow y))
    else 512
  let ten := m.encTen e
  let lumaRow (y : Nat) : List Nat := padRow (m.encWa e) ((List.range (m.encW e)).map fun x =>
    encReduce ten (meanOf k k luma (x0 + x * k) (m.cropY e + y * k)))
  -- chroma of an output row, at full width for a 4:4:4 picture, else at half
  let wide (n y : Nat) : List Nat := (List.range (m.encW e)).map fun x =>
    meanOf k k (chroma n) (x0 + x * k) (m.cropY e + y * k)
  let narrow (n x y : Nat) : Nat :=
    -- one chroma sample for two luma columns, and for two luma rows of a 4:2:0 picture
    meanOf k (if hh then k else 2 * k) (fun i j => chroma n (2 * i) (if hh then 2 * j else j))
      (x0 / 2 + x * k) (if hh then m.cropY e / 2 + y * k else m.cropY e + 2 * y * k)
  let pair (n x y : Nat) : Nat :=
    if hw then narrow n x y
    else
      let rgb (l : List Nat) : List Rgb := l.map fun v => ⟨v, v, v⟩
      tapChroma Rgb.g (rgb (wide n (2 * y))) (rgb (wide n (2 * y + 1))) x
  let chromaRow (y : Nat) : List Nat :=
    (padRow (m.encWa e / 2) ((List.range (m.encW e / 2)).map fun x =>
      (encReduce ten (pair 0 x y), encReduce ten (pair 1 x y)))).flatMap fun p => [p.1, p.2]
  (b.1, ys.map lumaRow ++ cs.map chromaRow)

/-- The samples that a cell codes (R306, R307). -/
def Mach.encRead (m : Mach) (e c : Nat) (p : EncPic) (s : Nat) : Mach × List (List Nat) :=
  match p.slot, p.desc with
  | some k, _ => m.ringSource e c k s
  | none, some d => match m.pic d with
    | some q => m.streamRows e c d s q
    | none => (m, [])
  | none, none => (m, [])

/-- The reference picture's rows in the search window of a slice of a P picture (R310). -/
def Mach.encRefRead (m : Mach) (e c : Nat) (p : EncPic) (s : Nat) : Mach × List (List Nat) :=
  if p.idr then (m, [])
  else
    let l := m.refLayout e (1 - p.buf)
    let span := m.sliceSpan e s false
    let a := span.headD 0 - 96
    let b := min (m.encHa e - 1) (span.getLastD 0 + 96)
    let y := m.fetchPlane (mstEnc c) l.base l.header l.bytes l.width false 0 l.width (rowsFrom a b)
    let u := y.1.fetchPlane (mstEnc c) l.chromaBase l.chromaHeader l.bytes l.chromaW true 0 l.chromaW
      (rowsFrom (a / 2) (b / 2))
    (u.1, (y.2.rows ++ u.2.rows).map (·.2))

/-- Write rows of a reference plane from row `y0` in the layout of R197 and R198: samples by rows. -/
def Mach.writeRef (m : Mach) (mst : Nat) (l : PicLayout) (chroma : Bool) (y0 rows : Nat)
    (samples : List Nat) : Mach :=
  let width := if chroma then l.chromaW else l.width
  let bw := blockWidth l.bytes
  let per := width / bw
  let k0 := y0 / 4 * per
  let plane := sized (width * rows) samples
  let coded := (List.range (per * (rows / 4))).map fun i =>
    compressBlock l.bytes chroma (blockOf bw width plane (i % per) (i / per))
  let m := coded.zipIdx.foldl (fun m e =>
    m.memWrite mst ((if chroma then l.chromaBase else l.base) + (k0 + e.2) * 128) e.1.2) m
  forEach (List.range ((coded.length + 3) / 4)) m fun m i =>
    m.memWrite mst ((if chroma then l.chromaHeader else l.header) + k0 / 4 + i)
      [packCodes (fun j => (coded[j]?.map (·.1)).getD 0) i]

/-- A slice's part of the reference picture, as the cell reconstructs it (R310). -/
def Mach.encRebuild (m : Mach) (e c : Nat) (p : EncPic) (s : Nat) (luma chroma : List Nat) : Mach :=
  let l := m.refLayout e p.buf
  let rows := m.sliceSpan e s false
  (m.writeRef (mstEnc c) l false (rows.headD 0) rows.length luma).writeRef (mstEnc c) l true
    (rows.headD 0 / 2) (rows.length / 2) chroma

/-- Packetise the finished slices in order, up to the first that is not finished (R304). -/
def Mach.encFlush (m : Mach) (e : Nat) (tx : EncTx) : Nat → Mach
  | 0 => m
  | n + 1 => match (m.enc e).pics with
    | [] => m
    | p :: _ => match p.slices[p.sent]? with
      | some s =>
        if s.bits.isNone then m
        else
          let m := m.encSlicePackets e tx p s (p.sent + 1 == p.slices.length)
          (m.updOldest e fun p => { p with sent := p.sent + 1 }).encFlush e tx n
      | none => m

/-- The last slice of a picture has been coded: the account is closed (R312, R313). -/
def Mach.encFinish (m : Mach) (e : Nat) : Mach :=
  match (m.enc e).pics with
  | [] => m
  | p :: _ =>
    if !p.slices.all fun s => s.bits.isSome then m
    else
      let b := (p.slices.map fun s => s.bits.getD 0).foldl (· + ·) 0
      let m := m.encCnt e 0
      let m := if p.idr then m.encCnt e 5 else m
      let m := m.put (Fld.ENCSCHED_STREAM_LAST_BITS_BITS e) b
      let m := m.putB (Fld.ENCSCHED_STREAM_STATUS_BUDGET_SHORT e) p.short
      let m := m.put (Fld.ENCSCHED_STREAM_STATUS_QP_LAST e)
        (wholeOf ((p.qpSum : Rat) / (m.ctus e : Rat))).toNat
      let capped := m.is (Fld.ENCSCHED_STREAM_RC_MODE e)
      let m := m.updEnc e fun s =>
        { s with pics := s.pics.drop 1, fullness := s.fullness - b
                 carry := if capped then b - p.target else 0 }
      let m := m.encGone e p
      let s := m.enc e
      m.put (Fld.ENCSCHED_STREAM_TARGET_T e) (m.encCap e s s.fullness (m.encIdrDue e s)).1

/-- The QP that a slice's header gives: of its first CTU with one. -/
def sliceQp (qp : Nat) : List CtuForm → Nat
  | .normal _ q _ :: _ => q
  | .dcOnly q :: _ => q
  | .skip :: r => sliceQp qp r
  | [] => qp

/-- `n` bits that code a content. -/
def codedBits (content : List Nat) (n : Nat) : List Bool :=
  ((List.range ((n + 7) / 8)).flatMap fun k => bitsU 8 (Config.codedByte content k).toNat).take n

/-- The NAL unit of a slice (R309): the header, and the bits that code what was read and decided. -/
def Mach.sliceUnit (m : Mach) (e : Nat) (p : EncPic) (i : Nat) (forms : List CtuForm)
    (samples : List Nat) (bits : Nat) : List Byte :=
  let first := i * m.sliceRows e * m.ctuCols e
  let content := [5, m.encCodec e, p.idr.toNat, first, p.buf] ++ forms.flatMap CtuForm.content ++ samples
  let openNat (k : Nat) : Nat := (Config.codedByte (6 :: content) k).toNat
  (m.encFormat e (m.enc e).opens).sliceNal
    { idr := p.idr, first := first, ctus := m.ctus e, order := p.order
      qp := sliceQp (if p.idr then p.qpI else p.qpP) forms, openA := openNat 0, openB := openNat 1 }
    (codedBits content bits)

/-- The cell's part in a slice ends: it is free, and its busy time is kept. -/
def Mach.encCellEnds (m : Mach) (c : Nat) : Mach :=
  let now := m.nowNs
  m.updEncCell c fun r =>
    { r with cur := none, busyFrom := none
             busyLog := recent now r.busyLog ++ (match r.busyFrom with
               | some t => [(t, now)]
               | none => []) }

/-- A slice has been coded: what it took and its NAL unit stand, and it goes out in its turn. -/
def Mach.encSliceEnds (m : Mach) (e i : Nat) (p : EncPic) (tx : EncTx) (ctus : List CtuCode)
    (samples : List Nat) : Mach :=
  let n := m.sliceCtus e i
  let a := (p.slices[i]?.map fun s => s.allot).getD 0
  let t := codeCtus (m.floorBits e p.idr) a 0 ((List.range n).map fun k => ctus.getD k ⟨0, 0, []⟩)
  let nal := m.sliceUnit e p i (m.ctuForms e p t) samples t.1
  let qps := (t.2.2.map fun c => m.encQp e p c.qp).foldl (· + ·) 0 +
    t.2.1 * (if p.idr then p.qpHi else m.encQp e p p.qpP)
  let short := t.2.1 != 0
  let m := if short then m.encCnt e 3 t.2.1 else m
  let m := if short && !p.short then ((m.encCnt e 2).raise evEncBudgetShort).encEvent e else m
  let m := m.updOldest e fun p =>
    { p with short := p.short || short, qpSum := p.qpSum + qps
             slices := p.slices.zipIdx.map fun q =>
               if q.2 = i then { q.1 with bits := some t.1, nal := nal } else q.1 }
  (m.encFlush e tx (m.sliceCount e)).encFinish e

/-- A slice finishes. `ctus` gives what the cell decided on each CTU, and `luma` and `chroma` the samples as it
reconstructed them; the slice's NAL unit codes what was read and decided (log entry 18). A cell whose own access
freezes the DRAM stops there (R376). -/
def Mach.encSliceDone (m : Mach) (c : Nat) (ctus : List CtuCode) (luma chroma : List Nat) : Mach :=
  match (m.encCell c).cur with
  | none => m
  | some (e, i) =>
    if m.frozen then m
    else if !(m.encCell c).live then m.encCellEnds c
    else match (m.enc e).pics, (m.enc e).tx with
      | p :: _, some tx =>
        let src := m.encRead e c p i
        let ref := src.1.encRefRead e c p i
        if ref.1.freezing then ref.1
        else
          let m := ref.1.encRebuild e c p i luma chroma
          if m.freezing then m
          else
            ((m.encCellEnds c).count (Fld.ENC_CNT_SLICE_COUNT c)).encSliceEnds e i p tx ctus
              (src.2 ++ ref.2).flatten
      | _, _ => m.encCellEnds c

/-! ### After a freeze (R311, R376) -/

/-- Cells stop, pictures are given up, and the next picture of each stream is an IDR picture. -/
def Mach.encThaw (m : Mach) : Mach :=
  let now := m.nowNs
  let m := m.updEncode fun d => { d with cells := d.cells.map fun c =>
    (c.1, { c.2 with cur := none, busyFrom := none
                     busyLog := match c.2.busyFrom with
                       | some t => recent now c.2.busyLog ++ [(t, now)]
                       | none => c.2.busyLog }) }
  forEach m.encOn m fun m e =>
    let m := (m.enc e).pics.foldl (fun m p => if p.started || p.slot.isSome then m.encGone e p else m) m
    m.updEnc e fun s => { s with pics := [], capturing := false, lines := [], forced := true }

/-! ### What reads show -/

/-- Busy time of an encode cell in the last millisecond, in thousandths. -/
def Mach.encPermille (m : Mach) (c : Nat) : Nat :=
  let r := m.encCell c
  let now := m.nowNs
  let spans := r.busyLog ++ match r.busyFrom with
    | some t => [(t, now)]
    | none => []
  min 1000 ((spans.map fun e => e.2 - max e.1 (now - 1000000)).foldl (· + ·) 0 / 1000)

def Mach.showEncsched (m : Mach) : Mach :=
  m.put Fld.ENCSCHED_STATUS_LOAD (((List.range 16).map m.encPermille).foldl (· + ·) 0 / 160)

def Mach.showEncCell (m : Mach) (c : Nat) : Mach :=
  let r := m.encCell c
  let st := if r.cur.isNone then (if m.is (Fld.ENC_CTRL_EN c) then 0 else 3)
    else if m.nowNs < r.loadUntil then 1 else 2
  ((m.put (Fld.ENC_STATUS_STATE c) st).put (Fld.ENC_STATUS_STREAM c) (r.holds.getD 0)).put
    (Fld.ENC_BUSY_PERMILLE c) (m.encPermille c)

end Sys2Proof.Machine
end

