-- ==== Sys2Proof/Machine/DramOps.lean ====
section
/-! DEFINITION. Commands to the memories: frequency change (R364 to R366), retraining and refresh (R362,
R371 to R373), the freeze and its release (R374 to R378), unwriting (R383), scrubbing (R389 to R392),
repair (R393 to R396), the offline queue (R397) and the checker test (R399). -/

namespace Sys2Proof.Machine

/-! ### Tolerance and panic (R369) -/

/-- The lowest HEADn.TOL, ns. -/
def Mach.tolMin (m : Mach) : Nat :=
  (List.range 20).foldl (fun a h => min a (m.get (Fld.HEAD_TOL_TOL h))) 0xFFFFFFFF

/-- A head that scans without its frame-store mode, or too low a tolerance, ends Idle (R43, R367). -/
def Mach.idleWatch (m : Mach) : Mach :=
  if m.is Fld.SYS_PWR_STATUS_STATE &&
      (decide (m.tolMin ≤ 30000) || (List.range 20).any fun h => m.scanning h && !m.fsMode h)
  then m.dramWake.releaseHeld else m

/-! ### Frequency change (R364 to R366) -/

/-- A request ends with a result. -/
def Mach.fcEnd (m : Mach) (result : Nat) : Mach :=
  let m := m.updDram fun d => { d with fc := .idle }
  ((m.put Fld.DRAMC_FC_STATUS_RESULT result).put Fld.DRAMC_FC_STATUS_DONE 1).put
    Fld.DRAMC_STATUS_FC_BUSY 0

/-- A write of FC_CTRL with GO. -/
def Mach.fcWrote (m : Mach) (v : Word) : Mach :=
  if v.getLsbD 31 = false ∨ m.is Fld.DRAMC_STATUS_FC_BUSY = true then m
  else
    let t := m.get Fld.DRAMC_FC_CTRL_TARGET
    if m.frozen then m.fcEnd 5
    else if t = m.get Fld.DRAMC_STATUS_OP then m.fcEnd 2
    else (m.updDram fun d => { d with fc := .requested t }).put Fld.DRAMC_STATUS_FC_BUSY 1

/-- A tick with a window: the change starts. -/
def Mach.fcStart (m : Mach) : Mach :=
  match m.dram.fc with
  | .requested t =>
    if decide (13000 < m.tolMin) && !m.anyPanic && !m.frozen then
      m.updDram fun d => { d with fc := .running t }
    else m
  | _ => m

/-- No window has come. -/
def Mach.fcNoWindow (m : Mach) : Mach :=
  match m.dram.fc with
  | .requested _ => m.fcEnd 3
  | _ => m

/-- A freeze found during the change acts now, and held accesses go on (R365, R366). -/
def Mach.fcRelease (m : Mach) : Mach :=
  let m := match m.dram.pendingFreeze with
    | some c => (m.updDram fun d => { d with pendingFreeze := none }).freezeNow c
    | none => m
  m.releaseHeld

/-- Verification has passed, or has failed and the controller returns. -/
def Mach.fcDone (m : Mach) (passed : Bool) (blackout : Nat) : Mach :=
  match m.dram.fc with
  | .running t =>
    if passed then
      let m := (m.put Fld.DRAMC_STATUS_OP t).putB Fld.DRAMC_STATUS_TSET (!m.is Fld.DRAMC_STATUS_TSET)
      ((m.fcEnd 1).put Fld.DRAMC_FC_STATUS_BLACKOUT blackout).raise evDramFcDone |>.fcRelease
    else m.updDram fun d => { d with fc := .returning }
  | _ => m

/-- The return to the old point completes: the lanes that failed verification are recorded. -/
def Mach.fcReverted (m : Mach) (rs : List LaneFailure) (blackout : Nat) : Mach :=
  match m.dram.fc with
  | .returning =>
    let m := (m.fcEnd 4).put Fld.DRAMC_FC_STATUS_BLACKOUT blackout
    (((rs.foldl (fun m r => m.lanesFail 2 r) m).put Fld.DRAMC_STATUS_TRAIN_FAIL 1).raise
      evDramTrainFail).fcRelease
  | _ => m

/-! ### Retraining and refresh (R362, R371 to R373) -/

/-- A channel's MR4 reports whether its die is above 85 °C; HOT is 1 while any die is (R371). -/
def Mach.mr4 (m : Mach) (channel : Nat) (hot : Bool) : Mach :=
  let dies := if hot then insertNat m.dram.hot channel else m.dram.hot.filter (· ≠ channel)
  (m.updDram fun d => { d with hot := dies }).putB Fld.DRAMC_STATUS_HOT (!dies.isEmpty)

/-- A channel is retrained; `hot` is what MR4 reports then. -/
def Mach.retrain (m : Mach) (r : ChannelTraining) (hot : Bool) : Mach :=
  let m := m.mr4 r.channel hot
  let busy := match m.dram.fc with
    | .running _ | .returning => true
    | _ => false
  if !m.is Fld.DRAMC_CTRL_RETRAIN_EN || m.anyPanic || m.frozen || busy ||
      m.is Fld.DRAMC_STATUS_SREF then m
  else
    let m := m.count (Fld.DRAMC_CH_RETRAIN_CNT_COUNT (r.channel / 4) (r.channel % 4))
    let m := m.trainResult 3 r
    if failingLanes r = 0 then m else (m.put Fld.DRAMC_STATUS_TRAIN_FAIL 1).raise evDramTrainFail

/-- A refresh interval of a channel has passed; `round` tells that a complete round of per-bank
refreshes was sent in it. -/
def Mach.refresh (m : Mach) (c : Nat) (round : Bool) : Mach :=
  let owed := tabGet 0 m.dram.debt c + if round then 0 else 1
  let set (m : Mach) (n : Nat) : Mach := m.updDram fun d => { d with debt := tabSet d.debt c n }
  if !m.anyPanic then set m 0
  else if owed < 8 then set m owed
  else (set m 7).count Fld.DRAMC_REFRESH_FORCED

/-! ### The freeze (R374 to R378) -/

/-- A parity error on a command: the spec names no syndrome for it, so the one captured is open. Accesses
that wait end with a freeze (R375). -/
def Mach.commandError (m : Mach) (mst cmd addr : Nat) : Mach :=
  if m.frozen then m
  else
    let f := m.free
    let m := (f.2.pushOffline addr true).freeze
      ⟨true, dramChannel addr, mst, cmd, addr, f.1.toNat % 256, addr / 8 % 8⟩
    if m.frozen then m.releaseHeld else m

/-- A write of FREEZE_CTRL. -/
def Mach.freezeCtrl (m : Mach) (v : Word) : Mach :=
  if m.frozen && bitsOf v.toNat 16 16 == 0xA5C3 && v.getLsbD 0 then
    let m := (m.put Fld.DRAMC_STATUS_FROZEN 0).put Fld.DRAMC_FREEZE_INFO_VALID 0
    m.fabricThaw.ingestThaw.encThaw
  else m

/-- Check bits of a word as stored without error (R386). -/
def checkByte (data : Nat) : Nat :=
  let bits := setBitsOf 64 data
  let s := bits.foldl (fun s b => s ^^^ codePosition 64 7 b) 0
  let ones := bits.length + (setBitsOf 7 s).length
  s + if ones % 2 = 1 then 128 else 0

/-- A write of DIAG_CTRL with GO (R377). -/
def Mach.diagWrote (m : Mach) (v : Word) : Mach :=
  if v.getLsbD 31 && m.frozen && m.dram.diag.isNone then
    let a := m.get Fld.DRAMC_DIAG_ADDR_HI_ADDR_HI * 2 ^ 32 + m.get Fld.DRAMC_DIAG_ADDR_LO_ADDR_LO * 64
    (m.updDram fun d => { d with diag := some (m.is Fld.DRAMC_DIAG_CTRL_OP, a) }).put
      Fld.DRAMC_DIAG_CTRL_BUSY 1
  else m

/-- A raw word of DRAM: data and check byte as stored; open where there is no DRAM. -/
def Mach.rawWord (m : Mach) (a : Nat) : Mach × List Byte × Byte :=
  if 0x700000000 ≤ a then
    let f := m.freeBytes 9
    (f.1, f.2.take 8, f.2.getD 8 0)
  else
    let mask := m.flipMask a
    let data := leNat (m.bytes a 8)
    (m, toLE 8 (data ^^^ mask % 2 ^ 64), BitVec.ofNat 8 (checkByte data ^^^ mask / 2 ^ 64))

/-- The burst's words are read into the diagnostic registers. -/
def Mach.diagRead (m : Mach) (a : Nat) : List Nat → Mach
  | [] => m
  | k :: r =>
    let w := m.rawWord (a + 8 * k)
    let m := w.1.put (Fld.DRAMC_DIAG_DATA_DATA (2 * k)) (leNat (w.2.1.take 4))
    let m := m.put (Fld.DRAMC_DIAG_DATA_DATA (2 * k + 1)) (leNat (w.2.1.drop 4))
    let f := Fld.DRAMC_DIAG_CHECK_CHECK (k / 4)
    (m.wr f.key (setBits (m.rd f.key) (k % 4 * 8) 8 w.2.2.toNat)).diagRead a r

/-- The diagnostic operation completes. -/
def Mach.diagDone (m : Mach) : Mach :=
  match m.dram.diag with
  | none => m
  | some (op, a) =>
    let m := (m.updDram fun d => { d with diag := none }).put Fld.DRAMC_DIAG_CTRL_BUSY 0
    if !m.frozen then m
    else if !op then m.diagRead a (List.range 8)
    else if 0x700000000 ≤ a then m
    else forEach (List.range 8) m fun m k =>
      (m.setBytes (a + 8 * k) (wordLE (m.rd (Reg.DRAMC_DIAG_DATA (2 * k))) ++
        wordLE (m.rd (Reg.DRAMC_DIAG_DATA (2 * k + 1))))).wordWritten (a + 8 * k)

/-! ### Unwriting (R383) -/

/-- Report the denied parts of a range as one write of it; whether any was denied. -/
def Mach.rangeDenied (m : Mach) (mst a n : Nat) : Mach × Bool :=
  let p := m.memAllowed mst true (partsOf a n)
  (p.1, decide (p.2.length < (partsOf a n).length))

/-- A write of UNWRITE_LEN with GO; a length of 0 clears nothing and runs for no cycle. -/
def Mach.unwriteWrote (m : Mach) (mst : Nat) (v : Word) : Mach :=
  if v.getLsbD 31 = false then m
  else
    let reject (m : Mach) : Mach := m.put Fld.FSTORE_STATUS_CMD_REJECT 1
    let first := m.get Fld.FSTORE_UNWRITE_START_START
    let count := m.get Fld.FSTORE_UNWRITE_LEN_LEN
    let a := fsBase + first * 64
    if m.is Fld.FSTORE_STATUS_UNWRITE_BUSY then reject m
    else
      let p := m.rangeDenied mst a (count * 64)
      if p.2 then reject p.1
      else match if leaseChecked mst then m.leaseHit a (count * 64) else none with
        | some e => reject (m.leaseViolation mst a e)
        | none =>
          let m := (lineParts a (count * 64)).foldl (fun m q =>
            let f := m.fsPhys (q.1 - fsBase)
            if f.2 then m else m.clearLines (f.1 / 64) 1) m
          if count = 0 then m else (m.updDram fun d => { d with unwrite := some (first, count) }).put
            Fld.FSTORE_STATUS_UNWRITE_BUSY 1

/-- The clearing completes. -/
def Mach.unwriteDone (m : Mach) : Mach :=
  (m.updDram fun d => { d with unwrite := none }).put Fld.FSTORE_STATUS_UNWRITE_BUSY 0

/-! ### Scrubbing (R389 to R392) -/

/-- The bit of a code word at a syndrome position. -/
def positionMask (pos : Nat) : Nat :=
  match (List.range 72).find? fun b => codePosition 64 7 b == pos with
  | some b => 2 ^ b
  | none => 0

/-- A word with these bits inverted cannot be corrected (R387). -/
def beyondCorrection (mask : Nat) : Bool :=
  match classify 71 (syndromeOf 64 7 mask).1 (syndromeOf 64 7 mask).2 with
  | .uncorrectable => true
  | _ => false

/-- The scrubber cannot reach DRAM: before the zero-fill, FROZEN, in self-refresh (R361, R392), and while a
frequency change holds new accesses (R365). -/
def Mach.scrubBlocked (m : Mach) : Bool :=
  m.frozen || m.is Fld.DRAMC_STATUS_SREF || !m.boot.zeroFilled || m.dramHolds

/-- A word that the write-back's read finds uncorrectable (R382, R374). -/
def Mach.scrubUncorr (m : Mach) (fs : Bool) (addr key synd : Nat) : Mach :=
  if fs then m.fsUncorr mstScrub (addr - fsBase) (key - fsBase) else (m.dramUncorr mstScrub addr 3 synd).dramEnded

/-- Step 1 of R389 on words of the line, given by address and key: each is read and written back with
corrected data; false where one is uncorrectable, which ends the operation. An error that has been counted
and waits for its write-back is not counted again (log entry 21). -/
def Mach.scrubLine (m : Mach) (fs : Bool) (counted : List Nat) : List (Nat × Nat) → Mach × Bool
  | [] => (m, true)
  | (addr, key) :: r =>
    let mask := m.flipMask key
    let e := m.eccOf key
    if mask = 0 then m.scrubLine fs counted r
    else if counted.contains key && !m.injected key && !beyondCorrection mask then
      ((m.setBytes key (m.wordBytes 8 key (deliveredMask 64 mask e.1))).setFlips key 0).scrubLine fs counted r
    else
      let tested := m.injected key
      let q := m.readWord fs mstScrub addr key
      match q.2.1 with
      | none => (q.1.scrubUncorr fs addr key q.2.2, false)
      | some bs => ((if tested then q.1 else (q.1.setBytes key bs).setFlips key 0)).scrubLine fs counted r

/-- The write-back for the oldest corrected error, of its whole 64-byte line, and the re-read: `again` tells
that the same position needs correction again. A line found clean counts the error as soft. -/
def Mach.scrubWriteback (m : Mach) (again : Bool) : Mach :=
  match m.repair.corr with
  | [] => m
  | e :: r =>
    if !e.fs && m.scrubBlocked then m
    else
      let m := m.updRepair fun x => { x with corr := r }
      let stood := m.flipMask e.key != 0 && !m.injected e.key
      let words := (List.range 8).map fun i => (e.addr / 64 * 64 + 8 * i, e.key / 64 * 64 + 8 * i)
      let q := m.scrubLine e.fs (e.key :: r.map (·.key)) words
      if !q.2 || !stood || !again then q.1
      else
        let m := q.1.setFlips e.key (positionMask e.pos)
        let m := if e.captured && m.is Fld.REPAIR_CE_INFO_VALID then m.put Fld.REPAIR_CE_INFO_HARD 1 else m
        if e.fs then m.fsHardFault (e.key - fsBase) else m.dramHardFault e.addr false

/-- Listed granule-map entries and the identity: the visible granule at a physical one. -/
def Mach.granuleAt (m : Mach) (phys : Nat) : Option Nat :=
  (phys :: m.regs.filterMap fun e =>
      if regKey 0 0x0B 0x1000 ≤ e.1 ∧ e.1 < regKey 0 0x0B 0x2F00
      then some ((e.1 - regKey 0 0x0B 0x1000) / 4) else none).find? fun g =>
    decide (g < 1984) && m.get (Fld.REPAIR_GMAP_PHYS g) == phys &&
    m.get (Fld.REPAIR_GMAP_STATE g) != gmapRetired

/-- Upsets that a sweep finds in a line: inverted bits by word. -/
def Mach.upsetLine (m : Mach) (a : Nat) (upsets : List (Nat × Nat)) : Mach :=
  upsets.foldl (fun m u => m.setFlips (a + 8 * u.1) (m.flipMask (a + 8 * u.1) ^^^ u.2)) m

/-- The DRAM sweep reads its next line. -/
def Mach.scrubDram (m : Mach) (upsets : List (Nat × Nat)) : Mach :=
  if m.scrubBlocked || m.get Fld.REPAIR_CTRL_DRAM_PERIOD == 0 then m
  else
    let a := m.repair.dramSweep * 64
    let m := m.updRepair fun r => { r with dramSweep := (r.dramSweep + 1) % (0x700000000 / 64) }
    match m.memDenied mstScrub a false with
    | some (k, t) => m.violate k t mstScrub a
    | none =>
      let r := (m.upsetLine a upsets).dramWords mstScrub 3 (wordParts 8 a 64)
      if r.2.isSome then r.1.dramSampled (dramClass mstScrub) 1 else r.1.dramEnded

/-- Words that the macro's own check reads, given by address and key: a corrected error is handled as any
other, an uncorrectable one is reported without the unwritten read (R382, R389 to R391). -/
def Mach.ownWords (m : Mach) : List (Nat × Nat) → Mach
  | [] => m
  | (addr, key) :: r =>
    let q := m.readWord true mstScrub addr key
    match q.2.1 with
    | none => ((q.1.fsUncorrReport mstScrub (addr - fsBase)).fsHardFault (key - fsBase)).ownWords r
    | some _ => q.1.ownWords r

/-- A sweep's read of a line whose written bit is 0, or of a granule that no address names, which is captured
by its physical place (log entry 21): the macro's own check alone (R391). -/
def Mach.scrubOwn (m : Mach) (f phys : Nat) (upsets : List (Nat × Nat)) : Mach :=
  (m.upsetLine (fsBase + phys) upsets).ownWords
    ((List.range 8).map fun i => (fsBase + f + 8 * i, fsBase + phys + 8 * i))

/-- The frame-store sweep reads its next line; an unwritten one gives no report. -/
def Mach.scrubFs (m : Mach) (upsets : List (Nat × Nat)) : Mach :=
  if m.get Fld.REPAIR_CTRL_FS_PERIOD == 0 then m
  else
    let p := m.repair.fsSweep * 64
    let m := m.updRepair fun r => { r with fsSweep := (r.fsSweep + 1) % 0x200000 }
    match m.granuleAt (p / 0x10000) with
    | none => m.scrubOwn p p upsets
    | some g =>
      let f := g * 0x10000 + p % 0x10000
      if !m.lineWritten p then m.scrubOwn f p upsets
      else match m.memDenied mstScrub (fsBase + f) false with
        | some (k, t) => m.violate k t mstScrub (fsBase + f)
        | none => ((m.upsetLine (fsBase + p) upsets).fsReadLine mstScrub f 64).1

/-- The paced scrubber reads: DRAM (0), the frame store (1) or the vault (2). `late` tells that the
sweep has gone over its period (R391). -/
def Mach.scrubRead (m : Mach) (memory : Nat) (late : Bool) (upsets : List (Nat × Nat)) : Mach :=
  let m := if late then m.put Fld.REPAIR_STATUS_SCRUB_LATE 1 else m
  if memory = 0 then m.scrubDram upsets
  else if memory = 1 then m.scrubFs upsets
  else
    let k := m.repair.vaultSweep
    ((m.updRepair fun r => { r with vaultSweep := (r.vaultSweep + 1) % 256 }).vaultRead k).1

/-! ### Repair of the frame store (R393 to R396) -/

def macroOf (phys : Nat) : Nat := phys / 256 % 128

/-- Free spare rows of a macro. -/
def Mach.sparesLeft (m : Mach) (k : Nat) : Nat :=
  8 - min 8 (m.get (Fld.REPAIR_MACRO_STATUS_FUSED k)) - tabGet 0 m.repair.sparesTaken k

/-- The lowest free reserve granule. -/
def Mach.freeReserve (m : Mach) : Option Nat :=
  ((List.range 64).map (· + 1984)).find? fun r => !m.repair.reserveTaken.contains r

/-- A reserve granule leaves the free count (R396). -/
def Mach.takeReserve (m : Mach) (r : Nat) : Mach :=
  let m := m.updRepair fun x => { x with reserveTaken := insertNat x.reserveTaken r }
  let left := 64 - m.repair.reserveTaken.length
  let m := m.put Fld.REPAIR_STATUS_RESERVE_FREE left
  if left < 8 ∧ m.is Fld.REPAIR_STATUS_MAINT_DUE = false then
    (m.put Fld.REPAIR_STATUS_MAINT_DUE 1).raise evMaintDue
  else m

/-- A granule is retired (R393 step 3, R398). -/
def Mach.retire (m : Mach) (g : Nat) : Mach :=
  let m := (m.put (Fld.REPAIR_GMAP_STATE g) gmapRetired).count Fld.REPAIR_STATUS_RETIRED
  (m.raise evGranuleRetired).integrityFault causeGranuleRetired

/-- Step 2 of R393, or step 3 where no reserve granule is free; a free reserve granule with a fault is
marked unusable (R394). -/
def Mach.remapGranule (m : Mach) (phys : Nat) : Mach :=
  let g := phys / 0x10000
  match m.granuleAt g with
  | none => if 1984 ≤ g then m.takeReserve g else m
  | some v => match m.freeReserve with
    | none => m.retire v
    | some r =>
      let m := (m.takeReserve r).put (Fld.REPAIR_GMAP_STATE v) 1
      (m.updRepair fun x => { x with job := some (.granule v r) }).put Fld.REPAIR_STATUS_REPAIR_BUSY 1

/-- REPAIR takes the next pending fault. -/
def Mach.repairStart (m : Mach) : Mach :=
  match m.repair.job, m.repair.faults with
  | none, p :: r =>
    let m := m.updRepair fun x => { x with faults := r }
    let k := macroOf p
    if m.sparesLeft k = 0 then m.remapGranule p
    else
      (m.updRepair fun x =>
        { x with
          job := some (.spareRow p)
          sparesTaken := tabSet x.sparesTaken k (tabGet 0 x.sparesTaken k + 1) }).put
        Fld.REPAIR_STATUS_REPAIR_BUSY 1
  | _, _ => m

/-- The copy's read of the word of an armed injection completes the test (R399, R400). -/
def Mach.copyTested (m : Mach) (k : Nat) : Mach :=
  if m.injected k then
    let e := m.eccOf k
    m.injectDone k (m.injectResult e.1) (syndByte e.2.1 e.2.2)
  else m

/-- A copied line holds corrected data; an uncorrectable one arrives unwritten (R394). -/
def Mach.copiedLine (m : Mach) (phys : Nat) : Mach :=
  let keys := (List.range 8).map fun i => fsBase + phys + 8 * i
  let m := forEach keys m Mach.copyTested
  if keys.any fun k => beyondCorrection (m.flipMask k) then m.clearLines (phys / 64) 1
  else forEach keys m fun m k =>
    (m.setBytes k (m.wordBytes 8 k (deliveredMask 64 (m.flipMask k) (m.eccOf k).1))).setFlips k 0

/-- The copy ends: REPAIR is idle. -/
def Mach.repairIdle (m : Mach) : Mach :=
  (m.updRepair fun x => { x with job := none }).put Fld.REPAIR_STATUS_REPAIR_BUSY 0

/-- The lines of the row of a macro that holds a physical offset. -/
def rowLines (phys : Nat) : List Nat :=
  let row := phys / 2 ^ 17
  (List.range 4).flatMap fun j => (List.range 4).map fun k =>
    (row * 4 + j) * 2 ^ 15 + macroOf phys * 256 + k * 64

/-- A spare-row copy ends; `fault` tells that the spare showed a hard fault. -/
def Mach.spareDone (m : Mach) (fault : Bool) : Mach :=
  match m.repair.job with
  | some (.spareRow p) =>
    let m := m.repairIdle
    if fault then m.remapGranule p
    else (forEach (rowLines p) m fun m l => m.copiedLine l).raise evSpareRow
  | _ => m

/-- Move a granule's lines to another place, with their written bits. -/
def Mach.moveGranule (m : Mach) (old new : Nat) : Mach :=
  let a := old * 0x10000
  let b := new * 0x10000
  let m := forEach ((List.range 1024).map fun i => a + 64 * i) m fun m l => m.copiedLine l
  let data := m.bytes (fsBase + a) 0x10000
  let lines := m.written.filter fun l => decide (a / 64 ≤ l ∧ l < a / 64 + 1024)
  let m := ((m.clearLines (a / 64) 1024).clearLines (b / 64) 1024).setBytes (fsBase + b) data
  let m := { m with
    written := lines.foldl (fun w l => insertNat w (l - a / 64 + b / 64)) m.written
    flips := m.flips.filter fun e => !(decide (fsBase + b ≤ e.1 ∧ e.1 < fsBase + b + 0x10000)) }
  -- an injection that is armed in the granule stands at the word's new place
  m.updRepair fun r => { r with inject := r.inject.map fun i =>
    if fsBase + a ≤ i.key ∧ i.key < fsBase + a + 0x10000 then { i with key := i.key - a + b } else i }

/-- A granule copy ends; `fault` tells that the reserve granule showed a hard fault. -/
def Mach.granuleDone (m : Mach) (fault : Bool) : Mach :=
  match m.repair.job with
  | some (.granule g r) =>
    let m := m.repairIdle
    if fault then m.retire g
    else
      let m := m.moveGranule (m.get (Fld.REPAIR_GMAP_PHYS g)) r
      ((m.put (Fld.REPAIR_GMAP_STATE g) 2).put (Fld.REPAIR_GMAP_PHYS g) r).raise evGranuleRemap
  | _ => m

/-! ### The offline queue and the checker test (R397, R399) -/

/-- A read of REPAIR.OFFLINE removes the oldest entry. -/
def Mach.readOffline (m : Mach) : Mach × Word :=
  match m.repair.offline with
  | [] => (m.updRepair fun r => { r with offlineOverflow := false },
      BitVec.ofNat 32 (m.repair.offlineOverflow.toNat * 2 ^ 30))
  | e :: r =>
    (m.updRepair fun x => { x with offline := r, offlineOverflow := false },
     BitVec.ofNat 32 (2 ^ 31 + m.repair.offlineOverflow.toNat * 2 ^ 30 + e.2.toNat * 2 ^ 29 + e.1 % 2 ^ 23))

/-- The word that INJ_ADDR names in the memory TARGET names. -/
def Mach.injectKey (m : Mach) : Option Nat :=
  let a := m.get Fld.REPAIR_INJ_ADDR_HI_ADDR_HI * 2 ^ 32 + m.get Fld.REPAIR_INJ_ADDR_LO_ADDR_LO * 4
  match m.get Fld.REPAIR_INJ_CTRL_TARGET, placeOf a with
  | 0, .dram => some (a / 8 * 8)
  | 1, .frameStore f => some (fsBase + (m.fsPhys f).1 / 8 * 8)
  | 2, .seqRam _ _ => some a
  | _, _ => none

/-- A test that is given up leaves the correct word. -/
def Mach.disarm (m : Mach) : Mach :=
  match m.repair.inject with
  | some i => (if i.injected then m.setFlips i.key 0 else m).updRepair fun r => { r with inject := none }
  | none => m

/-- An arm command that is refused (R370, R372). -/
def Mach.injectRefused (m : Mach) : Mach :=
  ((m.put Fld.REPAIR_INJ_CTRL_ARM 0).put Fld.REPAIR_INJ_STATUS_RESULT 5).put
    Fld.REPAIR_INJ_STATUS_DONE 1

/-- A write of INJ_CTRL. -/
def Mach.injectWrote (m : Mach) : Mach :=
  let m := m.disarm
  if !m.is Fld.REPAIR_INJ_CTRL_ARM then m
  else
    let top := if m.get Fld.REPAIR_INJ_CTRL_TARGET = 2 then 38 else 71
    let b0 := m.get Fld.REPAIR_INJ_CTRL_BIT0
    let b1 := m.get Fld.REPAIR_INJ_CTRL_BIT1
    let double := m.is Fld.REPAIR_INJ_CTRL_DOUBLE
    match m.injectKey with
    | some k =>
      if top < b0 ∨ (double && (decide (top < b1) || b0 == b1)) = true then m.injectRefused
      else m.updRepair fun r => { r with inject := some ⟨k, false⟩ }
    | none => m.injectRefused

/-! ### What reads show -/

def Mach.showDramc (m : Mach) : Mach :=
  let debt := if m.anyPanic then (m.dram.debt.map (·.2)).foldl max 0 else 0
  ((m.put Fld.DRAMC_TOL_MIN_TOL m.tolMin).putB Fld.DRAMC_STATUS_PANIC m.anyPanic).put
    Fld.DRAMC_REFRESH_DEBT debt

def Mach.showRepair (m : Mach) : Mach :=
  let left := (List.range 128).map m.sparesLeft
  (m.put Fld.REPAIR_SPARE_LEFT (left.foldl (· + ·) 0)).put Fld.REPAIR_SPARE_MIN_LEFT (left.foldl min 8)

def Mach.showMacro (m : Mach) (k : Nat) : Mach :=
  (m.put (Fld.REPAIR_MACRO_STATUS_LEFT k) (m.sparesLeft k)).put (Fld.REPAIR_MACRO_STATUS_FUSED k)
    (min 8 (m.get (Fld.REPAIR_MACRO_STATUS_FUSED k)))

end Sys2Proof.Machine
end

