-- ==== Sys2Proof/Machine/LinkOps.lean ====
section
/-! DEFINITION. The links of heads: DisplayPort training and hot plug (R295, R296), AUX transactions
(R297), DSI commands and the tearing-effect input (R300, R301). -/

namespace Sys2Proof.Machine

/-! ### DisplayPort (R295, R296) -/

/-- Link training starts: the link carries the idle pattern until it has ended. -/
def Mach.trainStart (m : Mach) (h : Nat) : Mach :=
  let m := (m.put (Fld.HEAD_DP_STATUS_TRAIN_BUSY h) 1).put (Fld.HEAD_DP_STATUS_TRAINED h) 0
  m.put (Fld.HEAD_STATUS_LINK_UP h) 0

/-- Send an AUX request (R297): the data of a write goes with it. -/
def Mach.auxSend (m : Mach) (h : Nat) : Mach :=
  let cmd := m.get (Fld.HEAD_AUX_CTRL_CMD h)
  let len := m.get (Fld.HEAD_AUX_CTRL_LEN h) + 1
  let data := (List.range 4).flatMap fun k => wordLE (m.rd (Reg.HEAD_AUX_DATA h k))
  m.send (.aux h cmd (m.get (Fld.HEAD_AUX_CTRL_ADDR h)) len (if cmd % 2 = 0 then data.take len else []))

/-- Settings that training may end at (R295): the lower of the requested and the sink's rate and lane count; by
fallback one rate step less, and then half the lanes, where these pass R294 (log entry 13). -/
def Mach.trainAllowed (m : Mach) (h rate lanes sinkRate sinkLanes : Nat) : Bool :=
  let r := min sinkRate (m.get (Fld.HEAD_DP_CTRL_RATE h))
  let l := min sinkLanes (m.get (Fld.HEAD_DP_CTRL_LANES h))
  (rate == r && lanes == l) ||
  (decide (rate + 1 = r) && (lanes == l || decide (lanes + 1 = l)) && m.dpCapacity h rate lanes)

/-- Training ends (R295): the rate and lane count it settled on, and the sink's and its PSR support as its
DPCD gives them. A transaction that waited for it starts (R297). -/
def Mach.trainDone (m : Mach) (h : Nat) (ok : Bool) (rate lanes sinkRate sinkLanes : Nat)
    (psr psr2 : Bool) : Mach :=
  if !m.is (Fld.HEAD_DP_STATUS_TRAIN_BUSY h) ||
      (ok && !m.trainAllowed h rate lanes sinkRate sinkLanes) then m
  else
    let m := m.put (Fld.HEAD_DP_STATUS_TRAIN_BUSY h) 0
    let m := (m.putB (Fld.HEAD_DP_STATUS_PSR_CAP h) psr).putB (Fld.HEAD_DP_STATUS_PSR2_CAP h) psr2
    let m := if ok then
        ((m.put (Fld.HEAD_DP_STATUS_TRAINED h) 1).put (Fld.HEAD_DP_STATUS_RATE_ACT h) rate).put
          (Fld.HEAD_DP_STATUS_LANES_ACT h) lanes
      else m.put (Fld.HEAD_DP_STATUS_TRAIN_FAIL h) 1
    if (m.head h).auxWaits then (m.updHead h fun r => { r with auxWaits := false }).auxSend h else m

/-- HPD has been low for 2 ms. -/
def Mach.unplug (m : Mach) (h : Nat) : Mach :=
  let m := (m.put (Fld.HEAD_DP_STATUS_HPD h) 0).put (Fld.HEAD_DP_STATUS_UNPLUG h) 1
  let m := (m.put (Fld.HEAD_DP_STATUS_TRAINED h) 0).put (Fld.HEAD_STATUS_LINK_UP h) 0
  m.updHead h fun r => { r with unplugged := true }

/-- HPD is high again: after an unplug the head retrains by itself with AUTO_RETRAIN. -/
def Mach.replug (m : Mach) (h : Nat) : Mach :=
  let m := m.put (Fld.HEAD_DP_STATUS_HPD h) 1
  if m.is (Fld.HEAD_DP_CTRL_AUTO_RETRAIN h) && (m.head h).unplugged
  then (m.updHead h fun r => { r with unplugged := false }).trainStart h
  else m.updHead h fun r => { r with unplugged := false }

/-- An IRQ_HPD pulse; `lost` tells that the DPCD link status shows lost lock. -/
def Mach.irqHpd (m : Mach) (h : Nat) (lost : Bool) : Mach :=
  let m := m.put (Fld.HEAD_DP_STATUS_IRQ_HPD h) 1
  if m.is (Fld.HEAD_DP_CTRL_AUTO_RETRAIN h) && lost then m.trainStart h else m

/-! ### AUX transactions (R297) -/

/-- AUX_CTRL.GO: one transaction at a time; during training it waits. -/
def Mach.auxGo (m : Mach) (h : Nat) : Mach :=
  if m.is (Fld.HEAD_AUX_STATUS_BUSY h) then m
  else
    let m := m.put (Fld.HEAD_AUX_STATUS_BUSY h) 1
    let m := m.updHead h fun r => { r with auxRetries := 0, auxDeferred := false }
    if m.is (Fld.HEAD_DP_STATUS_TRAIN_BUSY h) then m.updHead h fun r => { r with auxWaits := true }
    else m.auxSend h

/-- A request is on the link and its reply has not come. -/
def Mach.auxOpen (m : Mach) (h : Nat) : Bool :=
  m.is (Fld.HEAD_AUX_STATUS_BUSY h) && !(m.head h).auxDeferred && !(m.head h).auxWaits

/-- The transaction ends. -/
def Mach.auxEnd (m : Mach) (h reply count : Nat) : Mach :=
  let m := (m.put (Fld.HEAD_AUX_STATUS_BUSY h) 0).put (Fld.HEAD_AUX_STATUS_DONE h) 1
  let m := (m.put (Fld.HEAD_AUX_STATUS_REPLY h) reply).put (Fld.HEAD_AUX_STATUS_COUNT h) count
  m.updHead h fun r => { r with auxDeferred := false, auxRetries := 0 }

/-- Store bytes in consecutive data registers, least significant byte first. -/
def Mach.fillData (m : Mach) (reg : Nat → Nat) (k : Nat) : List Byte → Mach
  | [] => m
  | [a] => m.wr (reg k) (setBits (m.rd (reg k)) 0 8 a.toNat)
  | [a, b] => m.wr (reg k) (setBits (m.rd (reg k)) 0 16 (leNat [a, b]))
  | [a, b, c] => m.wr (reg k) (setBits (m.rd (reg k)) 0 24 (leNat [a, b, c]))
  | a :: b :: c :: d :: r =>
    (m.wr (reg k) (BitVec.ofNat 32 (leNat [a, b, c, d]))).fillData reg (k + 1) r

/-- A reply: 0 ACK, 1 NACK, 2 DEFER, with the bytes transferred and the data of a read. -/
def Mach.auxReply (m : Mach) (h kind count : Nat) (bytes : List Byte) : Mach :=
  if !m.auxOpen h then m
  else match kind with
    | 0 =>
      let m := if m.get (Fld.HEAD_AUX_CTRL_CMD h) % 2 = 1
        then m.fillData (Reg.HEAD_AUX_DATA h) 0 (bytes.take 16) else m
      m.auxEnd h 0 count
    | 1 => m.auxEnd h 1 count
    | _ => m.updHead h fun r => { r with auxDeferred := true }

def Mach.auxTimeout (m : Mach) (h : Nat) : Mach := if m.auxOpen h then m.auxEnd h 3 0 else m

/-- 400 µs after a DEFER: the request goes again, up to 7 times, and then ends. -/
def Mach.auxRetry (m : Mach) (h : Nat) : Mach :=
  let r := m.head h
  if !(m.is (Fld.HEAD_AUX_STATUS_BUSY h) && r.auxDeferred) then m
  else if r.auxRetries < 7 then
    (m.updHead h fun r => { r with auxRetries := r.auxRetries + 1, auxDeferred := false }).auxSend h
  else m.auxEnd h 2 0

/-- What a write to a DisplayPort head's link registers does beyond their fields. -/
def Mach.dpWrote (m : Mach) (h off : Nat) (v : Word) : Mach :=
  if off = 0x200 ∧ v.getLsbD 31 = true then m.trainStart h
  else if off = 0x208 ∧ v.getLsbD 31 = true then m.auxGo h
  else m

/-! ### DSI commands (R301) -/

/-- The data types of R298. -/
def dsiTypes : List Nat := [0x05, 0x15, 0x39, 0x06]

/-- DSI_CMD.GO: queue the command with the bytes of DSI_DATA; a head that does not scan sends it at once
(R301). -/
def Mach.dsiGo (m : Mach) (h : Nat) : Mach :=
  let dt := m.get (Fld.HEAD_DSI_CMD_DT h)
  if m.is (Fld.HEAD_DSI_CMD_STATUS_BUSY h) || !dsiTypes.contains dt then m
  else
    let data := (List.range 16).flatMap fun k => wordLE (m.rd (Reg.HEAD_DSI_DATA h k))
    let len := min 64 (m.get (Fld.HEAD_DSI_CMD_LEN h))
    let m := (m.put (Fld.HEAD_DSI_CMD_STATUS_BUSY h) 1).updHead h fun r =>
      { r with dsi := some ⟨m.is (Fld.HEAD_DSI_CMD_LP h), dt, data.take len, false⟩ }
    if m.scanning h then m else m.dsiSend h

/-- A DSI command that has been sent completes: bytes read, and the panel's error report. -/
def Mach.dsiDone (m : Mach) (h : Nat) (bytes : List Byte) (report : Option Nat) : Mach :=
  match (m.head h).dsi with
  | none => m
  | some c =>
    if !c.sent then m else
    let m := m.updHead h fun r => { r with dsi := none }
    let m := (m.put (Fld.HEAD_DSI_CMD_STATUS_BUSY h) 0).put (Fld.HEAD_DSI_CMD_STATUS_DONE h) 1
    let m := match report with
      | some e =>
        (m.put (Fld.HEAD_DSI_CMD_STATUS_ERR h) 1).put (Fld.HEAD_DSI_CMD_STATUS_ERR_REPORT h) e
      | none => m
    if c.dt = 0x06 then
      (m.fillData (Reg.HEAD_DSI_DATA h) 0 (bytes.take 64)).put (Fld.HEAD_DSI_CMD_STATUS_RD_LEN h)
        (min 64 bytes.length)
    else m

def Mach.dsiWrote (m : Mach) (h off : Nat) (v : Word) : Mach :=
  if off = 0x208 ∧ v.getLsbD 31 = true then m.dsiGo h else m

/-! ### The tearing-effect input (R300) -/

/-- An active edge on DSIn_TE: the coming line 0 starts TE_DELAY lines after it, by a longer or a
shorter back porch; after an enable the head starts with the first edge. -/
def Mach.teEdge (m : Mach) (h : Nat) : Mach :=
  if !m.teSync h || !m.is (Fld.HEAD_CTRL_EN h) then m
  else
    let delay := m.get (Fld.HEAD_DSI_CTRL_TE_DELAY h)
    let porch := m.vTotal h - m.get (Fld.HEAD_VTIME_B_VBP h)
    if m.scanning h && (m.head h).target.isNone then
      m.updHead h fun r =>
        let t := max ((r.line + 1 + delay)) porch
        { r with teAt := some t, vtot := t, teLost := false }
    else m.updHead h fun r => { r with teAt := some (m.latchLine h + delay), teLost := false }

/-- No edge for two frame periods, after an enable too. -/
def Mach.teMissing (m : Mach) (h : Nat) : Mach :=
  if !m.teSync h || !m.is (Fld.HEAD_CTRL_EN h) then m
  else (m.put (Fld.HEAD_STATUS_TE_LOST h) 1).updHead h fun r =>
    { r with teAt := none, teLost := true, vtot := m.vTotal h }

end Sys2Proof.Machine
end

