-- ==== Sys2Proof/Machine/PairOps.lean ====
section
/-! DEFINITION. The pair: possession, status messages, the comparison and arbitration of frames, and
the protection states (spec/14). -/

namespace Sys2Proof.Machine

/-! ### Possession (R419 to R421) -/

/-- A decided handover is taken on the first sample at which the line is high (R419). -/
def Mach.takeGrant (m : Mach) : Mach :=
  match m.pair.grant with
  | some c =>
    if !m.pair.poss && m.eligible && !m.is Fld.PAIR_STATUS_POSS_LOW then m.acquire c else m
  | none => m

def Mach.grantTo (m : Mach) (cause : Nat) : Mach :=
  (m.updPair fun p => { p with grant := some cause }).takeGrant

/-- POSS_N is sampled high. -/
def Mach.possRise (m : Mach) : Mach :=
  if m.pair.poss then m
  else
    let m := m.put Fld.PAIR_STATUS_POSS_LOW 0
    if m.on then m.takeGrant else m

/-- POSS_N is sampled low: another unit holds possession. -/
def Mach.possFall (m : Mach) : Mach :=
  if m.pair.poss then m
  else (m.updPair fun p => { p with announced := none }).put Fld.PAIR_STATUS_POSS_LOW 1

/-- The cause of an acquisition that no handover announced (R438). -/
def Mach.quietCause (m : Mach) : Nat :=
  if m.is Fld.PAIR_STATUS_PARTNER_PG then causeStart else causePartnerLost

/-- The line has been high for the quiet time (R419); a unit that has handed over does not take
possession back by itself (R437). -/
def Mach.possQuiet (m : Mach) : Mach :=
  if !m.pair.poss && !m.is Fld.PAIR_STATUS_POSS_LOW && m.eligible && m.pair.announced.isNone then
    m.acquire m.quietCause
  else m

/-- Messages pass only while the port is up and pair operation is enabled. -/
def Mach.pairTalks (m : Mach) : Bool := m.paired && m.is Fld.PAIR_STATUS_LINK_UP

/-- The 100 µs status message (R421). -/
def Mach.statusSend (m : Mach) : Mach :=
  if m.pairTalks then m.send (.pair (.status m.pair.poss m.pair.announced)) else m

/-- The partner's status message (R421): a split is resolved by SIDE B releasing; a handover that
the partner states is decided. -/
def Mach.statusArrives (m : Mach) (possession : Bool) (handover : Option Nat) : Mach :=
  if !m.pairTalks then m
  else
    let m := m.updPair fun p =>
      { p with partnerPoss := possession, announced := if possession then none else p.announced }
    if m.pair.poss then
      if possession && m.is Fld.PAIR_CTRL_SIDE then
        ((m.put Fld.PAIR_STATUS_SPLIT 1).raise evPairSplit).handOver causeSplit
      else m.updProtected
    else
      match possession, handover with
      | false, some c => (m.grantTo c).updProtected
      | _, _ => m.updProtected

/-! ### Frames compared (R430, R433, R436) -/

/-- Where two results of one frame differ: 0 for FRAME_CRC, else the window and 1. -/
def sigDiff (a b : SigMsg) : Option Nat :=
  if a.crc != b.crc then some 0
  else ((List.range 16).find? fun w => tabFind a.windows w != tabFind b.windows w).map (· + 1)

/-- The first mismatch since VALID was cleared is captured (R430). -/
def Mach.captureMismatch (m : Mach) (s : SigMsg) (src : Nat) : Mach :=
  if m.is Fld.PAIR_MISMATCH_INFO_VALID then m
  else
    (((m.put Fld.PAIR_MISMATCH_INFO_HEAD s.head).put Fld.PAIR_MISMATCH_INFO_SRC src).put
      Fld.PAIR_MISMATCH_INFO_GRID s.grid).put Fld.PAIR_MISMATCH_INFO_VALID 1

/-- SYNCED after one compared frame; one that is excused, or that no ballot went with, is none that the standby
followed (R436). -/
def Mach.syncFrame (m : Mach) (excused : Bool) (diff : Option Nat) (unresolved : Bool) : Mach :=
  if excused then m.syncLost
  else if unresolved then
    let m := m.updPair fun p => { p with syncRun := 0, unresRun := p.unresRun + 1 }
    if max 1 (m.get Fld.PAIR_SYNC_UNRES_LIMIT) ≤ m.pair.unresRun then
      m.put Fld.PAIR_STATUS_SYNCED 0
    else m
  else if diff.isSome then m.syncLost
  else
    let m := m.updPair fun p => { p with syncRun := p.syncRun + 1, unresRun := 0 }
    if max 1 (m.get Fld.PAIR_SYNC_SYNC_FRAMES) ≤ m.pair.syncRun then
      m.put Fld.PAIR_STATUS_SYNCED 1
    else m

/-- The table of R433, from this unit's side. -/
def Mach.arbitrate (m : Mach) (own partner : SigMsg) (diff : Option Nat) : Mach :=
  let active := if m.pair.poss then own.refereePass else partner.refereePass
  let standby := if m.pair.poss then partner.refereePass else own.refereePass
  match active, standby with
  | true, true =>
    if diff.isSome then (m.count Fld.PAIR_CNT_UNRESOLVED_COUNT).raise evPairMismatch else m
  | false, true =>
    if m.pair.poss then (m.put Fld.PAIR_STATUS_SELF_FAULTY 1).handOver causeReferee
    else if m.pair.partnerPoss then m.grantTo causeReferee
    else m
  | true, false =>
    if m.pair.poss then m.put Fld.PAIR_STATUS_PARTNER_FAULTY 1
    else m.put Fld.PAIR_STATUS_SELF_FAULTY 1
  | false, false => m.raise evPairMismatch

/-- One frame of one head with both messages at hand. -/
def Mach.compareFrame (m : Mach) (own partner : SigMsg) : Mach :=
  let excused := own.excused || partner.excused
  let diff := if excused then none else sigDiff own partner
  let m := if excused then m.count Fld.PAIR_CNT_EXCUSED_COUNT else m
  let m := match diff with
    | some src => m.captureMismatch own src
    | none => m
  let alone := m.pair.alone.contains (own.head, own.grid)
  let m := m.syncFrame (excused || alone) diff (diff.isSome && own.refereePass && partner.refereePass)
  (m.arbitrate own partner diff).updProtected

/-- What the partner's signature message has stated of ELIGIBLE stands for 100 µs (R433, log entry 22). -/
def Mach.heardLately (m : Mach) : Bool :=
  m.pair.heard.any fun t => decide (m.time.ticks ≤ t + 25000)

/-- A frame without the partner's message (R433). -/
def Mach.frameAlone (m : Mach) (own : SigMsg) : Mach :=
  if own.refereePass || !m.pair.poss then m
  else if m.pair.partnerEligible && m.heardLately then
    (m.put Fld.PAIR_STATUS_SELF_FAULTY 1).handOver causeReferee
  else m

def sameFrame (a b : SigMsg) : Bool := a.head == b.head && a.grid == b.grid

/-- This unit's own results of a frame: they are sent, and compared where the partner's have come. -/
def Mach.ownResults (m : Mach) (s : SigMsg) : Mach :=
  let m := m.putB Fld.PAIR_STATUS_REF_FAIL !m.pair.refFailed.isEmpty
  let stale := m.pair.ownSigs.filter fun o => o.head == s.head
  let m := stale.foldl (fun m o => m.frameAlone o) m
  let theirs := m.pair.partnerSigs.find? (sameFrame s)
  let m := m.updPair fun p =>
    { p with ownSigs := p.ownSigs.filter fun o => o.head != s.head
             partnerSigs := p.partnerSigs.filter fun o => o.head != s.head }
  let m := if m.is Fld.PAIR_STATUS_LINK_UP then m.send (.pair (.signature s)) else m
  match theirs with
  | some t => m.compareFrame s t
  | none =>
    if m.is Fld.PAIR_STATUS_LINK_UP then
      (m.updPair fun p => { p with ownSigs := p.ownSigs ++ [s] }).updProtected
    else (m.frameAlone s).updProtected

/-- EV_FRAME_DONE of a head. -/
def Mach.frameEnd (m : Mach) (h : Nat) : Mach :=
  let r := m.frameDone h
  match r.2 with
  | some s => r.1.ownResults s
  | none => r.1

/-- The partner's signature message (R430). -/
def Mach.signatureArrives (m : Mach) (s : SigMsg) : Mach :=
  if !m.pairTalks then m
  else
    let m := m.updPair fun p =>
      { p with
        heard := some m.time.ticks
        partnerEligible := s.eligible
        partnerRefFailed := if s.refereePass then p.partnerRefFailed.filter (· != s.head)
          else insertNat p.partnerRefFailed s.head }
    let m := m.putB Fld.PAIR_STATUS_PARTNER_REF_FAIL !m.pair.partnerRefFailed.isEmpty
    let m := if s.selfFaulty then m else m.put Fld.PAIR_STATUS_PARTNER_FAULTY 0
    match m.pair.ownSigs.find? (sameFrame s) with
    | some o =>
      (m.updPair fun p => { p with ownSigs := p.ownSigs.filter fun x => !sameFrame s x }).compareFrame o s
    | none =>
      (m.updPair fun p =>
        { p with partnerSigs := (p.partnerSigs.filter fun o => o.head != s.head) ++ [s] }).updProtected

/-- A ballot from the active (R426): a unit that has acquired possession ignores it (R434). -/
def Mach.ballotReceived (m : Mach) (b : Ballot) : Mach :=
  if !m.pairTalks then m
  else if m.pair.poss then m
  else m.ballotArrives b

/-! ### The port, the partner's power, the watchdog and the commands -/

def Mach.pairLinkUp (m : Mach) : Mach :=
  if m.is Fld.PAIR_STATUS_LINK_UP then m
  else ((m.put Fld.PAIR_STATUS_LINK_UP 1).raise evPairLink).updProtected

/-- The ballots that wait go, and the commits they hold stay pending (R427). -/
def Mach.allBallotsDropped (m : Mach) : Mach :=
  (m.pair.ballots.map fun w => w.ballot.head).foldl Mach.dropBallots m

/-- The port goes down: frames that still wait for the partner's message get none (R433, R438). -/
def Mach.pairLinkDown (m : Mach) : Mach :=
  if !m.is Fld.PAIR_STATUS_LINK_UP then m
  else
    let m := (m.put Fld.PAIR_STATUS_LINK_UP 0).raise evPairLink
    let waiting := m.pair.ownSigs
    let m := m.allBallotsDropped.updPair fun p =>
      { p with ownSigs := [], partnerSigs := [], mirrorFill := 0 }
    (waiting.foldl (fun m o => m.frameAlone o) m).updProtected

def Mach.partnerPower (m : Mach) (good : Bool) : Mach :=
  let m := m.putB Fld.PAIR_STATUS_PARTNER_PG good
  if m.on then m.updProtected else m

/-- WDOG_TIME in TIME_CLK ticks of 4 ns; units of 100 ms. -/
def Mach.wdogTicks (m : Mach) : Nat := m.get Fld.PAIR_SYNC_WDOG_TIME * 25000000

/-- The host has not kicked the watchdog for WDOG_TIME (R434). -/
def Mach.wdogExpiry (m : Mach) : Mach :=
  if m.paired && m.pair.poss && decide (0 < m.wdogTicks) &&
      decide (m.pair.kick + m.wdogTicks ≤ m.time.ticks) then m.handOver causeWdog
  else m

/-- A write of PAIR.CMD (R437). -/
def Mach.pairCommand (m : Mach) (v : Word) : Mach :=
  match v.toNat % 8 with
  | 0 => m
  | 1 => m.updPair fun p => { p with kick := m.time.ticks }
  | 2 =>
    if bitsOf v.toNat 16 16 = 0xA5C3 ∧ m.pair.poss = true ∧
        m.is Fld.PAIR_STATUS_PROTECTED = true then m.handOver causeHost
    else m.put Fld.PAIR_STATUS_CMD_REJECT 1
  | 4 =>
    let m := if m.pair.poss then m else m.syncLost
    (m.put Fld.PAIR_STATUS_SELF_FAULTY 0).updProtected
  | _ => m.put Fld.PAIR_STATUS_CMD_REJECT 1

/-- After a write of PAIR.CTRL: an enable without a valid referee is refused (R432); a disable
releases POSS_N (R420), and a unit that is no standby is not SYNCED (R436). The referees' last results stand
(R419). -/
def Mach.pairCtrlWrote (m was : Mach) : Mach :=
  if m.paired && !was.paired then
    if (m.vaultMajority 0x30).getLsbD 31 then
      { m with pair := { Pair.reset with refFailed := m.pair.refFailed } }.updProtected
    else (m.put Fld.PAIR_CTRL_EN 0).put Fld.PAIR_STATUS_NO_REFEREE 1
  else if was.paired && !m.paired then
    let m := (if m.pair.poss then m.recordCause false causeHost else m).allBallotsDropped
    ({ m with pair := { Pair.reset with refFailed := m.pair.refFailed } }.put Fld.PAIR_STATUS_SYNCED 0).updProtected
  else m

/-- What reads of PAIR.STATUS show. -/
def Mach.showPair (m : Mach) : Mach :=
  (m.putB Fld.PAIR_STATUS_ELIGIBLE m.eligible).put Fld.PAIR_STATUS_ROLE
    (if !m.paired then 0 else if m.pair.poss then 2 else 1)

end Sys2Proof.Machine
end

