-- ==== Sys2Proof/Machine/RegAccess.lean ====
section
/-! DEFINITION. Accesses to register space: which register an access reaches (R5, R146), protection
(R86, R94, R404 to R412), field writes by type and class (R6, R7, R95 to R98), what a write starts,
what a read shows or removes, and mirroring (R422, R423). -/

namespace Sys2Proof.Machine

/-- The device address of a register. -/
def regAddr (slot off : Nat) : Nat := 0x2000000000 + slot * 0x10000 + off

/-! ### Which register (R5, R146) -/

/-- The entry that a master's index register selects; none where the index selects nothing. -/
def Mach.entryOf (m : Mach) (mst : Nat) : Sel → Option Nat
  | .none => some 0
  | .sess => some (m.get (Fld.INGEST_SESS_INDEX_INDEX mst))
  | .stream => some (m.get (Fld.DECSCHED_STREAM_INDEX_INDEX mst))
  | .desc => some (m.get (Fld.DECSCHED_DESC_INDEX_INDEX mst))
  | .layer => let x := m.get (Fld.FRESH_LAYER_INDEX_INDEX mst); if x < 384 then some x else none
  | .fstream => some (m.get (Fld.FRESH_STREAM_INDEX_INDEX mst))
  | .entry => some (m.get (Fld.LEASE_ENTRY_INDEX_INDEX mst))
  | .enc => some (m.get (Fld.ENCSCHED_STREAM_INDEX_INDEX mst))
  | .elem => let x := m.get (Fld.TOUCH_ELEM_INDEX_INDEX mst); if x < min 576 m.touchCount then some x else none
  | .bank => some (m.get Fld.REPAIR_MACRO_INDEX_MACRO)
  | .raw => some (m.get Fld.VAULT_RAW_INDEX_WORD)

/-- Lines 0 to 3 of SEQ0 to SEQ19 are hard-wired: their routing registers read 0 and drop writes. -/
def hardWiredLine (slot off : Nat) : Bool :=
  slot == 3 && decide (0x1000 ≤ off) && decide (off < 0x1000 + 20 * 0x80) && decide (off % 0x80 < 0x10)

/-- The description of the register an access reaches and the entry it selects. -/
def Mach.regAt (m : Mach) (mst slot off : Nat) : Option (RegDesc × Nat) :=
  if hardWiredLine slot off then none
  else
    match findReg slot off with
    | some (d, _) =>
      if d.perMaster then some (d, mst) else (m.entryOf mst d.sel).map fun e => (d, e)
    | none => none

/-! ### Protection (R86, R94, R405, R406, R411, R412) -/

/-- Registers that PROT.BOOT_LOCK locks (R411). -/
def lockedReg (slot off : Nat) : Bool :=
  (slot == 1 && (off == 0x004 || off == 0x040 || (0x100 ≤ off && off < 0x200) || 0x1000 ≤ off)) ||
  (slot == 2 && 0x1000 ≤ off)

/-- The kind of violation of a register access; none where it is allowed. -/
def Mach.regDenied (m : Mach) (mst slot off : Nat) (write : Bool) : Option Nat :=
  if write && m.locked && lockedReg slot off && (findReg slot off).isSome then some violLocked
  else if mst == mstDebug && m.debugActive then none
  else if mst == mstDebug && !m.locked then some (violKind write)
  else if !m.locked && (mst == mstHost || mst == mstChain) then
    if slot == 0 || slot == 5 || slot == 0xE || slot == 0xF then none else some (violKind write)
  else if ruleAllows (m.get (Fld.PROT_SLOT_RULE_RULE slot)) mst write then none
  else some (violKind write)

/-! ### BUSY (R97) -/

/-- A CSC set is used by a latched, enabled layer (R251). -/
def Mach.cscUsed (m : Mach) (s : Nat) : Bool :=
  (List.range 384).any fun x =>
    m.layerOn x && m.lat (Fld.LAYER_FMT_PRESET x) == 0 && m.lat (Fld.LAYER_FMT_CSC_SET x) == s

/-- A descriptor is BUSY: its STATE is not FREE, or an enabled stream's range covers it. -/
def Mach.descBusy (m : Mach) (d : Nat) : Bool :=
  m.descState d != dFree ||
  m.decode.streams.any fun e =>
    m.streamEn e.1 && decide (m.get (Fld.DECSCHED_STREAM_DESC_FIRST e.1) ≤ d) &&
    decide (d < m.get (Fld.DECSCHED_STREAM_DESC_FIRST e.1) + m.get (Fld.DECSCHED_STREAM_DESC_COUNT e.1))

/-- The block that owns a register is BUSY. -/
def Mach.busyAt (m : Mach) (slot off e : Nat) : Bool :=
  if 0xA0 ≤ slot ∧ slot < 0xB8 then m.seqBusy (slot - 0xA0)
  else if 0x80 ≤ slot ∧ slot < 0x94 then m.is (Fld.HEAD_CTRL_EN (slot - 0x80))
  else if 0x10 ≤ slot ∧ slot < 0x14 then m.is (Fld.ETH_CTRL_EN (slot - 0x10))
  else match slot with
    | 0x14 =>
      if off < 0x1000 then m.is (Fld.INGEST_HQ_BASE_LO_EN ((off - 0x200) / 0x10)) else m.sessEn e
    | 0x1B =>
      if off < 0x100 then m.is Fld.DECSCHED_CTRL_EN
      else if off < 0x200 then m.streamEn e || !m.is (Fld.DECSCHED_STREAM_STATUS_DRAINED e)
      else m.descBusy e
    | 0x1D => if off < 0x1000 then m.cscUsed ((off - 0x800) / 32) else m.slotBusy ((off - 0x1000) / 64)
    | 0x1C => m.encEn e || !m.is (Fld.ENCSCHED_STREAM_STATUS_DRAINED e)
    | 0x0C =>
      if off < 0x300 then m.is (Fld.TIME_DOM_CFG_EN ((off - 0x100) / 0x40))
      else if off < 0x340 then m.is (Fld.TIME_FRAME_OUT_CFG_EN ((off - 0x300) / 0x10))
      else if off < 0x350 then m.is Fld.TIME_PPS_OUT_CFG_EN
      else m.is Fld.TIME_REFOUT_CFG_EN
    | 0x0D => m.is Fld.DPLL_CTRL_EN
    | 0x06 => m.is Fld.DRAMC_STATUS_FC_BUSY || (m.boot.romStarted && !m.boot.trained)
    | 0x15 => m.paired
    | 0x16 => m.is Fld.TOUCH_CTRL_EN
    | 0x18 => m.checkBusy ((off - 0x400) / 0x40)
    | _ => false

/-! ### Field writes (R6, R7, R97) -/

/-- One field of a written word: the register's new word, and whether the write of the field is
rejected. `shown` is what a read gives; `feeds` marks a WO field that takes every write. -/
def FldDesc.write (busy feeds : Bool) (shown v : Word) (p : Word × Bool) (f : FldDesc) :
    Word × Bool :=
  let held := busy && f.cls == .held
  let n := bitsOf v.toNat f.lo f.width
  let cur := bitsOf p.1.toNat f.lo f.width
  match f.acc with
  | .ro => p
  | .rw =>
    if held then (p.1, p.2 || n != bitsOf shown.toNat f.lo f.width)
    else (setBits p.1 f.lo f.width n, p.2)
  | .wo => (p.1, p.2 || (held && (feeds || n != 0)))
  | .w1c => (setBits p.1 f.lo f.width (cur ^^^ (cur &&& n)), p.2)
  | .w1cCount => (if n = 2 ^ f.width - 1 then setBits p.1 f.lo f.width 0 else p.1, p.2)
  | .w1s => (setBits p.1 f.lo f.width (cur ||| n), p.2)

/-- CHECK Un_DATA and Un_DATA8 feed data: every write is a write of them (R97). -/
def feedsData (slot off : Nat) : Bool :=
  slot == 0x18 && 0x400 ≤ off && (off % 0x40 == 0x18 || off % 0x40 == 0x1C)

/-- EN and DRAINED of an entry whose enable is rejected while DRAINED = 0 (R148, R177). -/
def drainGate (slot off e : Nat) : Option (Fld × Fld) :=
  if slot = 0x14 ∧ off = 0x1000 then
    some (Fld.INGEST_SESS_CTRL_EN e, Fld.INGEST_SESS_STATUS_DRAINED e)
  else if slot = 0x1B ∧ off = 0x104 then
    some (Fld.DECSCHED_STREAM_CTRL_EN e, Fld.DECSCHED_STREAM_STATUS_DRAINED e)
  else none

/-- The word written, with an enable that is rejected taken out. -/
def Mach.gated (m : Mach) (slot off e : Nat) (v : Word) : Word × Bool :=
  match drainGate slot off e with
  | some (en, dr) =>
    if bitsOf v.toNat en.lo 1 = 1 ∧ m.is en = false ∧ m.is dr = false then (setBits v en.lo 1 0, true)
    else (v, false)
  | none => (v, false)

/-! ### What a read shows -/

/-- The state with the computed fields of a register set to what a read of it shows. -/
def Mach.shown (m : Mach) (slot off e : Nat) : Mach :=
  if 0xA0 ≤ slot ∧ slot < 0xB8 then m.showSeq (slot - 0xA0)
  else if 0x20 ≤ slot ∧ slot < 0x60 then m.showCell (slot - 0x20)
  else if 0x60 ≤ slot ∧ slot < 0x70 then m.showEncCell (slot - 0x60)
  else match slot with
    | 0x01 => (m.putB Fld.PROT_STATUS_LOCKED m.locked).putB Fld.PROT_STATUS_DEBUG_ACTIVE m.debugActive
    | 0x06 => m.showDramc
    | 0x0B => if 0x60 ≤ off ∧ off < 0x80 then m.showMacro e else m.showRepair
    | 0x0C => ((m.showDom 0).showDom 1).showTime
    | 0x0D => m.showDpll
    | 0x15 => m.showPair
    | 0x17 => if 0x200 ≤ off ∧ off < 0x240 then m.showDeflQ ((off - 0x200) / 4) else m.showDefl
    | 0x18 => if 0x400 ≤ off then m.showCheckUnit ((off - 0x400) / 0x40) else m.showCheck
    | 0x1B => if off < 0x100 then m.showDecsched else if off < 0x200 then m.showStream e else m
    | 0x1A => m.showLease e
    | 0x1C => if off < 0x100 then m.showEncsched else m
    | 0x1D => if 0x1000 ≤ off then m.showLeases ((off - 0x1000) / 64) else m.showPool
    | _ => m

/-- A read of LEASE.ENDED returns the oldest entry and removes it (R261). -/
def Mach.leaseEnded (m : Mach) : Mach × Word :=
  let ovf := m.leases.endedOverflow.toNat * 2 ^ 30
  match m.leases.ended with
  | [] => (m.updLeases fun t => { t with endedOverflow := false }, BitVec.ofNat 32 ovf)
  | (h, x, p) :: r =>
    (m.updLeases fun t => { t with ended := r, endedOverflow := false },
     BitVec.ofNat 32 (2 ^ 31 + ovf + h * 2 ^ 20 + p * 2 ^ 19 + x))

/-- The value of a register that a read reaches; some reads remove an entry or repair a word. -/
def Mach.readAt (m : Mach) (slot off e key : Nat) : Mach × Word :=
  if key = Reg.DECSCHED_RETIRE then m.readRetire
  else if key = Reg.LEASE_ENDED then m.leaseEnded
  else if key = Reg.TOUCH_CHANGE then m.touchChange
  else if key = Reg.REPAIR_OFFLINE then m.readOffline
  else if key = Reg.PROT_FENCE then (m, 1)
  else if slot = 2 ∧ 0x1000 ≤ off then m.vaultRead ((off - 0x1000) / 4)
  else if slot = 2 ∧ off = 0x24 then (m, (m.vaultCopies e).1)
  else if slot = 2 ∧ off = 0x28 then (m, (m.vaultCopies e).2.1)
  else if slot = 2 ∧ off = 0x2C then (m, (m.vaultCopies e).2.2)
  else (m, (m.shown slot off e).rd key)

/-- A register read by a master: the value, and whether it was denied (R5, R406, R407). -/
def Mach.regRead (m : Mach) (mst slot off : Nat) : Mach × Word × Bool :=
  match m.regDenied mst slot off false with
  | some k => (m.violate k slot mst (regAddr slot off), 0x0BAD0BAD, true)
  | none =>
    match m.regAt mst slot off with
    | none => (m, 0, false)
    | some (_, e) =>
      let r := m.readAt slot off e (regKey e slot off)
      (r.1, r.2, false)

/-! ### What a write starts -/

/-- The commands and side effects of a write that has been stored: `was` is the state before it,
`aux` the entries that the host has filled in its transmit ring (R165). -/
def Mach.wroteBlock (m was : Mach) (mst slot off e : Nat) (v : Word) (aux : List (List Byte)) : Mach :=
  if 0xA0 ≤ slot ∧ slot < 0xB8 then m.seqWrote (slot - 0xA0) off v
  else if 0x80 ≤ slot ∧ slot < 0x94 then
    let h := slot - 0x80
    if off = 0x000 then m.headEnable was h
    else if off = 0x010 then m.headCommit h v
    else if off < 0x200 then m
    else if h < 16 then m.dpWrote h off v
    else m.dsiWrote h off v
  else if 0x20 ≤ slot ∧ slot < 0x60 then if off = 0 then m.shed else m
  else match slot with
    | 0x00 =>
      if off = 0x100 then m.pwrWrote was v
      else if off = 0x110 then
        if v.getLsbD 0 = true ∧ bitsOf v.toNat 16 16 = 0xA5C3 then m.softReset else m
      else m
    | 0x01 => if off = 0 ∧ !was.locked ∧ m.locked then m.bootLocked else m
    | 0x02 =>
      if off = 0x008 then m.vaultInject v
      else if 0x1000 ≤ off then m.vaultWrite ((off - 0x1000) / 4) v
      else m
    | 0x03 =>
      if off = 0x008 then
        forEach ((List.range 15).filter fun d => v.getLsbD d) m fun m d => m.raise (evDoorbell d)
      else m
    | 0x04 =>
      if 0x100 ≤ off ∧ off < 0x500 then
        let c := (off - 0x100) / 0x20
        if off % 0x20 = 0 ∨ (off % 0x20 = 8 ∧ v.getLsbD 0 = true) then m.monClear c else m
      else m
    | 0x05 => m.bootWrote off v
    | 0x06 =>
      if off = 0x20 then m.fcWrote v
      else if off = 0x50 then m.freezeCtrl v
      else if off = 0x60 then m.diagWrote v
      else m
    | 0x0A => if off = 0x44 then m.unwriteWrote mst v else m
    | 0x0B => if off = 0x50 then m.injectWrote else m
    | 0x0C => m.timeWrote off v
    | 0x0D => m.dpllWrote off v
    | 0x0F => m.chainWrote off v
    | 0x14 =>
      if off = 0x258 then
        (m.put Fld.INGEST_HQ5_PTR_PROD (was.get Fld.INGEST_HQ5_PTR_PROD)).hq5Produce
          (bitsOf v.toNat 16 16) aux
      else if off = 0x1000 then m.sessWrote was e
      else m
    | 0x15 =>
      if off = 0 then m.pairCtrlWrote was
      else if off = 8 then m.pairCommand v
      else m.updProtected
    | 0x16 => m.touchWrote was mst off v
    | 0x17 => if off = 0x40 then m.deflWrote mst v else m
    | 0x18 =>
      if off = 0x40 then m.checkWrote mst v
      else if 0x400 ≤ off then
        let u := (off - 0x400) / 0x40
        if off % 0x40 = 0x18 then m.checkFeed u (wordLE v)
        else if off % 0x40 = 0x1C then m.checkFeed u (toLE 1 v.toNat)
        else if off % 0x40 = 0x20 then m.checkCtrl u v
        else m
      else m
    | 0x19 => if off = 0x010 then m.poolCommit true v else m
    | 0x1B =>
      if off = 0x104 then m.streamWrote was e
      else if off = 0x224 then m.descCommand e v
      else if off = 0x024 then m.shed
      else m
    | 0x1C =>
      if off = 0x104 then m.encWrote was e
      else if off = 0x138 ∧ v.getLsbD 0 = true then m.encForce e
      else m
    | 0x1D =>
      if off = 0x010 then m.poolCommit false v
      else if 0x1000 ≤ off ∧ off % 64 = 0 then m.ownWrote was ((off - 0x1000) / 64)
      else m
    | _ => m

/-- Registers of reserved event sources accept writes without effect (R477). -/
def deafReg (slot off : Nat) : Bool :=
  slot == 3 && ((0x400 ≤ off && off < 0x800 && reservedSource ((off - 0x400) / 4)) ||
    (0x800 ≤ off && off < 0xC00 && reservedSource ((off - 0x800) / 4)))

/-- A write that a HELD data or action field rejects starts nothing (R97). -/
def startsOnly (slot off : Nat) : Bool :=
  slot == 0x18 && 0x400 ≤ off && (off % 0x40 == 0x18 || off % 0x40 == 0x1C || off % 0x40 == 0x20)

/-- A write at a register with its entry resolved: the fields by type and class, the rejection
(R98), and what the write starts. -/
def Mach.writeAt (m : Mach) (mst slot off e : Nat) (d : RegDesc) (v : Word) (aux : List (List Byte)) :
    Mach :=
  let key := regKey e slot off
  if deafReg slot off then m
  else if slot = 0x14 ∧ off = 0x1048 then m.mapWrite e v
  else
    let g := m.gated slot off e v
    let p := d.flds.foldl
      (FldDesc.write (m.busyAt slot off e) (feedsData slot off) ((m.shown slot off e).rd key) g.1)
      (m.rd key, g.2)
    let w := if slot = 2 ∧ 0x1000 ≤ off then m else m.wr key p.1
    let w := if p.2 && startsOnly slot off then w else w.wroteBlock m mst slot off e g.1 aux
    if p.2 then w.cfgReject mst slot off else w

/-! ### Pairs (R422, R423) -/

/-- Registers that the active unit mirrors: of LAYERPOOL and FRESH those with a field that a write can change. -/
def mirroredReg (slot off : Nat) : Bool :=
  match findReg slot off with
  | none => false
  | some (d, _) =>
    let writable := d.flds.any fun f => f.acc != .ro
    (0x80 ≤ slot && slot < 0x94 && off < 0x200) || (slot == 0x1D && writable) ||
    (slot == 0x19 && writable &&
      (off == 0x010 || (0x104 ≤ off && off < 0x200) || (0x204 ≤ off && off < 0x300)))

/-- The standby drops the write (R423). -/
def Mach.standbyDrops (m : Mach) (mst slot off : Nat) : Bool :=
  m.standby && mst != mstPair && mst != mstDebug && mirroredReg slot off

/-- What the block has accepted of a written word: RW fields as the write has left them, the others as they were
written. None where the write has been rejected altogether. -/
def Mach.acceptedWord (m was : Mach) (key : Nat) (flds : List FldDesc) (v : Word) : Option Word :=
  let w := flds.foldl (fun w f =>
    if f.acc = .rw then setBits w f.lo f.width (bitsOf (m.rd key).toNat f.lo f.width) else w) v
  if w = v ∨ m.rd key ≠ was.rd key then some w else none

/-- The active unit forwards what it accepts of a write (R422): `was` is the state before it. -/
def Mach.mirrorReg (m was : Mach) (mst slot off e : Nat) (v : Word) : Mach :=
  if m.paired && m.pair.poss && m.is Fld.PAIR_CTRL_MIRROR && m.is Fld.PAIR_STATUS_LINK_UP &&
      mst != mstPair && mirroredReg slot off
  then match m.acceptedWord was (regKey e slot off)
      (((findReg slot off).map fun r => r.1.flds).getD []) v with
    | some w => m.send (.pair (.mirrorReg slot off e w))
    | none => m
  else m

/-- What became of a register write. -/
inductive WriteEnd
  | done | dropped | denied
  deriving DecidableEq, Repr

/-- An allowed write reaches its block. -/
def Mach.regStore (m : Mach) (mst slot off : Nat) (v : Word) (aux : List (List Byte)) :
    Mach × WriteEnd :=
  match m.regAt mst slot off with
  | none => (m, .done)
  | some (d, e) =>
    if m.standbyDrops mst slot off then (m.count Fld.PAIR_CNT_BLOCKED_COUNT, .dropped)
    else (((m.writeAt mst slot off e d v aux).mirrorReg m mst slot off e v).encWatch.idleWatch, .done)

/-- A register write by a master (R5, R406, R407): a vault word after the lock is reported as dropped
as well (R401). -/
def Mach.regWriteAux (m : Mach) (mst slot off : Nat) (v : Word) (aux : List (List Byte)) :
    Mach × WriteEnd :=
  match m.regDenied mst slot off true with
  | some k =>
    let m := if k = violLocked ∧ slot = 2 then m.put Fld.VAULT_STATUS_WRITE_DROPPED 1 else m
    (m.violate k slot mst (regAddr slot off), .denied)
  | none => m.regStore mst slot off v aux

def Mach.regWrite (m : Mach) (mst slot off : Nat) (v : Word) : Mach × WriteEnd :=
  m.regWriteAux mst slot off v []

/-- A mirrored register write arrives at the standby and is performed with master PAIR, at the entry
that the active resolved (R422). -/
def Mach.mirrorRegArrives (m : Mach) (slot off e : Nat) (v : Word) : Mach :=
  if !m.pairTalks || m.pair.poss || !mirroredReg slot off then m
  else
    match m.regDenied mstPair slot off true with
    | some k => m.violate k slot mstPair (regAddr slot off)
    | none =>
      match findReg slot off with
      | none => m
      | some (d, _) => ((m.writeAt mstPair slot off e d v []).encWatch).idleWatch

/-- A mirrored memory write arrives at the standby (R424), where a lease may refuse it (R425). -/
def Mach.mirrorMemArrives (m : Mach) (addr : Nat) (data : List Byte) : Mach :=
  if !m.pairTalks || m.pair.poss then m
  else m.memAccess mstPair addr data.length (some data) .data

/-! ### Any access -/

/-- Deliver data to whoever asked for it. -/
def Mach.deliver (m : Mach) (mst : Nat) (bytes : List Byte) : Reply → Mach
  | .data => m.send (.data mst bytes)
  | .host => m.send (.hostRead bytes)
  | .chain tag => m.sendChain true (.completion tag bytes)

/-- A read of PROT.FENCE: it completes when every earlier access has (R410). -/
def Mach.fenceRead (m : Mach) (mst : Nat) (r : Reply) : Mach :=
  if m.drained m.nextAccess then m.deliver mst (wordLE 1) r
  else { m with fences := m.fences ++ [(mst, m.nextAccess, r)] }

/-- The reads of PROT.FENCE whose drain has ended return 1. -/
def Mach.fencesDone (m : Mach) : Mach :=
  let ended := m.fences.filter fun f => m.drained f.2.1
  let m := { m with fences := m.fences.filter fun f => !m.drained f.2.1 }
  ended.foldl (fun m f => m.deliver f.1 (wordLE 1) f.2.2) m

/-- A register-space access of any length: only an aligned word has an effect (R5). -/
def Mach.regAccess (m : Mach) (mst slot off len : Nat) (data : Option (List Byte)) (r : Reply) : Mach :=
  match data with
  | some d =>
    if d.length = 4 ∧ off % 4 = 0 then (m.regWrite mst slot off (BitVec.ofNat 32 (leNat d))).1 else m
  | none =>
    if len ≠ 4 ∨ off % 4 ≠ 0 then m.deliver mst (List.replicate len 0) r
    else if slot = 1 ∧ off = 8 ∧ (m.regDenied mst slot off false).isNone = true then m.fenceRead mst r
    else (m.regRead mst slot off).1.deliver mst (wordLE (m.regRead mst slot off).2.1) r

/-- An access to a device address; one of the host waits behind an earlier one that does (R73). -/
def Mach.busAccess (m : Mach) (mst addr len : Nat) (data : Option (List Byte)) (r : Reply) : Mach :=
  match placeOf addr with
  | .regs slot off =>
    if m.hostWaits mst then m.holdAccess mst addr len data r []
    else m.regAccess mst slot off len data r
  | _ => m.memAccess mst addr len data r

/-- A register write that is a command of its own; one of the host waits behind an earlier access that does
(R73). -/
def Mach.regIssue (m : Mach) (mst slot off : Nat) (v : Word) (ring : List (List Byte)) : Mach :=
  if m.hostWaits mst then m.holdAccess mst (regAddr slot off) 4 (some (wordLE v)) .data [] ring
  else (m.regWriteAux mst slot off v ring).1

/-- A held access takes effect where it belongs. -/
def Mach.heldDone (m : Mach) (h : HeldAccess) : Mach :=
  if msixBase ≤ h.addr then m.msixDo (h.addr - msixBase) (h.data.map fun d => BitVec.ofNat 32 (leNat d))
  else match placeOf h.addr with
    | .regs slot off =>
      if h.ring.isEmpty then m.regAccess h.mst slot off h.len h.data h.reply
      else (m.regWriteAux h.mst slot off (BitVec.ofNat 32 (leNat (h.data.getD []))) h.ring).1
    | _ => m.heldPerform h

/-- Perform held accesses in order until one meets a controller that holds again; those of a master wait behind
its mirrored write for which there is no room. -/
def Mach.resumeRun (m : Mach) (stuck : List Nat) : List HeldAccess → Mach
  | [] => m
  | h :: r =>
    if m.dramHolds then m.updDram fun d => { d with held := h :: r ++ d.held }
    else if stuck.contains h.mst || m.heldFull h then
      (m.resumeRun (h.mst :: stuck) r).updDram fun d => { d with held := h :: d.held }
    else (m.heldDone h).resumeRun stuck r

/-- What has waited goes on, once the controller serves (R43, R73, R365), in the order of service (R369). -/
def Mach.resume (m : Mach) : Mach :=
  if m.dramHolds || m.dram.held.isEmpty then m
  else (m.updDram fun d => { d with held := [] }).resumeRun [] (m.qosOrder m.dram.held)

end Sys2Proof.Machine
end

