-- ==== Sys2Proof/WellFormed.lean ====
section
/-! DEFINITION. Which commands name instances and entries that the module has: one check for each
kind of operand, and the commands that use it. -/

namespace Sys2Proof

/-- A sequencer, 0 to 23. -/
def seqOk (n : Nat) : Bool := decide (n < 24)

/-- A head, 0 to 19; a DisplayPort head, 0 to 15; a DSI head, 16 to 19. -/
def headOk (h : Nat) : Bool := decide (h < 20)
def dpOk (h : Nat) : Bool := decide (h < 16)
def dsiOk (h : Nat) : Bool := decide (16 ≤ h ∧ h < 20)

/-- An Ethernet port, 0 to 3. -/
def ethOk (p : Nat) : Bool := decide (p < 4)

/-- A session, 0 to 4095. -/
def sessOk (x : Nat) : Bool := decide (x < 4096)

/-- A decode cell, 0 to 63; an encode cell, 0 to 15. -/
def decOk (c : Nat) : Bool := decide (c < 64)
def encOk (c : Nat) : Bool := decide (c < 16)

/-- A decode stream, 0 to 2047; an encode stream, 0 to 31. -/
def streamOk (x : Nat) : Bool := decide (x < 2048)
def estreamOk (x : Nat) : Bool := decide (x < 32)

/-- A picture descriptor, 0 to 16383. -/
def descOk (d : Nat) : Bool := decide (d < 16384)

/-- A master ID, one byte. -/
def mstOk (x : Nat) : Bool := decide (x < 256)

/-- A domain, 0 or 1; a DPLL input, 0 to 9; a view, 0 to 2. -/
def domOk (d : Nat) : Bool := decide (d < 2)
def inputOk (k : Nat) : Bool := decide (k < 10)
def viewOk (v : Nat) : Bool := decide (v < 3)

/-- A DRAM channel, 0 to 15. -/
def channelOk (c : Nat) : Bool := decide (c < 16)

/-- One of four balls or outputs. -/
def fourOk (k : Nat) : Bool := decide (k < 4)

/-- A monitor channel, 0 to 31. -/
def monOk (c : Nat) : Bool := decide (c < 32)

/-- A check unit, 0 to 7. -/
def unitOk (u : Nat) : Bool := decide (u < 8)

/-- A register slot. -/
def slotOk (x : Nat) : Bool := decide (x < 256)

/-- A register offset within a slot. -/
def offOk (o : Nat) : Bool := decide (o < 0x10000)

/-- A RAM or register access of 1 to 65536 bytes within the 40-bit address space; written data has the
access's length. -/
def accessOk (addr len : Nat) (data : Option (List Byte)) : Bool :=
  decide (0 < len ∧ len ≤ 0x10000 ∧ addr + len ≤ 0x10000000000) &&
    (data.elim true fun d => d.length == len)

/-- A remote access; an address beyond the device's is unmapped (R64). -/
def remoteOk (len : Nat) (data : Option (List Byte)) : Bool :=
  decide (0 < len ∧ len ≤ 0x10000) && (data.elim true fun d => d.length == len)

/-- A PCI Express access: within a 4 KiB page of the BAR. -/
def barOk (size off len : Nat) (data : Option (List Byte)) : Bool :=
  decide (0 < len ∧ off % 4096 + len ≤ 4096 ∧ off < size) &&
    (data.elim true fun d => d.length == len)

/-- A chain address, 0 to 63. -/
def chainOk (a : Nat) : Bool := decide (a < 64)

/-- A host queue, 0 to 5. -/
def hqOk (q : Nat) : Bool := decide (q < 6)

/-- A layer slot, 0 to 383. -/
def slotIndexOk (x : Nat) : Bool := decide (x < 384)

/-- Slices and units that a packet lets go name at most as many as fit a window. -/
def envOk (env : RxEnv) : Bool := decide (env.slices.length ≤ 0x8000 ∧ env.units.length ≤ 0x8000)

/-- Blocks of a front are written by cells that exist. -/
def frontOk (f : FrontFacts) : Bool := f.writes.all fun w => decOk w.cell

def lineOk (env : LineEnv) : Bool := env.fronts.all fun e => frontOk e.2

/-- Motion vectors lie within the search window, ±192 × ±96 positions, in quarter pels (R310). -/
def ctuOk (c : CtuCode) : Bool :=
  c.vectors.all fun v => decide (v.1.natAbs ≤ 768 ∧ v.2.natAbs ≤ 384)

/-- An instant within one period of TIME_CLK, in units of 2^-28 ns. -/
def partOk (part : Nat) : Bool := decide (part < 2 ^ 30)

/-- A channel's training results: the eyes of its two byte lanes. -/
def trainingOk (r : ChannelTraining) : Bool :=
  channelOk r.channel && r.eyes.all fun e =>
    decide (e.point < 4 ∧ e.byte < 2 ∧ e.read ≤ 100 ∧ e.write ≤ 100 ∧ e.command ≤ 100)

/-- A report of a channel gives the eyes of both its byte lanes at a point. -/
def reportsPoint (r : ChannelTraining) (p : Nat) : Bool :=
  [0, 1].all fun b => r.eyes.any fun e => e.point == p && e.byte == b

/-- Training at power-up reports all 16 channels at all four points (R360). -/
def trainedWhole (rs : List ChannelTraining) : Bool :=
  rs.all trainingOk && (List.range 16).all fun c => (List.range 4).all fun p =>
    rs.any fun r => r.channel == c && reportsPoint r p

/-- A failed verification names byte lanes of a channel (R366). -/
def laneFailureOk (r : LaneFailure) : Bool := channelOk r.channel && decide (0 < r.bytes ∧ r.bytes < 4)

/-- A vault word, 0 to 255. -/
def vaultOk (k : Nat) : Bool := decide (k < 256)

/-- A mirrored write names a register offset, or bytes in the address space. -/
def mirrorOk : MirrorWrite → Bool
  | .register slot off _ _ => slotOk slot && offOk off
  | .memory addr bytes => accessOk addr bytes.length (some bytes)

/-- The command names only instances and entries that exist. -/
def Instr.wf : Instr → Bool
  | .powerOn => true
  | .railsPowerGood => true
  | .railFailure => true
  | .railRetry => true
  | .bootRomStart sel => decide (sel < 4)
  | .fsWrittenBitsCleared => true
  | .dramTrainingDone rs => trainedWhole rs
  | .dramZeroFillDone => true
  | .qspiImageReadDone _ => true
  | .bootHostLoadGo mst _ => mstOk mst
  | .bootSignatureVerified => true
  | .bootSegmentCopyDone => true
  | .bootNoLockTimeout => true
  | .bootLock mst _ => mstOk mst
  | .vinLow => true
  | .powerDown => true
  | .powerDownDone => true
  | .resetNAssert => true
  | .resetNRelease => true
  | .softReset mst _ => mstOk mst
  | .thermWarn => true
  | .thermalTrip => true
  | .pwrTargetRun mst _ => mstOk mst
  | .pwrTargetIdle mst _ => mstOk mst
  | .pwrRequestKeep mst _ _ => mstOk mst
  | .pwrRequestDormant mst _ _ => mstOk mst
  | .keepReached _ => true
  | .dormantReached _ => true
  | .wake => true
  | .idleEntry => true
  | .idleWakeAccess => true
  | .i2cTelemetryRead off len _ _ _ => decide (off < 256 ∧ len ≤ 256)
  | .i2cEepromRead off len => decide (off < 256 ∧ len ≤ 256)
  | .i2cEepromWrite off data => decide (off < 256 ∧ data.length ≤ 256)
  | .registerWrite mst slot off _ => mstOk mst && slotOk slot && offOk off
  | .memoryAccess mst addr len data _ => mstOk mst && accessOk addr len data
  | .pcieLinkUp => true
  | .pcieLinkDown _ => true
  | .pcieD3hot => true
  | .bar0Access off len data => barOk 0x40000000 off len data
  | .bar2Access off len data => barOk 0x100000000 off len data
  | .remoteRequestReceive _ target _ len _ data => chainOk target && remoteOk len data
  | .remoteCompletion _ _ => true
  | .remoteReadTimeout _ => true
  | .flitReceive _ _ => true
  | .apbudLinkUp _ => true
  | .apbudLinkDown _ => true
  | .linkChangeReport p => chainOk p
  | .chainEnumStart mst _ => mstOk mst
  | .tokenReceive value gen => decide (value ≤ 64 ∧ gen < 256)
  | .endReceive count _ => decide (0 < count ∧ count ≤ 64)
  | .eventForward origin => chainOk origin
  | .relayFlitReceive hq _ _ => hqOk hq
  | .relayCreditTimeout _ => true
  | .add n _ _ _ => seqOk n
  | .sub n _ _ _ => seqOk n
  | .and n _ _ _ => seqOk n
  | .or n _ _ _ => seqOk n
  | .xor n _ _ _ => seqOk n
  | .shl n _ _ _ => seqOk n
  | .shr n _ _ _ => seqOk n
  | .sra n _ _ _ => seqOk n
  | .mul n _ _ _ => seqOk n
  | .mulh n _ _ _ => seqOk n
  | .min n _ _ _ => seqOk n
  | .max n _ _ _ => seqOk n
  | .slt n _ _ _ => seqOk n
  | .sltu n _ _ _ => seqOk n
  | .addi n _ _ _ => seqOk n
  | .andi n _ _ _ => seqOk n
  | .ori n _ _ _ => seqOk n
  | .xori n _ _ _ => seqOk n
  | .shli n _ _ _ => seqOk n
  | .shri n _ _ _ => seqOk n
  | .srai n _ _ _ => seqOk n
  | .lui n _ _ => seqOk n
  | .ld n _ _ _ => seqOk n
  | .st n _ _ _ => seqOk n
  | .setw n _ _ _ => seqOk n
  | .ldr n _ _ _ => seqOk n
  | .ldrDone n => seqOk n
  | .str n _ _ _ => seqOk n
  | .strDone n => seqOk n
  | .beq n _ _ _ => seqOk n
  | .bne n _ _ _ => seqOk n
  | .blt n _ _ _ => seqOk n
  | .bge n _ _ _ => seqOk n
  | .bltu n _ _ _ => seqOk n
  | .bgeu n _ _ _ => seqOk n
  | .jal n _ _ => seqOk n
  | .jr n _ => seqOk n
  | .pcRunOn n => seqOk n
  | .wline n _ _ _ => seqOk n
  | .wlineEnd n => seqOk n
  | .wtime n _ _ => seqOk n
  | .wtimeEnd n => seqOk n
  | .wevt n _ _ _ => seqOk n
  | .wevtEnd n => seqOk n
  | .wcyc n _ _ => seqOk n
  | .wcycEnd n => seqOk n
  | .waitTimeout n => seqOk n
  | .post n _ _ => seqOk n
  | .cmt n _ _ _ => seqOk n
  | .cmtDone n => seqOk n
  | .job n _ _ _ _ => seqOk n
  | .fprot n => seqOk n
  | .fprotDrainDone n => seqOk n
  | .crc n _ _ _ => seqOk n
  | .rdt n _ _ => seqOk n
  | .halt n => seqOk n
  | .nop n => seqOk n
  | .brk n _ => seqOk n
  | .illegalInstruction n => seqOk n
  | .breakpointHit n => seqOk n
  | .seqStop mst n _ => mstOk mst && seqOk n
  | .seqStopped n => seqOk n
  | .seqStart mst n _ => mstOk mst && seqOk n
  | .seqResume mst n _ => mstOk mst && seqOk n
  | .seqStep mst n _ => mstOk mst && seqOk n
  | .seqIramWrite mst n off _ => mstOk mst && seqOk n && decide (off < 0x8000 ∧ off % 4 = 0)
  | .seqDbgDataWrite mst n _ => mstOk mst && seqOk n
  | .ethFrameReceive port _ _ env => ethOk port && envOk env
  | .relayPacketReceive _ target session _ _ env => chainOk target && sessOk session && envOk env
  | .unitLossWaitExpiry x _ => sessOk x
  | .unitRelease x _ _ => sessOk x
  | .ethLinkChange port _ _ => ethOk port
  | .ethSidebandChange port _ _ _ => ethOk port
  | .sessionEnable mst _ => mstOk mst
  | .sessionDisable mst _ => mstOk mst
  | .sessionDrained x => sessOk x
  | .sessionActiveTimeout x => sessOk x
  | .sessionMapWrite mst _ => mstOk mst
  | .hq5ProdWrite mst _ entries => mstOk mst && entries.all fun e => decide (32 ≤ e.length ∧ e.length ≤ 2048)
  | .hostqTransmitDone sent => decide (32 ≤ sent.entry.length ∧ sent.entry.length ≤ 2048)
  | .partitionEnded c _ _ front => decOk c && frontOk front
  | .cellChoose c _ => decOk c
  | .partitionDone c front _ => decOk c && frontOk front
  | .boundaryFilterDone d _ _ front => descOk d && frontOk front
  | .pictureWritesDrained c d _ _ => decOk c && descOk d
  | .partitionTimeout c left => decOk c && frontOk left.front
  | .streamEnable mst _ => mstOk mst
  | .streamDisable mst _ => mstOk mst
  | .streamDrained x => streamOk x
  | .descFree mst _ => mstOk mst
  | .descKeepSet mst _ => mstOk mst
  | .descKeepClr mst _ => mstOk mst
  | .decschedRetireRead mst => mstOk mst
  | .fabricEnable mst _ => mstOk mst
  | .fabricDisable mst _ => mstOk mst
  | .decCellDisable mst c _ => mstOk mst && decOk c
  | .headEnable mst h _ => mstOk mst && headOk h
  | .headStart h env => headOk h && lineOk env
  | .headDisable mst h _ => mstOk mst && headOk h
  | .headSlateForce mst h _ => mstOk mst && headOk h
  | .headLineStart h env => headOk h && lineOk env
  | .frameDone h => headOk h
  | .headCommit mst h _ => mstOk mst && headOk h
  | .layerpoolCommit mst _ => mstOk mst
  | .freshCommit mst _ => mstOk mst
  | .layerAssign mst x _ => mstOk mst && slotIndexOk x
  | .leaseEndedRead mst => mstOk mst
  | .dpTrain mst h _ => mstOk mst && dpOk h
  | .dpTrainDone h _ _ _ _ _ => dpOk h
  | .dpUnplug h => dpOk h
  | .dpReplug h => dpOk h
  | .dpIrqHpd h _ => dpOk h
  | .auxNativeWrite mst h _ => mstOk mst && dpOk h
  | .auxNativeRead mst h _ => mstOk mst && dpOk h
  | .auxI2cWrite mst h _ => mstOk mst && dpOk h
  | .auxI2cRead mst h _ => mstOk mst && dpOk h
  | .auxReply h kind count bytes => dpOk h && decide (kind < 3 ∧ count ≤ 16 ∧ bytes.length ≤ 16)
  | .auxTimeout h => dpOk h
  | .auxDeferRetry h => dpOk h
  | .dcsShortWrite mst h _ => mstOk mst && dsiOk h
  | .dcsShortWriteParam mst h _ => mstOk mst && dsiOk h
  | .dcsLongWrite mst h _ => mstOk mst && dsiOk h
  | .dcsRead mst h _ => mstOk mst && dsiOk h
  | .dsiCmdDone h _ report => dsiOk h && report.elim true fun e => decide (e < 0x10000)
  | .dsiPanelReset mst h _ => mstOk mst && dsiOk h
  | .dsiTeEdge h => dsiOk h
  | .dsiTeLost h => dsiOk h
  | .encStreamEnable mst _ => mstOk mst
  | .encStreamDisable mst _ => mstOk mst
  | .encStreamDrained e => estreamOk e
  | .encForceIdr mst _ => mstOk mst
  | .encSliceReady e => estreamOk e
  | .encPictureStart e _ _ => estreamOk e
  | .encSliceStart c => encOk c
  | .encSliceDone c ctus _ _ => encOk c && ctus.all ctuOk
  | .encPacketSend e => estreamOk e
  | .encCellDisable mst c _ => mstOk mst && encOk c
  | .timeSnap mst _ => mstOk mst
  | .domainSample mst d _ => mstOk mst && domOk d
  | .domainEnable mst d _ => mstOk mst && domOk d
  | .domainDisable mst d _ => mstOk mst && domOk d
  | .domainTimeout d => domOk d
  | .domainHoldMax d => domOk d
  | .chainTimeExchange part => partOk part
  | .chainTimeRequest part _ => partOk part
  | .chainTimeReply _ _ _ _ _ _ part => partOk part
  | .ppsInEdge _ part => partOk part
  | .dpllInputValidity k _ _ => inputOk k
  | .dpllInputQualified k => inputOk k
  | .dpllClockEdge k part => decide (2 ≤ k ∧ k < 9) && partOk part
  | .dpllEnable mst _ => mstOk mst
  | .dpllDisable mst _ => mstOk mst
  | .dpllHoldMax => true
  | .phaseStep mst _ => mstOk mst
  | .phaseSlew mst _ => mstOk mst
  | .phaseSlewDone => true
  | .frameOutEdge k => fourOk k
  | .ppsOutEdge => true
  | .dramFreqChangeRequest mst _ => mstOk mst
  | .dramFreqChangeStart => true
  | .dramFreqChangeNoWindow => true
  | .dramFreqChangeDone _ blackout => decide (blackout ≤ 6000)
  | .dramFreqChangeReverted rs blackout =>
    !rs.isEmpty && rs.all laneFailureOk && decide (blackout ≤ 13000)
  | .dramRetrain r _ => trainingOk r
  | .dramRefresh channel _ => channelOk channel
  | .dramCommandError mst cmd addr => mstOk mst && decide (cmd < 4 ∧ addr < 0x700000000)
  | .dramFreezeRelease mst _ => mstOk mst
  | .diagRawRead mst _ => mstOk mst
  | .diagWrite mst _ => mstOk mst
  | .diagDone => true
  | .fsUnwrite mst _ => mstOk mst
  | .fsUnwriteDone => true
  | .scrubWriteback _ => true
  | .scrubRead memory _ upsets => decide (memory < 3) && upsets.all fun u => decide (u.1 < 8 ∧ u.2 < 2 ^ 72)
  | .repairStart => true
  | .spareRowCopyDone _ => true
  | .granuleCopyDone _ => true
  | .repairOfflineRead mst => mstOk mst
  | .eccInjArm mst _ => mstOk mst
  | .vaultRead mst k => mstOk mst && vaultOk k
  | .vaultWrite mst k _ => mstOk mst && vaultOk k
  | .vaultInject mst _ => mstOk mst
  | .protFence mst => mstOk mst
  | .protFenceDone => true
  | .pairEnable mst _ => mstOk mst
  | .pairDisable mst _ => mstOk mst
  | .possNRise => true
  | .possNFall => true
  | .possQuietExpiry => true
  | .pairStatusSend => true
  | .pairStatusReceive _ _ => true
  | .pairLinkUp => true
  | .pairLinkDown => true
  | .pairPgChange _ => true
  | .pairMirrorWrite w => mirrorOk w
  | .ballotReceive b => headOk b.head
  | .signatureReceive r => headOk r.head
  | .pairWdogExpiry => true
  | .pairWdogKick mst _ => mstOk mst
  | .pairHandover mst _ => mstOk mst
  | .pairClearFault mst _ => mstOk mst
  | .touchEnable mst _ => mstOk mst
  | .touchCalibrationDone _ => true
  | .touchScanStart => true
  | .touchScanEnd _ _ _ => true
  | .touchRebase mst _ => mstOk mst
  | .touchRebaseAll mst _ => mstOk mst
  | .touchTestGo mst _ => mstOk mst
  | .touchTestPeriod => true
  | .touchTestDone _ _ => true
  | .touchChangeRead mst => mstOk mst
  | .touchWakeScan _ => true
  | .deflSubmit mst _ => mstOk mst
  | .deflCompress => true
  | .deflDecompress => true
  | .deflJobDone q _ _ _ => decide (q < 16)
  | .checkSubmit mst _ => mstOk mst
  | .checkJobCrc u => unitOk u
  | .checkJobAlive u => unitOk u
  | .checkJobGuard u => unitOk u
  | .checkJobDone u => unitOk u
  | .checkDataWrite mst u _ => mstOk mst && unitOk u
  | .checkData8Write mst u _ => mstOk mst && unitOk u
  | .checkLoadInit mst u _ => mstOk mst && unitOk u
  | .checkResync mst u _ => mstOk mst && unitOk u
  | .evtDoorbellWrite mst _ => mstOk mst
  | .evtOutPulseEnd k => fourOk k
  | .monPeriodicSample dramLoad => decide (dramLoad ≤ 100)
  | .monClear mst c _ => mstOk mst && monOk c
  | .monCfgWrite mst c _ => mstOk mst && monOk c
  | .timeClkTick _ => true
  | .contextLoadDone c => decOk c
  | .frameOutPulseEnd k => fourOk k
  | .ppsOutPulseEnd => true
  | .pcieD3hotExit => true
  | .msixTableAccess off _ => decide (off < 0x4000 ∧ off % 4 = 0)

end Sys2Proof
end

