-- ==== Sys2Proof/Machine/SeqAlu.lean ====
section
/-! DEFINITION. Sequencer instructions that act within the sequencer: arithmetic, data RAM, windows,
control flow, CRC, stops, and the waits for time, events and cycles (R107 to R125, R130 to R132). -/

namespace Sys2Proof.Machine

/-- A command at sequencer `n`. -/
def onSeq (n : Nat) (s : State) (f : Mach → Mach) : Out := guarded (seqOk n) (onCore s f)

/-! ### Arithmetic and logic (R108, R110) -/

/-- The result of a register operation. -/
def aluValue (f : AluOp) (x y : Word) : Word :=
  match f with
  | .add => x + y
  | .sub => x - y
  | .and => x &&& y
  | .or => x ||| y
  | .xor => x ^^^ y
  | .shl => x <<< (y.toNat % 32)
  | .shr => x >>> (y.toNat % 32)
  | .sra => x.sshiftRight (y.toNat % 32)
  | .mul => x * y
  | .mulh => BitVec.ofInt 32 (x.toInt * y.toInt / 2 ^ 32)
  | .min => if x.toInt ≤ y.toInt then x else y
  | .max => if x.toInt ≤ y.toInt then y else x
  | .slt => if x.toInt < y.toInt then 1 else 0
  | .sltu => if x.toNat < y.toNat then 1 else 0

/-- The result of an immediate operation. -/
def immValue (f : ImmOp) (x : Word) (i : BitVec 16) : Word :=
  match f with
  | .addi => x + i.signExtend 32
  | .andi => x &&& i.zeroExtend 32
  | .ori => x ||| i.zeroExtend 32
  | .xori => x ^^^ i.zeroExtend 32

/-- The result of an immediate shift. -/
def shiftValue (f : ShiftOp) (x : Word) (amount : BitVec 5) : Word :=
  match f with
  | .shli => x <<< amount.toNat
  | .shri => x >>> amount.toNat
  | .srai => x.sshiftRight amount.toNat

def Mach.seqAlu (m : Mach) (n : Nat) (f : AluOp) (rd ra rb : BitVec 5) : Mach :=
  m.seqIssue n (.alu f rd ra rb) fun m =>
    m.seqWrites n 1 rd (aluValue f (m.wreg n ra) (m.wreg n rb))

def Mach.seqImm (m : Mach) (n : Nat) (f : ImmOp) (rd ra : BitVec 5) (i : BitVec 16) : Mach :=
  m.seqIssue n (.imm f rd ra i) fun m => m.seqWrites n 1 rd (immValue f (m.wreg n ra) i)

def Mach.seqShift (m : Mach) (n : Nat) (f : ShiftOp) (rd ra amount : BitVec 5) : Mach :=
  m.seqIssue n (.shift f rd ra amount) fun m =>
    m.seqWrites n 1 rd (shiftValue f (m.wreg n ra) amount)

def execAdd (n : Nat) (rd ra rb : BitVec 5) (s : State) : Out :=
  onSeq n s fun m => m.seqAlu n .add rd ra rb
def execSub (n : Nat) (rd ra rb : BitVec 5) (s : State) : Out :=
  onSeq n s fun m => m.seqAlu n .sub rd ra rb
def execAnd (n : Nat) (rd ra rb : BitVec 5) (s : State) : Out :=
  onSeq n s fun m => m.seqAlu n .and rd ra rb
def execOr (n : Nat) (rd ra rb : BitVec 5) (s : State) : Out :=
  onSeq n s fun m => m.seqAlu n .or rd ra rb
def execXor (n : Nat) (rd ra rb : BitVec 5) (s : State) : Out :=
  onSeq n s fun m => m.seqAlu n .xor rd ra rb
def execShl (n : Nat) (rd ra rb : BitVec 5) (s : State) : Out :=
  onSeq n s fun m => m.seqAlu n .shl rd ra rb
def execShr (n : Nat) (rd ra rb : BitVec 5) (s : State) : Out :=
  onSeq n s fun m => m.seqAlu n .shr rd ra rb
def execSra (n : Nat) (rd ra rb : BitVec 5) (s : State) : Out :=
  onSeq n s fun m => m.seqAlu n .sra rd ra rb
def execMul (n : Nat) (rd ra rb : BitVec 5) (s : State) : Out :=
  onSeq n s fun m => m.seqAlu n .mul rd ra rb
def execMulh (n : Nat) (rd ra rb : BitVec 5) (s : State) : Out :=
  onSeq n s fun m => m.seqAlu n .mulh rd ra rb
def execMin (n : Nat) (rd ra rb : BitVec 5) (s : State) : Out :=
  onSeq n s fun m => m.seqAlu n .min rd ra rb
def execMax (n : Nat) (rd ra rb : BitVec 5) (s : State) : Out :=
  onSeq n s fun m => m.seqAlu n .max rd ra rb
def execSlt (n : Nat) (rd ra rb : BitVec 5) (s : State) : Out :=
  onSeq n s fun m => m.seqAlu n .slt rd ra rb
def execSltu (n : Nat) (rd ra rb : BitVec 5) (s : State) : Out :=
  onSeq n s fun m => m.seqAlu n .sltu rd ra rb

def execAddi (n : Nat) (rd ra : BitVec 5) (i : BitVec 16) (s : State) : Out :=
  onSeq n s fun m => m.seqImm n .addi rd ra i
def execAndi (n : Nat) (rd ra : BitVec 5) (i : BitVec 16) (s : State) : Out :=
  onSeq n s fun m => m.seqImm n .andi rd ra i
def execOri (n : Nat) (rd ra : BitVec 5) (i : BitVec 16) (s : State) : Out :=
  onSeq n s fun m => m.seqImm n .ori rd ra i
def execXori (n : Nat) (rd ra : BitVec 5) (i : BitVec 16) (s : State) : Out :=
  onSeq n s fun m => m.seqImm n .xori rd ra i

def execShli (n : Nat) (rd ra amount : BitVec 5) (s : State) : Out :=
  onSeq n s fun m => m.seqShift n .shli rd ra amount
def execShri (n : Nat) (rd ra amount : BitVec 5) (s : State) : Out :=
  onSeq n s fun m => m.seqShift n .shri rd ra amount
def execSrai (n : Nat) (rd ra amount : BitVec 5) (s : State) : Out :=
  onSeq n s fun m => m.seqShift n .srai rd ra amount

/-- lui: the immediate in the upper half (R108). -/
def execLui (n : Nat) (rd : BitVec 5) (i : BitVec 16) (s : State) : Out :=
  onSeq n s fun m => m.seqIssue n (.lui rd i) fun m =>
    m.seqWrites n 1 rd (i.zeroExtend 32 <<< 16)

/-! ### Data RAM and windows (R111, R112) -/

/-- The data RAM address of `ld` and `st`. -/
def Mach.dataAddr (m : Mach) (n : Nat) (ra : BitVec 5) (i : BitVec 16) : Nat :=
  (m.wreg n ra + i.signExtend 32).toNat

/-- The fault of a data RAM address, if any. -/
def dataFault (a : Nat) : Option Nat :=
  if 0x4000 ≤ a then some fDataRange else if a % 4 ≠ 0 then some fDataAlign else none

def execLd (n : Nat) (rd ra : BitVec 5) (i : BitVec 16) (s : State) : Out :=
  onSeq n s fun m => m.seqIssue n (.ld rd ra i) fun m =>
    let a := m.dataAddr n ra i
    match dataFault a with
    | some c => m.seqFault n c a
    | none =>
      match m.ramWord n (seqDataBase n + a) with
      | (m, none) => m.seqFault n fMemEcc a
      | (m, some v) => m.seqWrites n 2 rd (BitVec.ofNat 32 v)

def execSt (n : Nat) (rd ra : BitVec 5) (i : BitVec 16) (s : State) : Out :=
  onSeq n s fun m => m.seqIssue n (.st rd ra i) fun m =>
    let a := m.dataAddr n ra i
    match dataFault a with
    | some c => m.seqFault n c a
    | none =>
      let k := seqDataBase n + a
      ((((m.setBytes k (wordLE (m.wreg n rd))).wordWritten k).spend n 2).seqNext n)

/-- The window field of a number below 4. -/
def winFld (n k : Nat) : Fld :=
  if k = 0 then Fld.SEQ_WIN_WIN0 n else if k = 1 then Fld.SEQ_WIN_WIN1 n
  else if k = 2 then Fld.SEQ_WIN_WIN2 n else Fld.SEQ_WIN_WIN3 n

/-- A slot that R23 reserves. -/
def slotReserved (x : Nat) : Bool := (slotRows x).isEmpty

/-- Of a bad `sel` and a bad slot, FAULT_INFO gives `sel` (log entry 26). -/
def execSetw (n : Nat) (sel ra : BitVec 5) (i : BitVec 16) (s : State) : Out :=
  onSeq n s fun m => m.seqIssue n (.setw sel ra i) fun m =>
    let slot := (m.wreg n ra + i.zeroExtend 32).toNat
    if 3 < sel.toNat then m.seqFault n fBadOperand sel.toNat
    else if 0xFF < slot ∨ slotReserved slot = true then m.seqFault n fBadOperand slot
    else ((m.put (winFld n sel.toNat) slot).spend n 1).seqNext n

/-! ### Control flow (R115) -/

def branchTaken (f : BranchOp) (x y : Word) : Bool :=
  match f with
  | .beq => x == y
  | .bne => x != y
  | .blt => decide (x.toInt < y.toInt)
  | .bge => decide (y.toInt ≤ x.toInt)
  | .bltu => decide (x.toNat < y.toNat)
  | .bgeu => decide (y.toNat ≤ x.toNat)

/-- PC plus 4 times a sign-extended offset, as 32 bits. -/
def Mach.pcTarget (m : Mach) (n : Nat) (off : Int) : Nat := twosOf 32 ((m.pcOf n : Int) + 4 * off)

def Mach.seqBranch (m : Mach) (n : Nat) (f : BranchOp) (ra rb : BitVec 5) (off : BitVec 16) : Mach :=
  m.seqIssue n (.branch f ra rb off) fun m =>
    if branchTaken f (m.wreg n ra) (m.wreg n rb) then
      (m.spend n 2).seqJump n (m.pcTarget n off.toInt) 0
    else (m.spend n 1).seqNext n

def execBeq (n : Nat) (ra rb : BitVec 5) (off : BitVec 16) (s : State) : Out :=
  onSeq n s fun m => m.seqBranch n .beq ra rb off
def execBne (n : Nat) (ra rb : BitVec 5) (off : BitVec 16) (s : State) : Out :=
  onSeq n s fun m => m.seqBranch n .bne ra rb off
def execBlt (n : Nat) (ra rb : BitVec 5) (off : BitVec 16) (s : State) : Out :=
  onSeq n s fun m => m.seqBranch n .blt ra rb off
def execBge (n : Nat) (ra rb : BitVec 5) (off : BitVec 16) (s : State) : Out :=
  onSeq n s fun m => m.seqBranch n .bge ra rb off
def execBltu (n : Nat) (ra rb : BitVec 5) (off : BitVec 16) (s : State) : Out :=
  onSeq n s fun m => m.seqBranch n .bltu ra rb off
def execBgeu (n : Nat) (ra rb : BitVec 5) (off : BitVec 16) (s : State) : Out :=
  onSeq n s fun m => m.seqBranch n .bgeu ra rb off

def execJal (n : Nat) (rd : BitVec 5) (off : BitVec 21) (s : State) : Out :=
  onSeq n s fun m => m.seqIssue n (.jal rd off) fun m =>
    (m.spend n 2).seqJump n (m.pcTarget n off.toInt) rd

def execJr (n : Nat) (ra : BitVec 5) (s : State) : Out :=
  onSeq n s fun m => m.seqIssue n (.jr ra) fun m =>
    (m.spend n 2).seqJump n (m.wreg n ra).toNat 0

/-- The fetch after the last word of the range, without a jump (R115). -/
def execPcRunOn (n : Nat) (s : State) : Out :=
  onSeq n s fun m =>
    if m.seqState n = sqRunning ∧ (m.seq n).runOn = true ∧ (m.seq n).stopReq = false then
      m.seqFault n fPcRange (m.pcLimit n)
    else m

/-! ### CRC, stops and nop (R107, R130, R131, R138) -/

/-- crc: the low bytes of w(rb), least significant first, update w(ra) (R130). -/
def execCrc (n count : Nat) (ra rb : BitVec 5) (s : State) : Out :=
  onSeq n s fun m =>
    match crcOf count with
    | some k => m.seqIssue n (.crc k ra rb) fun m =>
        m.seqWrites n 1 ra
          ((wordLE (m.wreg n rb)).take k.bytes |>.foldl crc32cByte (m.wreg n ra))
    | none => m

/-- A `halt` that STEP executes ends as HALT (log entry 26). -/
def execHalt (n : Nat) (s : State) : Out :=
  onSeq n s fun m => m.seqIssue n .halt fun m => ((m.spend n 1).seqAdvance n).seqHalt n 0x01

def execNop (n : Nat) (s : State) : Out :=
  onSeq n s fun m => m.seqIssue n .nop fun m => (m.spend n 1).seqNext n

def execBrk (n : Nat) (i : BitVec 16) (s : State) : Out :=
  onSeq n s fun m => m.seqIssue n (.brk i) fun m =>
    let m := (m.spend n 1).seqAdvance n
    if m.is (Fld.SEQ_CTRL_BRK_FAULT n) then m.seqFault n fBrk i.toNat
    else (m.seqHalt n 0x03).put (Fld.SEQ_FAULT_INFO_INFO n) i.toNat

/-- A word that is no instruction faults (R107). -/
def execIllegalInstruction (n : Nat) (s : State) : Out :=
  onSeq n s fun m => m.seqIssueIf n (fun w => (seqDecode w).isNone) fun m w =>
    m.seqFault n fIllegal w.toNat

/-- The sequencer stands before an enabled breakpoint (R138). -/
def execBreakpointHit (n : Nat) (s : State) : Out :=
  onSeq n s fun m => if m.seqReady n && m.atBreakpoint n then m.seqHalt n 0x04 else m

/-! ### Doorbells and waits for time, events and cycles (R120 to R125) -/

def execPost (n : Nat) (ra : BitVec 5) (i : BitVec 16) (s : State) : Out :=
  onSeq n s fun m => m.seqIssue n (.post ra i) fun m =>
    let d := (m.wreg n ra + i.zeroExtend 32).toNat
    if 14 < d then m.seqFault n fBadOperand d
    else ((m.raise (evDoorbell d)).spend n 2).seqNext n

/-- The time of a domain has reached a target (R120). -/
def Mach.timeReached (m : Mach) (dom sec ns : Nat) : Bool :=
  let now := m.view dom
  let d := signedOf 32 (twosOf 32 ((secOf now : Int) - sec))
  decide (0 < d) || (d == 0 && decide (ns ≤ nsOf now))

/-- Of several bad operands the first in the order k, dom, ns is reported (log entry 26). -/
def execWtime (n : Nat) (dom k : BitVec 5) (s : State) : Out :=
  onSeq n s fun m => m.seqIssue n (.wtime dom k) fun m =>
    let ns := (m.wreg n k).toNat
    let sec := (m.wreg n (k + 1)).toNat
    if k.toNat % 2 = 1 ∨ k = 0 ∨ 30 < k.toNat then m.seqFault n fBadOperand k.toNat
    else if 2 < dom.toNat then m.seqFault n fBadOperand dom.toNat
    else if 1000000000 ≤ ns then m.seqFault n fBadOperand ns
    else if m.timeReached dom.toNat sec ns then (m.spend n 1).seqNext n
    else (m.spend n 1).seqWait n 2 (.time dom.toNat sec ns)

def execWtimeEnd (n : Nat) (s : State) : Out :=
  onSeq n s fun m => match m.seqWaitOf n with
    | .time dom sec ns => if m.timeReached dom sec ns then m.seqWaitEnd n else m
    | _ => m

/-- The pending lines of a mask. -/
def Mach.pendMasked (m : Mach) (n : Nat) (mask : Word) : Word :=
  BitVec.ofNat 32 (m.get (Fld.SEQ_EVT_PEND_PEND n)) &&& mask

/-- wevt completes: rd takes the pending bits of the mask, which clear (R121). -/
def Mach.takeEvents (m : Mach) (n : Nat) (rd : BitVec 5) (mask : Word) : Mach :=
  let p := m.pendMasked n mask
  (m.setWreg n rd p).put (Fld.SEQ_EVT_PEND_PEND n) (m.get (Fld.SEQ_EVT_PEND_PEND n) - p.toNat)

def execWevt (n : Nat) (rd ra : BitVec 5) (i : BitVec 16) (s : State) : Out :=
  onSeq n s fun m => m.seqIssue n (.wevt rd ra i) fun m =>
    let mask := m.wreg n ra ||| i.zeroExtend 32
    if mask = 0 then m.seqFault n fBadOperand 0
    else if m.pendMasked n mask ≠ 0 then ((m.takeEvents n rd mask).spend n 1).seqNext n
    else (m.spend n 1).seqWait n 3 (.evt rd mask)

def execWevtEnd (n : Nat) (s : State) : Out :=
  onSeq n s fun m => match m.seqWaitOf n with
    | .evt rd mask =>
      if m.pendMasked n mask ≠ 0 then (m.takeEvents n rd mask).seqWaitEnd n else m
    | _ => m

/-- wcyc: the wait takes exactly the count of cycles after its issue (R122). -/
def execWcyc (n : Nat) (ra : BitVec 5) (i : BitVec 16) (s : State) : Out :=
  onSeq n s fun m => m.seqIssue n (.wcyc ra i) fun m =>
    let c := (m.wreg n ra + i.zeroExtend 32).toNat
    if c = 0 then (m.spend n 1).seqNext n else (m.spend n 1).seqWait n 4 (.cyc c)

/-- The count of a `wcyc` has run; one longer than WAIT_LIMIT, in cycles of 1.25 ns, has met it first
(R124). -/
def execWcycEnd (n : Nat) (s : State) : Out :=
  onSeq n s fun m => match m.seqWaitOf n with
    | .cyc c =>
      let l := m.get (Fld.SEQ_WAIT_LIMIT_LIMIT n)
      if l ≠ 0 ∧ 800 * l < c then m.seqFault n fWaitTimeout 4 else
      let m := m.put (Fld.SEQ_STATUS_STATE n) sqRunning
      let m := m.put (Fld.SEQ_STATUS_WAIT_KIND n) 0
      ((m.updSeq n fun q => { q with wait := .none }).spend n c).seqNext n
    | _ => m

end Sys2Proof.Machine
end

