-- ==== Sys2Proof/Machine/SeqExec.lean ====
section
/-! DEFINITION. Sequencer instructions that reach other blocks: register accesses, commits, jobs,
fences, line waits and time reads; the end of waits; and the control commands (R113 to R119, R124 to
R129, R134 to R138). -/

namespace Sys2Proof.Machine

/-! ### A write of a register as a command -/

/-- A register write that is a command of its own: it acts where its value spells the command. -/
def writeRow (wf : Bool) (mst slot off : Nat) (v : Word) (spells : Mach → Bool) (s : State) : Out :=
  guarded (mstOk mst && wf) (onCore s fun m =>
    if spells m then (m.regIssue mst slot off v []).resume else m)

/-- A written word has the bit of a one-bit field set. -/
def sets (v : Word) (f : Fld) : Bool := v.getLsbD f.lo

/-! ### Register accesses (R113, R126, R127) -/

/-- The slot and offset of `ldr` and `str`. -/
def Mach.windowTarget (m : Mach) (n : Nat) (ra : BitVec 5) (i : BitVec 16) : Nat × Nat :=
  (m.get (winFld n (bitsOf i.toNat 14 2)), ((m.wreg n ra).toNat + bitsOf i.toNat 0 14) % 0x10000)

/-- Protection checks an access at issue and captures a violation (R406, R408). -/
def Mach.seqCheck (m : Mach) (n slot off : Nat) (write : Bool) : Mach × Bool :=
  match m.regDenied (mstSeq n) slot off write with
  | some k => (m.violate k slot (mstSeq n) (regAddr slot off), true)
  | none => (m, false)

/-- Issue a register access: it is in flight until its completion command. -/
def Mach.seqAccess (m : Mach) (n slot off : Nat) (write : Bool) (w : Nat → Bool → SeqWait) : Mach :=
  let c := m.seqCheck n slot off write
  let a := c.1.newAccess
  (a.2.spend n 1).seqWait n 6 (w a.1 c.2)

def regInfo (slot off : Nat) : Nat := slot * 0x10000 + off

def execLdr (n : Nat) (rd ra : BitVec 5) (i : BitVec 16) (s : State) : Out :=
  onSeq n s fun m => m.seqIssue n (.ldr rd ra i) fun m =>
    let t := m.windowTarget n ra i
    if t.2 % 4 ≠ 0 then m.seqFault n fRegAlign (regInfo t.1 t.2)
    else m.seqAccess n t.1 t.2 false fun a d => .read a rd t.1 t.2 d

def execStr (n : Nat) (rd ra : BitVec 5) (i : BitVec 16) (s : State) : Out :=
  onSeq n s fun m => m.seqIssue n (.str rd ra i) fun m =>
    let t := m.windowTarget n ra i
    if t.2 % 4 ≠ 0 then m.seqFault n fRegAlign (regInfo t.1 t.2)
    else m.seqAccess n t.1 t.2 true fun a d => .write a t.1 t.2 (m.wreg n rd) d

/-- Blocks with SHADOW fields, which take a commit (R126). -/
def takesCommit (slot : Nat) : Bool :=
  (0x80 ≤ slot && slot < 0x94) || slot == 0x19 || slot == 0x1D

/-- A slot that takes no commit faults before protection is asked (log entry 26). -/
def execCmt (n : Nat) (rd : BitVec 5) (win : BitVec 2) (ra : BitVec 5) (s : State) : Out :=
  onSeq n s fun m => m.seqIssue n (.cmt rd win ra) fun m =>
    let slot := m.get (winFld n win.toNat)
    if !takesCommit slot then m.seqFault n fBadOperand slot
    else m.seqAccess n slot 0x10 true fun a d => .commit a rd slot (m.wreg n ra) d

/-- What the sequencer waits for while it is WAITING, a STOP request or not: an access in flight
completes before a STOP takes effect (R135). -/
def Mach.inFlight (m : Mach) (n : Nat) : SeqWait :=
  if m.seqState n = sqWaiting then (m.seq n).wait else .none

/-- The access has been performed; where its write has reset the sequencer, nothing is left to end. -/
def Mach.accessEnd (m : Mach) (n : Nat) (w : SeqWait) (f : Mach → Mach) : Mach :=
  if m.inFlight n = w then (f m).seqWaitEnd n else m

/-- A register read in flight completes; one of PROT.FENCE when its drain has ended (R410). -/
def Mach.seqReadDone (m : Mach) (n : Nat) : Mach :=
  match m.inFlight n with
  | .read a rd slot off denied =>
    if denied then m.seqFault n fAccessDenied (regInfo slot off)
    else if slot = 1 ∧ off = 8 ∧ m.drained a = false then m
    else
      match m.regAt (mstSeq n) slot off with
      | none => (m.setWreg n rd 0).seqWaitEnd n
      | some (_, e) =>
        let r := m.readAt slot off e (regKey e slot off)
        (r.1.setWreg n rd r.2).seqWaitEnd n
  | _ => m

/-- A register write in flight has taken effect. -/
def Mach.seqWriteDone (m : Mach) (n : Nat) : Mach :=
  match m.inFlight n with
  | .write a slot off v denied =>
    if denied then m.seqFault n fAccessDenied (regInfo slot off)
    else (m.regStore (mstSeq n) slot off v []).1.accessEnd n (.write a slot off v denied) id
  | _ => m

/-- The commit response of a block (R127): a head's bits; 0 for other blocks, and where the write
was dropped. -/
def Mach.cmtResponse (m : Mach) (slot : Nat) (v : Word) (e : WriteEnd) : Word :=
  if e = .done ∧ 0x80 ≤ slot ∧ v.getLsbD 0 = true then
    BitVec.ofNat 32 (m.commitResponse (slot - 0x80))
  else 0

/-- A commit in flight completes. -/
def Mach.seqCommitDone (m : Mach) (n : Nat) : Mach :=
  match m.inFlight n with
  | .commit a rd slot v denied =>
    if denied then m.seqFault n fAccessDenied (regInfo slot 0x10)
    else
      let r := m.regStore (mstSeq n) slot 0x10 v []
      r.1.accessEnd n (.commit a rd slot v denied) fun t => t.setWreg n rd (m.cmtResponse slot v r.2)
  | _ => m

def execLdrDone (n : Nat) (s : State) : Out := onSeq n s fun m => m.seqReadDone n
def execStrDone (n : Nat) (s : State) : Out := onSeq n s fun m => m.seqWriteDone n
def execCmtDone (n : Nat) (s : State) : Out := onSeq n s fun m => m.seqCommitDone n

/-! ### Line waits and reads of time (R117 to R119) -/

/-- The head that `sel` names: 31 is the own head of SEQ0 to SEQ19. -/
def headNamed (n sel own : Nat) : Option Nat :=
  if sel = own then (if n < 20 then some n else none) else if sel < 20 then some sel else none

def execWline (n : Nat) (sel ra : BitVec 5) (i : BitVec 16) (s : State) : Out :=
  onSeq n s fun m => m.seqIssue n (.wline sel ra i) fun m =>
    let t := (m.wreg n ra + i.zeroExtend 32).toNat
    match headNamed n sel.toNat 31 with
    | none => m.seqFault n fBadOperand sel.toNat
    | some h =>
      if m.scanning h = true ∧ (m.head h).vtot ≤ t then m.seqFault n fBadOperand t
      else (m.spend n 1).seqWait n 1 (.line h t false)

/-- The target line has started. -/
def execWlineEnd (n : Nat) (s : State) : Out :=
  onSeq n s fun m => match m.seqWaitOf n with
    | .line _ _ true => m.seqWaitEnd n
    | _ => m

/-- rdt completes with a pair of values. -/
def Mach.rdtWrites (m : Mach) (n : Nat) (rd : BitVec 5) (lo hi : Nat) : Mach :=
  (((m.setWreg n rd (BitVec.ofNat 32 lo)).setWreg n (rd + 1) (BitVec.ofNat 32 hi)).spend n 4).seqNext n

/-- A head that does not scan reads its last line and frame count, 0 before its first frame;
of several bad operands rd is reported before dom (log entry 26). -/
def execRdt (n : Nat) (rd : BitVec 5) (dom : BitVec 8) (s : State) : Out :=
  onSeq n s fun m => m.seqIssue n (.rdt rd dom) fun m =>
    let d := dom.toNat
    if rd.toNat % 2 = 1 ∨ rd = 0 ∨ 30 < rd.toNat then m.seqFault n fBadOperand rd.toNat
    else if d < 3 then m.rdtWrites n rd (nsOf (m.view d)) (secOf (m.view d))
    else
      match headNamed n (if d = 3 then 31 else if 0x10 ≤ d ∧ d < 0x24 then d - 0x10 else 20) 31 with
      | none => m.seqFault n fBadOperand d
      | some h => m.rdtWrites n rd (m.head h).line ((m.head h).frames - 1)

/-! ### Jobs and fences (R128, R129) -/

/-- The 16 words of a descriptor in data RAM; none where one is uncorrectable. -/
def Mach.descriptorWords (m : Mach) (n a : Nat) : Nat → Mach × Option (List Byte)
  | 0 => (m, some [])
  | k + 1 =>
    match m.ramWord n (seqDataBase n + a) with
    | (m, none) => (m, none)
    | (m, some v) =>
      let r := m.descriptorWords n (a + 4) k
      (r.1, r.2.map fun l => toLE 4 v ++ l)

def Mach.jobSubmit (m : Mach) (n slot queue : Nat) (desc : List Byte) : Mach × Nat :=
  if slot = 0x17 then m.deflSubmit (mstSeq n) queue desc else m.checkSubmit (mstSeq n) queue desc

/-- The queue is checked before the descriptor's address; a MEM_ECC fault gives the descriptor's address (log
entry 26). -/
def execJob (n : Nat) (rd ra : BitVec 5) (slot queue : BitVec 8) (s : State) : Out :=
  onSeq n s fun m => m.seqIssue n (.job rd ra slot queue) fun m =>
    let a := (m.wreg n ra).toNat
    if slot ≠ 0x17 ∧ slot ≠ 0x18 then m.seqFault n fJobTarget (slot.toNat * 256 + queue.toNat)
    else if (if slot = 0x17 then 16 else 8) ≤ queue.toNat then m.seqFault n fBadOperand queue.toNat
    else if 0x3FC0 < a then m.seqFault n fDataRange a
    else if a % 4 ≠ 0 then m.seqFault n fDataAlign a
    else
      match m.descriptorWords n a 16 with
      | (m, none) => m.seqFault n fMemEcc a
      | (m, some desc) =>
        let r := m.jobSubmit n slot.toNat queue.toNat desc
        r.1.seqWrites n 36 rd (BitVec.ofNat 32 r.2)

def execFprot (n : Nat) (s : State) : Out :=
  onSeq n s fun m => m.seqIssue n .fprot fun m =>
    if m.drained m.nextAccess then (m.spend n 4).seqNext n
    else (m.spend n 4).seqWait n 5 (.fence m.nextAccess)

def execFprotDrainDone (n : Nat) (s : State) : Out :=
  onSeq n s fun m => match m.seqWaitOf n with
    | .fence b => if m.drained b then m.seqWaitEnd n else m
    | _ => m

/-! ### WAIT_LIMIT (R124) -/

/-- A wait whose end condition does not hold: its WAIT_KIND. A wcyc longer than the limit, in cycles
of 1.25 ns, is cut short. -/
def Mach.unsatisfied (m : Mach) (n limit : Nat) : Option Nat :=
  match m.seqWaitOf n with
  | .line _ _ hit => if hit then none else some 1
  | .time d sec ns => if m.timeReached d sec ns then none else some 2
  | .evt _ mask => if m.pendMasked n mask ≠ 0 then none else some 3
  | .cyc c => if 800 * limit < c then some 4 else none
  | .fence b => if m.drained b then none else some 5
  | _ => none

def execWaitTimeout (n : Nat) (s : State) : Out :=
  onSeq n s fun m =>
    let l := m.get (Fld.SEQ_WAIT_LIMIT_LIMIT n)
    match m.unsatisfied n l with
    | some k => if l = 0 then m else m.seqFault n fWaitTimeout k
    | none => m

/-! ### Control (R134, R135, R138) -/

/-- The action that a write of CTRL spells: its first set bit in the order STOP, START, RESUME,
STEP. -/
def ctrlAction (v : Word) : Option Nat :=
  [3, 0, 1, 2].find? fun b => v.getLsbD b

def ctrlRow (mst n : Nat) (v : Word) (bit : Nat) (s : State) : Out :=
  writeRow (seqOk n) mst (0xA0 + n) 0 v (fun _ => ctrlAction v == some bit) s

def execSeqStop (mst n : Nat) (v : Word) (s : State) : Out := ctrlRow mst n v 3 s
def execSeqStart (mst n : Nat) (v : Word) (s : State) : Out := ctrlRow mst n v 0 s
def execSeqResume (mst n : Nat) (v : Word) (s : State) : Out := ctrlRow mst n v 1 s
def execSeqStep (mst n : Nat) (v : Word) (s : State) : Out := ctrlRow mst n v 2 s

/-- A requested STOP takes effect: an access in flight completes first; a wait is abandoned with PC at
its instruction. -/
def Mach.seqStopNow (m : Mach) (n : Nat) : Mach :=
  let m := ((m.seqReadDone n).seqWriteDone n).seqCommitDone n
  if m.seqState n = sqRunning ∨ m.seqState n = sqWaiting then
    (if (m.inFlight n).access.isSome then m else m.seqHalt n 0x02)
  else m

def execSeqStopped (n : Nat) (s : State) : Out :=
  onSeq n s fun m => if (m.seq n).stopReq then m.seqStopNow n else m

def execSeqIramWrite (mst n off : Nat) (v : Word) (s : State) : Out :=
  guarded (mstOk mst && seqOk n && decide (off < 0x8000 ∧ off % 4 = 0)) (onCore s fun m =>
    m.busAccess mst (seqRamBase n + off) 4 (some (wordLE v)) .data)

def execSeqDbgDataWrite (mst n : Nat) (v : Word) (s : State) : Out :=
  writeRow (seqOk n) mst (0xA0 + n) 0x2C v (fun _ => true) s

end Sys2Proof.Machine
end

