-- ==== Sys2Proof/Machine/BusExec.lean ====
section
/-! DEFINITION. The commands of register and memory accesses, the PCI Express port and the Apbud chain
(R58 to R83, R95, R406, R481). -/

namespace Sys2Proof.Machine

/-- What the block does, with the watches on the encoder's next picture and on Idle after it. -/
def onFabric (s : State) (f : Mach → Mach) : Out := onCore s fun m => (f m).encWatch.idleWatch.resume

/-! ### Any access (R95, R406) -/

def execRegisterWrite (mst slot off : Nat) (v : Word) (s : State) : Out :=
  writeRow (slotOk slot && offOk off) mst slot off v (fun _ => true) s

/-- A register read that is a command of its own, by a master of the module. -/
def readRow (wf : Bool) (mst slot off : Nat) (s : State) : Out :=
  guarded (mstOk mst && wf) (onCore s fun m => m.busAccess mst (regAddr slot off) 4 none .data)

/-- Upsets that the stored words have suffered since they were last read, by word (R387). -/
def Mach.upset (m : Mach) (upsets : List (Nat × Nat)) : Mach :=
  upsets.foldl (fun m u => m.setFlips u.1 (m.flipMask u.1 ^^^ u.2)) m

def execMemoryAccess (mst addr len : Nat) (data : Option (List Byte)) (upsets : List (Nat × Nat))
    (s : State) : Out :=
  guarded (mstOk mst && accessOk addr len data)
    (onCore s fun m => ((m.upset upsets).busAccess mst addr len data .data).resume)

/-! ### The PCI Express port (R59 to R66, R79, R481) -/

def execPcieLinkUp (s : State) : Out := onCore s Mach.pcieUp
def execPcieLinkDown (reset : Bool) (s : State) : Out := onCore s fun m => m.pcieDown reset
def execPcieD3hot (s : State) : Out := onCore s Mach.d3Enter
def execPcieD3hotExit (s : State) : Out := onCore s Mach.d3Exit

def execMsixTableAccess (off : Nat) (w : Option Word) (s : State) : Out :=
  guarded (decide (off < 0x4000 ∧ off % 4 = 0)) (onCore s fun m => m.msixAccess off w)

/-- A host access through BAR0: the head's own window, or a request to another module (R61, R63). -/
def Mach.bar0 (m : Mach) (off len : Nat) (data : Option (List Byte)) : Mach :=
  if !m.barsOpen then m
  else if !m.isHead then m.barRefused
  else if off < 0x1000000 then m.busAccess mstHost (0x2000000000 + off) len data .host
  else m.remoteRequest (off / 0x1000000) (0x2000000000 + off % 0x1000000) len false data

def execBar0Access (off len : Nat) (data : Option (List Byte)) (s : State) : Out :=
  guarded (barOk 0x40000000 off len data) (onCore s fun m => (m.bar0 off len data).resume)

def execBar2Access (off len : Nat) (data : Option (List Byte)) (s : State) : Out :=
  guarded (barOk 0x100000000 off len data) (onCore s fun m => (m.bar2 off len data).resume)

/-! ### Remote accesses (R72 to R74) -/

/-- A request comes down the chain: performed at its target, passed on before it. -/
def Mach.requestArrives (m : Mach) (tag target addr len : Nat) (bar2 : Bool)
    (data : Option (List Byte)) : Mach :=
  if m.is Fld.CHAIN_STATUS_ADDR_VALID && m.get Fld.CHAIN_STATUS_ADDR == target then
    if bar2 then m.apertureAccess mstChain addr len data (.chain tag)
    else m.busAccess mstChain addr len data (.chain tag)
  else if m.portUp false then m.sendChain false (.request tag target addr len bar2 data)
  else m

def execRemoteRequestReceive (tag target addr len : Nat) (bar2 : Bool) (data : Option (List Byte))
    (s : State) : Out :=
  guarded (chainOk target && remoteOk len data)
    (onCore s fun m => (m.requestArrives tag target addr len bar2 data).resume)

def execRemoteCompletion (tag : Nat) (data : List Byte) (s : State) : Out :=
  onCore s fun m => m.completionArrives tag data

def execRemoteReadTimeout (tag : Nat) (s : State) : Out := onCore s fun m => m.readTimeout tag

/-! ### Flits and ports (R70, R71, R77) -/

def Mach.portReceives (m : Mach) (up : Bool) : FlitRx → Mach
  | .flit seq time bytes crc =>
    let m := m.flitArrives up seq time bytes crc
    if m.portUp true then m else m.setValid 9 false
  | .refusal seq => m.replayFrom up seq
  | .credit given => m.relayCredit up given

def execFlitReceive (up : Bool) (f : FlitRx) (s : State) : Out :=
  onCore s fun m => m.portReceives up f

def execApbudLinkUp (up : Bool) (s : State) : Out := onCore s fun m => m.portRises up

/-- A port goes down; without the UP port CHAIN_RX is no longer valid (R342, R343). -/
def Mach.portLost (m : Mach) (up : Bool) : Mach :=
  let m := m.portFalls up
  if up then m.setValid 9 false else m

def execApbudLinkDown (up : Bool) (s : State) : Out := onCore s fun m => m.portLost up

def execRelayFlitReceive (hq addr : Nat) (bytes : List Byte) (s : State) : Out :=
  guarded (hqOk hq) (onCore s fun m => m.relayArrives hq addr bytes)

/-- The packet a port has held without credit for 100 µs is dropped and counted against its session or
host queue. -/
def Mach.creditTimeout (m : Mach) (up : Bool) : Mach :=
  match if (m.apPort up).credit then (m, none) else m.relayDrop up with
  | (m, none) => m
  | (m, some i) =>
    if i.hostQueue then m.count (Fld.INGEST_HQ_DROP_COUNT i.idx) else m.ingError i.idx 0x0C (some 6)

def execRelayCreditTimeout (up : Bool) (s : State) : Out := onCore s fun m => m.creditTimeout up

/-! ### Enumeration and events (R78 to R81) -/

def execLinkChangeReport (p : Nat) (s : State) : Out :=
  guarded (chainOk p) (onCore s fun m => m.reportArrives p)

def execChainEnumStart (mst : Nat) (v : Word) (s : State) : Out :=
  writeRow true mst 0x0F 0x004 v (fun _ => v.getLsbD 0) s

def execTokenReceive (value gen : Nat) (s : State) : Out :=
  guarded (decide (value ≤ 64 ∧ gen < 256)) (onCore s fun m => m.tokenArrives value gen)

def execEndReceive (count : Nat) (overflow : Bool) (s : State) : Out :=
  guarded (decide (0 < count ∧ count ≤ 64)) (onCore s fun m => m.endArrives count overflow)

def execEventForward (origin : Nat) (s : State) : Out :=
  guarded (chainOk origin) (onCore s fun m => m.eventArrives origin)

end Sys2Proof.Machine
end

