-- ==== Sys2Proof/Machine/DecodeExec.lean ====
section
/-! DEFINITION. The commands of the decode fabric (R171 to R208). -/

namespace Sys2Proof.Machine

/-! ### Cells and partitions (R173, R181 to R183, R188, R193, R201, R206) -/

def execCellChoose (c : Nat) (ready : List (Nat × Nat)) (s : State) : Out :=
  guarded (decOk c) (onFabric s fun m => m.cellChoose c ready)

def execContextLoadDone (c : Nat) (s : State) : Out :=
  guarded (decOk c) (onFabric s fun m => m.contextLoaded c)

def execPartitionDone (c : Nat) (front : FrontFacts) (lost : List Area) (s : State) : Out :=
  guarded (decOk c && frontOk front) (onFabric s fun m => m.partDone c front lost)

def execPartitionEnded (c samples bits : Nat) (front : FrontFacts) (s : State) : Out :=
  guarded (decOk c && frontOk front) (onFabric s fun m => m.partEnded c samples bits front)

def execPartitionTimeout (c : Nat) (left : TimeoutFacts) (s : State) : Out :=
  guarded (decOk c && frontOk left.front) (onFabric s fun m => m.partTimeout c left.front left.lost)

def execBoundaryFilterDone (d a b : Nat) (front : FrontFacts) (s : State) : Out :=
  guarded (descOk d && frontOk front) (onFabric s fun m => m.boundaryDone d a b front)

def execPictureWritesDrained (c d : Nat) (luma chroma : List Nat) (s : State) : Out :=
  guarded (decOk c && descOk d) (onFabric s fun m => m.writesDrained c d luma chroma)

/-! ### Streams (R177, R180) -/

def execStreamEnable (mst : Nat) (v : Word) (s : State) : Out :=
  writeRow true mst 0x1B 0x104 v (fun _ => v.getLsbD 31) s

def execStreamDisable (mst : Nat) (v : Word) (s : State) : Out :=
  writeRow true mst 0x1B 0x104 v (fun _ => !v.getLsbD 31) s

def execStreamDrained (x : Nat) (s : State) : Out :=
  guarded (streamOk x) (onFabric s fun m => m.streamDrained x)

/-! ### Descriptors (R200, R202) -/

def execDescFree (mst : Nat) (v : Word) (s : State) : Out :=
  writeRow true mst 0x1B 0x224 v (fun _ => v.getLsbD 0) s

def execDescKeepSet (mst : Nat) (v : Word) (s : State) : Out :=
  writeRow true mst 0x1B 0x224 v (fun _ => v.getLsbD 1) s

def execDescKeepClr (mst : Nat) (v : Word) (s : State) : Out :=
  writeRow true mst 0x1B 0x224 v (fun _ => v.getLsbD 2) s

def execDecschedRetireRead (mst : Nat) (s : State) : Out := readRow true mst 0x1B 0x028 s

/-! ### Enables (R188) -/

def execFabricEnable (mst : Nat) (v : Word) (s : State) : Out :=
  writeRow true mst 0x1B 0x000 v (fun _ => v.getLsbD 0) s

def execFabricDisable (mst : Nat) (v : Word) (s : State) : Out :=
  writeRow true mst 0x1B 0x000 v (fun _ => !v.getLsbD 0) s

def execDecCellDisable (mst c : Nat) (v : Word) (s : State) : Out :=
  writeRow (decOk c) mst (0x20 + c) 0x000 v (fun _ => !v.getLsbD 0) s

end Sys2Proof.Machine
end

