-- ==== Sys2Proof/Machine/DramExec.lean ====
section
/-! DEFINITION. The commands of the memories, their repair, the vault and the fence (R359 to R414). -/

namespace Sys2Proof.Machine

/-! ### Frequency change, retraining and refresh (R362 to R373) -/

def execDramFreqChangeRequest (mst : Nat) (v : Word) (s : State) : Out :=
  writeRow true mst 0x06 0x020 v (fun _ => v.getLsbD 31) s

def execDramFreqChangeStart (s : State) : Out := onCore s Mach.fcStart
def execDramFreqChangeNoWindow (s : State) : Out := onCore s Mach.fcNoWindow

/-- The blackout lasts at most 6 µs, and 13 µs with the return (R365, R366). -/
def execDramFreqChangeDone (passed : Bool) (blackout : Nat) (s : State) : Out :=
  guarded (decide (blackout ≤ 6000)) (onFabric s fun m => m.fcDone passed blackout)

def execDramFreqChangeReverted (rs : List LaneFailure) (blackout : Nat) (s : State) : Out :=
  guarded (!rs.isEmpty && rs.all laneFailureOk && decide (blackout ≤ 13000)) (onFabric s fun m => m.fcReverted rs blackout)

def execDramRetrain (r : ChannelTraining) (hot : Bool) (s : State) : Out :=
  guarded (trainingOk r) (onCore s fun m => m.retrain r hot)

def execDramRefresh (channel : Nat) (round : Bool) (s : State) : Out :=
  guarded (channelOk channel) (onCore s fun m => m.refresh channel round)

/-! ### The freeze and the diagnostic port (R374 to R378) -/

def execDramCommandError (mst cmd addr : Nat) (s : State) : Out :=
  guarded (mstOk mst && decide (cmd < 4 ∧ addr < 0x700000000))
    (onFabric s fun m => m.commandError mst cmd addr)

def execDramFreezeRelease (mst : Nat) (v : Word) (s : State) : Out :=
  writeRow true mst 0x06 0x050 v (fun _ => v.getLsbD 0) s

def execDiagRawRead (mst : Nat) (v : Word) (s : State) : Out :=
  writeRow true mst 0x06 0x060 v (fun _ => v.getLsbD 31 && !v.getLsbD 29) s

def execDiagWrite (mst : Nat) (v : Word) (s : State) : Out :=
  writeRow true mst 0x06 0x060 v (fun _ => v.getLsbD 31 && v.getLsbD 29) s

def execDiagDone (s : State) : Out := onCore s Mach.diagDone

/-! ### The frame store (R383) -/

def execFsUnwrite (mst : Nat) (v : Word) (s : State) : Out :=
  writeRow true mst 0x0A 0x044 v (fun _ => v.getLsbD 31) s

def execFsUnwriteDone (s : State) : Out := onCore s Mach.unwriteDone

/-! ### Scrubbing and repair (R389 to R399) -/

def execScrubWriteback (again : Bool) (s : State) : Out := onCore s fun m => m.scrubWriteback again

/-- Upsets that the sweep finds are masks of the line's eight words. -/
def execScrubRead (memory : Nat) (late : Bool) (upsets : List (Nat × Nat)) (s : State) : Out :=
  guarded (decide (memory < 3) && upsets.all fun u => decide (u.1 < 8 ∧ u.2 < 2 ^ 72))
    (onCore s fun m => m.scrubRead memory late upsets)

def execRepairStart (s : State) : Out := onCore s Mach.repairStart
def execSpareRowCopyDone (fault : Bool) (s : State) : Out := onCore s fun m => m.spareDone fault
def execGranuleCopyDone (fault : Bool) (s : State) : Out := onCore s fun m => m.granuleDone fault

def execRepairOfflineRead (mst : Nat) (s : State) : Out := readRow true mst 0x0B 0x040 s

def execEccInjArm (mst : Nat) (v : Word) (s : State) : Out :=
  writeRow true mst 0x0B 0x050 v (fun _ => v.getLsbD 31) s

/-! ### The vault (R401, R403) -/

def execVaultRead (mst k : Nat) (s : State) : Out := readRow (vaultOk k) mst 0x02 (0x1000 + 4 * k) s

def execVaultWrite (mst k : Nat) (v : Word) (s : State) : Out :=
  writeRow (vaultOk k) mst 0x02 (0x1000 + 4 * k) v (fun _ => true) s

def execVaultInject (mst : Nat) (v : Word) (s : State) : Out :=
  writeRow true mst 0x02 0x008 v (fun _ => v.getLsbD 31) s

/-! ### The fence (R410) -/

def execProtFence (mst : Nat) (s : State) : Out := readRow true mst 0x01 0x008 s
def execProtFenceDone (s : State) : Out := onCore s Mach.fencesDone

end Sys2Proof.Machine
end

