-- ==== Sys2Proof/Machine/EncExec.lean ====
section
/-! DEFINITION. The commands of the encode fabric (R303 to R326). -/

namespace Sys2Proof.Machine

def execEncStreamEnable (mst : Nat) (v : Word) (s : State) : Out :=
  writeRow true mst 0x1C 0x104 v (fun _ => v.getLsbD 31) s

def execEncStreamDisable (mst : Nat) (v : Word) (s : State) : Out :=
  writeRow true mst 0x1C 0x104 v (fun _ => !v.getLsbD 31) s

def execEncStreamDrained (e : Nat) (s : State) : Out :=
  guarded (estreamOk e) (onFabric s fun m => m.encDrained e)

def execEncForceIdr (mst : Nat) (v : Word) (s : State) : Out :=
  writeRow true mst 0x1C 0x138 v (fun _ => v.getLsbD 0) s

def execEncSliceReady (e : Nat) (s : State) : Out :=
  guarded (estreamOk e) (onFabric s fun m => m.encSliceReady e)

/-- What the spec leaves open in the parameter sets and SEI messages goes with the start (log entry 18). -/
def execEncPictureStart (e : Nat) (sets seis : List Nat) (s : State) : Out :=
  guarded (estreamOk e) (onFabric s fun m => m.encPicture e sets seis)

def execEncSliceStart (c : Nat) (s : State) : Out :=
  guarded (encOk c) (onFabric s fun m => m.encSliceStart c)

/-- What the cell decided on each CTU, and the samples of the slice as it reconstructed them, go with its
end. -/
def execEncSliceDone (c : Nat) (ctus : List CtuCode) (luma chroma : List Nat) (s : State) : Out :=
  guarded (encOk c && ctus.all ctuOk) (onFabric s fun m => m.encSliceDone c ctus luma chroma)

def execEncPacketSend (e : Nat) (s : State) : Out :=
  guarded (estreamOk e) (onFabric s fun m => m.encSend e)

def execEncCellDisable (mst c : Nat) (v : Word) (s : State) : Out :=
  writeRow (encOk c) mst (0x60 + c) 0x000 v (fun _ => !v.getLsbD 0) s

end Sys2Proof.Machine
end

