-- ==== Sys2Proof/Machine/EventExec.lean ====
section
/-! DEFINITION. The commands of events and monitor channels (R28, R480, R484, R486). -/

namespace Sys2Proof.Machine

def execEvtDoorbellWrite (mst : Nat) (v : Word) (s : State) : Out :=
  writeRow true mst 0x03 0x008 v (fun _ => true) s

def execEvtOutPulseEnd (k : Nat) (s : State) : Out :=
  guarded (fourOk k) (onCore s fun m =>
    { m with pins := { m.pins with evtOut := tabDel m.pins.evtOut k } })

/-- The load channels' sample of each ms: the fabric's load as DECSCHED.STATUS shows it, and the DRAM's. -/
def execMonPeriodicSample (dramLoad : Nat) (s : State) : Out :=
  guarded (decide (dramLoad ≤ 100))
    (onCore s fun m => (m.monSampleAll 12 m.fabricLoad).monSampleAll 13 dramLoad)

def execMonClear (mst c : Nat) (v : Word) (s : State) : Out :=
  writeRow (monOk c) mst 0x04 (0x108 + 0x20 * c) v (fun _ => v.getLsbD 0) s

def execMonCfgWrite (mst c : Nat) (v : Word) (s : State) : Out :=
  writeRow (monOk c) mst 0x04 (0x100 + 0x20 * c) v (fun _ => true) s

end Sys2Proof.Machine
end

