-- ==== Sys2Proof/Machine/HeadExec.lean ====
section
/-! DEFINITION. The commands of output heads, layers, leases and display links (R236 to R240, R259 to
R302). -/

namespace Sys2Proof.Machine

/-- The slot of a head's registers. -/
def headSlot (h : Nat) : Nat := 0x80 + h

/-! ### Heads (R265 to R293) -/

def execHeadEnable (mst h : Nat) (v : Word) (s : State) : Out :=
  writeRow (headOk h) mst (headSlot h) 0x000 v (fun _ => v.getLsbD 31) s

def execHeadDisable (mst h : Nat) (v : Word) (s : State) : Out :=
  writeRow (headOk h) mst (headSlot h) 0x000 v (fun _ => !v.getLsbD 31) s

def execHeadSlateForce (mst h : Nat) (v : Word) (s : State) : Out :=
  writeRow (headOk h) mst (headSlot h) 0x000 v (fun _ => v.getLsbD 30) s

def execHeadStart (h : Nat) (env : LineEnv) (s : State) : Out :=
  guarded (headOk h && lineOk env) (onFabric s fun m => m.headStarts h env)

def execHeadLineStart (h : Nat) (env : LineEnv) (s : State) : Out :=
  guarded (headOk h && lineOk env) (onFabric s fun m => m.lineStarts h env)

def execFrameDone (h : Nat) (s : State) : Out :=
  guarded (headOk h) (onFabric s fun m => m.frameEnd h)

def execHeadCommit (mst h : Nat) (v : Word) (s : State) : Out :=
  writeRow (headOk h) mst (headSlot h) 0x010 v (fun _ => v.getLsbD 0) s

/-! ### Layers and leases (R236, R238, R261) -/

def execLayerpoolCommit (mst : Nat) (v : Word) (s : State) : Out :=
  writeRow true mst 0x1D 0x010 v (fun _ => true) s

def execFreshCommit (mst : Nat) (v : Word) (s : State) : Out :=
  writeRow true mst 0x19 0x010 v (fun _ => true) s

def execLayerAssign (mst x : Nat) (v : Word) (s : State) : Out :=
  writeRow (slotIndexOk x) mst 0x1D (0x1000 + 0x40 * x) v (fun _ => true) s

def execLeaseEndedRead (mst : Nat) (s : State) : Out := readRow true mst 0x1A 0x030 s

end Sys2Proof.Machine
end

