-- ==== Sys2Proof/Machine/IngestExec.lean ====
section
/-! DEFINITION. The commands of Ethernet ingest, the session table and the host queues (R140 to R170). -/

namespace Sys2Proof.Machine

/-! ### Frames and units (R140, R151 to R156, R168) -/

def execEthFrameReceive (port detected : Nat) (bytes : List Byte) (env : RxEnv) (s : State) : Out :=
  guarded (ethOk port && envOk env) (onFabric s fun m => m.frameArrives port detected bytes env)

def execRelayPacketReceive (up : Bool) (target session stamp : Nat) (udp : List Byte) (env : RxEnv)
    (s : State) : Out :=
  guarded (chainOk target && sessOk session && envOk env)
    (onFabric s fun m => m.relayPacket up target session stamp udp env)

def execUnitLossWaitExpiry (x created : Nat) (s : State) : Out :=
  guarded (sessOk x) (onFabric s fun m => m.lossWait x created)

def execUnitRelease (x : Nat) (facts : PicFacts) (created : Nat) (s : State) : Out :=
  guarded (sessOk x) (onFabric s fun m => m.unitRelease x facts created)

/-! ### Ports (R142) -/

def execEthLinkChange (port : Nat) (link lock : Bool) (s : State) : Out :=
  guarded (ethOk port) (onCore s fun m => m.ethLink port link lock)

def execEthSidebandChange (port : Nat) (modabs los txflt : Bool) (s : State) : Out :=
  guarded (ethOk port) (onCore s fun m => m.ethSideband port modabs los txflt)

/-! ### Session entries (R146, R148, R149, R158) -/

def execSessionEnable (mst : Nat) (v : Word) (s : State) : Out :=
  writeRow true mst 0x14 0x1000 v (fun _ => v.getLsbD 31) s

def execSessionDisable (mst : Nat) (v : Word) (s : State) : Out :=
  writeRow true mst 0x14 0x1000 v (fun _ => !v.getLsbD 31) s

def execSessionDrained (x : Nat) (s : State) : Out :=
  guarded (sessOk x) (onCore s fun m => m.sessDrained x)

def execSessionActiveTimeout (x : Nat) (s : State) : Out :=
  guarded (sessOk x) (onCore s fun m => m.put (Fld.INGEST_SESS_STATUS_ACTIVE x) 0)

def execSessionMapWrite (mst : Nat) (v : Word) (s : State) : Out :=
  writeRow true mst 0x14 0x1048 v (fun _ => true) s

/-! ### The transmit queue (R165) -/

/-- The entries that the write gives to the module go with it, each of 32 to 2048 bytes. -/
def execHq5ProdWrite (mst : Nat) (v : Word) (entries : List (List Byte)) (s : State) : Out :=
  guarded (mstOk mst && entries.all fun e => decide (32 ≤ e.length ∧ e.length ≤ 2048))
    (onCore s fun m => (m.regIssue mst 0x14 0x258 v entries).resume)

def execHostqTransmitDone (sent : TxSent) (s : State) : Out :=
  guarded (decide (32 ≤ sent.entry.length ∧ sent.entry.length ≤ 2048))
    (onCore s fun m => m.hq5Done sent.emission sent.entry)

end Sys2Proof.Machine
end

