-- ==== Sys2Proof/Machine/JobExec.lean ====
section
/-! DEFINITION. The commands of the compression engine and the check units (R455 to R476). -/

namespace Sys2Proof.Machine

/-! ### DEFL (R456, R457, R460, R461) -/

def execDeflSubmit (mst : Nat) (v : Word) (s : State) : Out :=
  writeRow true mst 0x17 0x040 v (fun _ => true) s

def execDeflCompress (s : State) : Out := onCore s fun m => m.deflStart (· == 0)
def execDeflDecompress (s : State) : Out := onCore s fun m => m.deflStart (· != 0)

def execDeflJobDone (q : Nat) (parts : List (List Byte)) (finished : Bool) (consumed : Nat) (s : State) :
    Out :=
  guarded (decide (q < 16)) (onCore s fun m => m.deflJobDone q parts finished consumed)

/-! ### GUARD messages (R474) -/

/-- The TARGET and VALUE of each pair of a GUARD payload. -/
def guardPairs (bytes : List Byte) : List (Nat × Word) :=
  (List.range ((bytes.length - 8) / 8)).map fun i =>
    (leAt bytes (8 + 8 * i) 4, BitVec.ofNat 32 (leAt bytes (12 + 8 * i) 4))

/-- Why a pair may not be written: the violation it is captured as. -/
def Mach.guardBad (m : Mach) (mst target : Nat) : Option Nat :=
  let slot := target / 0x10000 % 0x100
  let off := target % 0x10000
  if 0x1000000 ≤ target ∨ off % 4 ≠ 0 ∨ (findReg slot off).isNone = true ∨ hardWiredLine slot off = true
  then some (violUnmapped true)
  else m.regDenied mst slot off true

/-- Capture the pairs that may not be written. -/
def Mach.guardDeny (m : Mach) (mst : Nat) (pairs : List (Nat × Word)) : Mach :=
  pairs.foldl (fun a p => match m.guardBad mst p.1 with
    | some k => a.violate k (p.1 / 0x10000 % 0x100) mst (0x2000000000 + p.1 % 0x1000000)
    | none => a) m

/-- Write the pairs in order, for as long as the unit still holds the job. -/
def Mach.guardWrite (m : Mach) (u : Nat) (j : QueuedJob) (pairs : List (Nat × Word)) : Mach :=
  pairs.foldl (fun m p =>
    if (m.checkUnit u).jobs.head? = some j then
      (m.regWrite j.mst (p.1 / 0x10000 % 0x100) (p.1 % 0x10000) p.2).1
    else m) m

/-- A GUARD job; its event follows its record (R471, R474). -/
def Mach.checkGuardJob (m : Mach) (u : Nat) : Mach :=
  match m.checkNext u (· == 2) with
  | none => m
  | some j =>
    let r := m.checkMessage u j (checkDesc j.desc)
    if r.2.1 ≠ cOk then r.1.checkRan u j r.2.1 r.2.2.2
    else
      let m := r.1
      let pairs := guardPairs r.2.2.1
      if pairs.any fun p => (m.guardBad j.mst p.1).isSome then
        (m.guardDeny j.mst pairs).checkRan u j cDenied r.2.2.2
      else
        let m := (m.checkPassed u (r.2.2.2.getD 0)).guardWrite u j pairs
        if (m.checkUnit u).jobs.head? = some j then
          m.checkRan u j cOk r.2.2.2 true
        else m

/-! ### CHECK (R468 to R475) -/

def execCheckSubmit (mst : Nat) (v : Word) (s : State) : Out :=
  writeRow true mst 0x18 0x040 v (fun _ => true) s

def execCheckJobCrc (u : Nat) (s : State) : Out :=
  guarded (unitOk u) (onCore s fun m => m.checkCrcJob u)

def execCheckJobAlive (u : Nat) (s : State) : Out :=
  guarded (unitOk u) (onCore s fun m => m.checkAliveJob u)

def execCheckJobGuard (u : Nat) (s : State) : Out :=
  guarded (unitOk u) (onCore s fun m => m.checkGuardJob u)

def execCheckJobDone (u : Nat) (s : State) : Out :=
  guarded (unitOk u) (onCore s fun m => m.checkJobDone u)

/-- Offset of a register of a unit. -/
def unitOff (u off : Nat) : Nat := 0x400 + 0x40 * u + off

def execCheckDataWrite (mst u : Nat) (v : Word) (s : State) : Out :=
  writeRow (unitOk u) mst 0x18 (unitOff u 0x18) v (fun _ => true) s

def execCheckData8Write (mst u : Nat) (v : Word) (s : State) : Out :=
  writeRow (unitOk u) mst 0x18 (unitOff u 0x1C) v (fun _ => true) s

def execCheckLoadInit (mst u : Nat) (v : Word) (s : State) : Out :=
  writeRow (unitOk u) mst 0x18 (unitOff u 0x20) v (fun _ => v.getLsbD 0) s

def execCheckResync (mst u : Nat) (v : Word) (s : State) : Out :=
  writeRow (unitOk u) mst 0x18 (unitOff u 0x20) v (fun _ => v.getLsbD 1) s

end Sys2Proof.Machine
end

