-- ==== Sys2Proof/Machine/LinkExec.lean ====
section
/-! DEFINITION. The commands of display links: DisplayPort training and hot plug, AUX transactions, DSI
commands and the tearing-effect input (R294 to R301). -/

namespace Sys2Proof.Machine

/-! ### DisplayPort (R295, R296) -/

def execDpTrain (mst h : Nat) (v : Word) (s : State) : Out :=
  writeRow (dpOk h) mst (headSlot h) 0x200 v (fun _ => v.getLsbD 31) s

def execDpTrainDone (h : Nat) (ok : Bool) (reached sink : DpLink) (psr psr2 : Bool) (s : State) : Out :=
  guarded (dpOk h) (onCore s fun m =>
    m.trainDone h ok reached.rate reached.lanes sink.rate sink.lanes psr psr2)

def execDpUnplug (h : Nat) (s : State) : Out := guarded (dpOk h) (onCore s fun m => m.unplug h)
def execDpReplug (h : Nat) (s : State) : Out := guarded (dpOk h) (onCore s fun m => m.replug h)

def execDpIrqHpd (h : Nat) (lost : Bool) (s : State) : Out :=
  guarded (dpOk h) (onCore s fun m => m.irqHpd h lost)

/-! ### AUX transactions (R297) -/

/-- GO with a request command of the row; MOT (0x4) may be added to an I²C one. -/
def auxRow (mst h : Nat) (v : Word) (cmds : List Nat) (s : State) : Out :=
  writeRow (dpOk h) mst (headSlot h) 0x208 v
    (fun _ => v.getLsbD 31 && cmds.contains (bitsOf v.toNat 24 4)) s

def execAuxNativeWrite (mst h : Nat) (v : Word) (s : State) : Out := auxRow mst h v [0x8] s
def execAuxNativeRead (mst h : Nat) (v : Word) (s : State) : Out := auxRow mst h v [0x9] s
def execAuxI2cWrite (mst h : Nat) (v : Word) (s : State) : Out := auxRow mst h v [0x0, 0x4] s
def execAuxI2cRead (mst h : Nat) (v : Word) (s : State) : Out := auxRow mst h v [0x1, 0x5] s

def execAuxReply (h kind count : Nat) (bytes : List Byte) (s : State) : Out :=
  guarded (dpOk h && decide (kind < 3 ∧ count ≤ 16 ∧ bytes.length ≤ 16))
    (onCore s fun m => m.auxReply h kind count bytes)

def execAuxTimeout (h : Nat) (s : State) : Out := guarded (dpOk h) (onCore s fun m => m.auxTimeout h)
def execAuxDeferRetry (h : Nat) (s : State) : Out := guarded (dpOk h) (onCore s fun m => m.auxRetry h)

/-! ### DSI (R298 to R301) -/

/-- GO with a data type of the row. -/
def dcsRow (mst h : Nat) (v : Word) (dt : Nat) (s : State) : Out :=
  writeRow (dsiOk h) mst (headSlot h) 0x208 v
    (fun _ => v.getLsbD 31 && bitsOf v.toNat 24 6 == dt) s

def execDcsShortWrite (mst h : Nat) (v : Word) (s : State) : Out := dcsRow mst h v 0x05 s
def execDcsShortWriteParam (mst h : Nat) (v : Word) (s : State) : Out := dcsRow mst h v 0x15 s
def execDcsLongWrite (mst h : Nat) (v : Word) (s : State) : Out := dcsRow mst h v 0x39 s
def execDcsRead (mst h : Nat) (v : Word) (s : State) : Out := dcsRow mst h v 0x06 s

def execDsiCmdDone (h : Nat) (bytes : List Byte) (report : Option Nat) (s : State) : Out :=
  guarded (dsiOk h && report.elim true fun e => decide (e < 0x10000))
    (onCore s fun m => m.dsiDone h bytes report)

def execDsiPanelReset (mst h : Nat) (v : Word) (s : State) : Out :=
  writeRow (dsiOk h) mst (headSlot h) 0x200 v (fun _ => true) s

def execDsiTeEdge (h : Nat) (s : State) : Out := guarded (dsiOk h) (onCore s fun m => m.teEdge h)
def execDsiTeLost (h : Nat) (s : State) : Out := guarded (dsiOk h) (onCore s fun m => m.teMissing h)

end Sys2Proof.Machine
end

