-- ==== Sys2Proof/Machine/PairExec.lean ====
section
/-! DEFINITION. The commands of paired operation (R415 to R438). -/

namespace Sys2Proof.Machine

/-! ### Enable and possession (R416 to R421, R432) -/

def execPairEnable (mst : Nat) (v : Word) (s : State) : Out :=
  writeRow true mst 0x15 0x000 v (fun _ => v.getLsbD 31) s

def execPairDisable (mst : Nat) (v : Word) (s : State) : Out :=
  writeRow true mst 0x15 0x000 v (fun _ => !v.getLsbD 31) s

/-- The line's level is sampled whatever the power state. -/
def execPossNRise (s : State) : Out := always s Mach.possRise
def execPossNFall (s : State) : Out := always s Mach.possFall

def execPossQuietExpiry (s : State) : Out := onCore s Mach.possQuiet

def execPairStatusSend (s : State) : Out := onCore s Mach.statusSend

def execPairStatusReceive (possession : Bool) (handover : Option Nat) (s : State) : Out :=
  onCore s fun m => m.statusArrives possession handover

/-! ### Link and power (R415, R436) -/

def execPairLinkUp (s : State) : Out := onCore s Mach.pairLinkUp
def execPairLinkDown (s : State) : Out := onCore s Mach.pairLinkDown

/-- The partner's PAIR_PG level is followed whatever the power state. -/
def execPairPgChange (good : Bool) (s : State) : Out := always s fun m => m.partnerPower good

/-! ### Messages from the partner (R422 to R430) -/

def Mach.mirrorArrives (m : Mach) : MirrorWrite → Mach
  | .register slot off e v => m.mirrorRegArrives slot off e v
  | .memory addr bytes => m.mirrorMemArrives addr bytes

def execPairMirrorWrite (w : MirrorWrite) (s : State) : Out :=
  guarded (mirrorOk w) (onFabric s fun m => m.mirrorArrives w)

def execBallotReceive (b : Ballot) (s : State) : Out :=
  guarded (headOk b.head) (onCore s fun m => m.ballotReceived b)

def execSignatureReceive (r : SigMsg) (s : State) : Out :=
  guarded (headOk r.head) (onCore s fun m => m.signatureArrives r)

/-! ### The watchdog and commands (R434, R437) -/

def execPairWdogExpiry (s : State) : Out := onCore s Mach.wdogExpiry

def execPairWdogKick (mst : Nat) (v : Word) (s : State) : Out :=
  writeRow true mst 0x15 0x008 v (fun _ => v.getLsbD 0) s

def execPairHandover (mst : Nat) (v : Word) (s : State) : Out :=
  writeRow true mst 0x15 0x008 v (fun _ => v.getLsbD 1) s

def execPairClearFault (mst : Nat) (v : Word) (s : State) : Out :=
  writeRow true mst 0x15 0x008 v (fun _ => v.getLsbD 2) s

end Sys2Proof.Machine
end

