-- ==== Sys2Proof/Machine/PowerExec.lean ====
section
/-! DEFINITION. The commands of power, reset, boot and board management (R41 to R56, R84 to R94). -/

namespace Sys2Proof.Machine

def Mach.inPhase (m : Mach) (p : PwrPhase) : Bool := m.pwr.phase == p

/-! ### Power-up and power-down (R50 to R52) -/

/-- VIN has come, or WAKE_N ends Dormant: a full power-up. After a latched rail failure the module
stays off until VIN has been removed (R51). -/
def Mach.vinRises (m : Mach) : Mach :=
  match m.pwr.phase with
  | .off => if m.pwr.railLatched then m else m.powerOn 0
  | .downing => m.powerOn 0
  | .dormant => m.powerOn 1
  | _ => m

def execPowerOn (s : State) : Out := always s Mach.vinRises

def execRailsPowerGood (s : State) : Out :=
  always s fun m => if m.inPhase .softStart || m.inPhase .railsRise then m.toPhase .railsUp else m

/-- A rail has failed: three retries, then off (R51). The load switch opens, so that after Keep nothing is
left but the cause of the wake, and the retry is a whole power-up. -/
def Mach.railFails (m : Mach) : Mach :=
  if m.inPhase .railsRise then
    ((m.resetTo .retryWait).updPwr fun p => { p with railTries := 1 }).put
      Fld.SYS_PWR_STATUS_WAKE_CAUSE (m.get Fld.SYS_PWR_STATUS_WAKE_CAUSE)
  else if !m.inPhase .softStart then m
  else if m.pwr.railTries < 3 then
    m.updPwr fun p => { p with phase := .retryWait, railTries := p.railTries + 1 }
  else m.updPwr fun p => { p with phase := .off, railLatched := true }

def execRailFailure (s : State) : Out := always s Mach.railFails

def execRailRetry (s : State) : Out :=
  always s fun m => if m.inPhase .retryWait then m.toPhase .softStart else m

/-- VIN falls below VIN_LOW; in Keep only the status bit is alive. -/
def Mach.vinLow (m : Mach) : Mach :=
  if m.on || m.inPhase .entering then (m.put Fld.SYS_PWR_STATUS_VIN_LOW 1).raise evVinLow
  else if m.inPhase .keep then m.put Fld.SYS_PWR_STATUS_VIN_LOW 1
  else m

def execVinLow (s : State) : Out := always s Mach.vinLow

/-- VIN falls below the UVLO falling threshold: contents are lost; without power the load switch is
open at once. -/
def Mach.vinFalls (m : Mach) : Mach :=
  let dark := m.inPhase .off || m.inPhase .dormant || m.inPhase .retryWait
  (m.resetTo (if dark then .off else .downing)).updPwr fun p =>
    { p with railLatched := false, tripLatched := false }

def execPowerDown (s : State) : Out := always s Mach.vinFalls

def execPowerDownDone (s : State) : Out :=
  always s fun m => if m.inPhase .downing then m.toPhase .off else m

/-! ### Resets (R53, R54) -/

/-- RESET_N is low: a reset in Run or Idle or in a thermal trip. Elsewhere it resets nothing (R54), and holds
the next power-up at step 4 while it stays low (R51). -/
def Mach.resetLow (m : Mach) : Mach :=
  match m.pwr.phase with
  | .on | .tripped => m.resetN
  | _ => m.updPwr fun p => { p with resetLow := true }

def execResetNAssert (s : State) : Out := always s Mach.resetLow

/-- RESET_N rises: power-up goes on with step 4; the trip latch stays as the telemetry's record. -/
def Mach.resetHigh (m : Mach) : Mach :=
  if !m.pwr.resetLow then m
  else
    let m := m.updPwr fun p => { p with resetLow := false }
    if m.inPhase .tripped then m.toPhase .railsUp else m

def execResetNRelease (s : State) : Out := always s Mach.resetHigh

/-- A write of SOFT_RESET with GO. -/
def execSoftReset (mst : Nat) (v : Word) (s : State) : Out :=
  writeRow true mst 0 0x110 v (fun _ => v.getLsbD 0) s

/-! ### Temperature (R56) -/

def execThermWarn (s : State) : Out :=
  onCore s fun m => (m.put Fld.SYS_PWR_STATUS_THERM_WARN 1).raise evTempWarn

def Mach.thermalTrip (m : Mach) : Mach :=
  if m.on || m.inPhase .railsUp || m.inPhase .entering then
    (m.resetTo .tripped).updPwr fun p => { p with tripLatched := true }
  else m

def execThermalTrip (s : State) : Out := always s Mach.thermalTrip

/-! ### Power states (R42 to R48) -/

/-- A write of PWR_CTRL that names a TARGET. WAKE_N is as the command finds it. -/
def targetRow (mst : Nat) (v : Word) (target : Nat) (wake : Option Bool) (s : State) : Out :=
  guarded (mstOk mst) (onCore s fun m =>
    if bitsOf v.toNat 0 2 = target then
      -- a write that is denied or waits takes no level from its command
      let taken := (m.regDenied mst 0 0x100 true).isNone && !m.hostWaits mst
      let m := match wake with
        | some low => if taken then m.updPwr fun p => { p with wakeLow := some low } else m
        | none => m
      (m.regIssue mst 0 0x100 v []).resume
    else m)

def execPwrTargetRun (mst : Nat) (v : Word) (s : State) : Out := targetRow mst v 0 none s
def execPwrTargetIdle (mst : Nat) (v : Word) (s : State) : Out := targetRow mst v 1 none s
def execPwrRequestKeep (mst : Nat) (v : Word) (wakeLow : Bool) (s : State) : Out :=
  targetRow mst v 2 (some wakeLow) s
def execPwrRequestDormant (mst : Nat) (v : Word) (wakeLow : Bool) (s : State) : Out :=
  targetRow mst v 3 (some wakeLow) s

/-- Step 4 of the entry is complete: Keep; with WAKE_N low the exit begins at once (R46). -/
def Mach.keepReached (m : Mach) (wakeLow : Bool) : Mach :=
  if m.inPhase .entering && !m.pwr.toDormant then
    if wakeLow then m.keepState.keepExit 2 else m.keepState
  else m

def execKeepReached (wakeLow : Bool) (s : State) : Out := always s fun m => m.keepReached wakeLow

/-- The load switch opens: Dormant. The SYS power registers and the TOUCH wake settings stand until its
exit (R47), which keeps nothing (R53, log entry 24). -/
def Mach.dormantReached (m : Mach) (wakeLow : Bool) : Mach :=
  if m.inPhase .entering && m.pwr.toDormant then
    let r := (m.resetTo .dormant).keepRegs m (powerKept ++ touchKept)
    let r := (r.put Fld.SYS_PWR_STATUS_BOOT_READY 0).put Fld.SYS_PWR_STATUS_STATE 0
    if wakeLow then r.powerOn 1 else r
  else m

def execDormantReached (wakeLow : Bool) (s : State) : Out :=
  always s fun m => m.dormantReached wakeLow

def Mach.wakeUp (m : Mach) : Mach :=
  match m.pwr.phase with
  | .keep => m.keepExit 2
  | .dormant => m.powerOn 1
  | _ => m

def execWake (s : State) : Out := always s Mach.wakeUp

/-- No master has accessed DRAM for IDLE_DELAY microseconds of 250 ticks; values below 10 act as 10 (R42). -/
def Mach.dramQuiet (m : Mach) : Bool :=
  decide (m.dram.lastUse + 250 * max 10 (m.get Fld.SYS_IDLE_DELAY_DELAY) ≤ m.time.ticks)

/-- The conditions of R42 (R367, R369). -/
def Mach.idleReady (m : Mach) : Bool :=
  m.dramQuiet &&
  m.get Fld.SYS_PWR_CTRL_TARGET == 1 && !m.is Fld.SYS_PWR_STATUS_STATE &&
  ((List.range 20).all fun h => !m.is (Fld.HEAD_CTRL_EN h) || m.fsMode h) &&
  m.is Fld.DRAMC_CTRL_SREF_EN && !m.frozen && !m.is Fld.DRAMC_STATUS_FC_BUSY &&
  decide (30000 < m.tolMin) && !m.anyPanic

def execIdleEntry (s : State) : Out :=
  onCore s fun m =>
    if m.idleReady then (m.put Fld.SYS_PWR_STATUS_STATE 1).put Fld.DRAMC_STATUS_SREF 1 else m

/-- A DRAM access in Idle: back to Run, and the accesses that wait are performed (R43). -/
def Mach.idleEnds (m : Mach) : Mach :=
  if m.is Fld.SYS_PWR_STATUS_STATE then m.dramWake.releaseHeld.resume else m.resume

def execIdleWakeAccess (s : State) : Out := onCore s Mach.idleEnds

/-! ### Boot (R84 to R94) -/

/-- Power-up step 4 (R50): internal reset is released and the boot ROM starts. -/
def Mach.romStart (m : Mach) (sel : Nat) : Mach :=
  if (m.on && !m.boot.romStarted) || (m.inPhase .railsUp && !m.pwr.resetLow) then m.bootStart sel
  else m

def execBootRomStart (sel : Nat) (s : State) : Out :=
  guarded (decide (sel < 4)) (always s fun m => m.romStart sel)

def execFsWrittenBitsCleared (s : State) : Out :=
  onCore s fun m => if m.boot.romStarted && !m.boot.fsCleared then m.bootCleared else m

def execDramTrainingDone (rs : List ChannelTraining) (s : State) : Out :=
  guarded (trainedWhole rs) (onCore s fun m =>
    if m.boot.romStarted && !m.boot.trained && m.boot.trainFail.isNone then m.bootTrained rs else m)

def execDramZeroFillDone (s : State) : Out :=
  onCore s fun m => if m.boot.zeroFilled then m else m.bootZeroFilled.resume

def execQspiImageReadDone (image : List Byte) (s : State) : Out :=
  onCore s fun m => m.bootFlash image

def execBootHostLoadGo (mst : Nat) (v : Word) (s : State) : Out :=
  writeRow true mst 5 0x004 v (fun _ => v.getLsbD 31) s

def execBootSignatureVerified (s : State) : Out := onCore s Mach.bootSigned
def execBootSegmentCopyDone (s : State) : Out := onCore s Mach.bootCopied

def execBootNoLockTimeout (s : State) : Out :=
  onCore s fun m =>
    if m.stage = 6 ∧ m.locked = false then m.put Fld.BOOT_STATUS_CODE bootENoLock else m

def execBootLock (mst : Nat) (v : Word) (s : State) : Out :=
  writeRow true mst 1 0x000 v (fun _ => v.getLsbD 0) s

/-! ### I²C (R55) -/

/-- A read of telemetry: what the module measures comes with the command. -/
def execI2cTelemetryRead (off len : Nat) (temp : Int) (vin cur : Nat) (s : State) : Out :=
  guarded (decide (off < 256 ∧ len ≤ 256)) (always s fun m =>
    if m.i2cActive then
      let r := m.telemetryBytes (m.telemetry temp vin cur) ((List.range len).map (off + ·))
      r.1.send (.i2c r.2)
    else m)

/-- A read of the EEPROM; one that runs past offset 0xFF goes on at 0x00 (log entry 24). -/
def execI2cEepromRead (off len : Nat) (s : State) : Out :=
  guarded (decide (off < 256 ∧ len ≤ 256)) (always s fun m =>
    if m.i2cActive then
      m.send (.i2c ((List.range len).map fun i =>
        eepromByte (m.rd Reg.CHAIN_UNIT_ID).toNat ((off + i) % 256)))
    else m)

/-- Acknowledged and discarded, where the target answers. -/
def execI2cEepromWrite (off : Nat) (data : List Byte) (s : State) : Out :=
  guarded (decide (off < 256 ∧ data.length ≤ 256))
    (always s fun m => if m.i2cActive then m.send .i2cAck else m)

end Sys2Proof.Machine
end

