-- ==== Sys2Proof/Machine/TimeExec.lean ====
section
/-! DEFINITION. The commands of network time, the DPLL and the time outputs (R327 to R353, R489). -/

namespace Sys2Proof.Machine

/-! ### Ticks (R47, R327, R331, R349) -/

/-- Several periods of the clock that counts time: TIME_CLK, or the TCXO in Keep and, after it, until the
internal reset is released (R47, R48, log entry 24). -/
def Mach.ticksPass (m : Mach) (n : Nat) : Mach :=
  match m.pwr.phase with
  | .on | .entering => if n = 0 then m else (((m.tickN n).freesPass.chainSends n).mirrorDrains n).resume
  | .keep | .railsRise => m.keepTickN n
  | .railsUp => if m.get Fld.SYS_RESET_CAUSE_CAUSE = 2 then m.keepTickN n else m
  | _ => m

def execTimeClkTick (n : Nat) (s : State) : Out := always s fun m => m.ticksPass n

/-- An instant within the tick that runs, `part` units of 2^-28 ns after its start. -/
def Mach.instant (m : Mach) (part : Nat) : Nat := (m.now + part) % timeSpan

def execTimeSnap (mst : Nat) (v : Word) (s : State) : Out :=
  writeRow true mst 0x0C 0x008 v (fun _ => v.getLsbD 0) s

/-! ### Domains (R332, R334) -/

def execDomainSample (mst d : Nat) (v : Word) (s : State) : Out :=
  writeRow (domOk d) mst 0x0C (0x118 + 0x40 * d) v (fun _ => true) s

def execDomainEnable (mst d : Nat) (v : Word) (s : State) : Out :=
  writeRow (domOk d) mst 0x0C (0x100 + 0x40 * d) v (fun _ => v.getLsbD 31) s

def execDomainDisable (mst d : Nat) (v : Word) (s : State) : Out :=
  writeRow (domOk d) mst 0x0C (0x100 + 0x40 * d) v (fun _ => !v.getLsbD 31) s

/-- No accepted sample for TIMEOUT: the domain's input becomes invalid, and a domain that is not the
active input changes state (R334, R335, R343). -/
def Mach.domSilent (m : Mach) (d : Nat) : Mach :=
  let m := m.domValidity d false
  if m.dpll.active = some d then m else m.domTimeout d

def execDomainTimeout (d : Nat) (s : State) : Out :=
  guarded (domOk d) (onCore s fun m => m.domSilent d)

/-- HOLD_MAX seconds in HOLDOVER. -/
def Mach.domHeldLong (m : Mach) (d : Nat) : Mach :=
  if m.dpll.active = some d then m
  else if (m.dom d).st = .holdover then m.setDomState d .lost else m

def execDomainHoldMax (d : Nat) (s : State) : Out :=
  guarded (domOk d) (onCore s fun m => m.domHeldLong d)

/-! ### Chain time transfer (R336, R341, R342) -/

/-- The exchange of each ms: a request at t1. -/
def Mach.timeAsk (m : Mach) (part : Nat) : Mach :=
  if m.portUp true then
    ({ m with time := { m.time with exchange := some (m.instant part) } }).sendChain true .timeRequest
  else m

def execChainTimeExchange (part : Nat) (s : State) : Out :=
  guarded (partOk part) (onCore s fun m => m.timeAsk part)

/-- A request that arrived at t2 is answered at t3, `after` later. -/
def Mach.timeAnswer (m : Mach) (part after : Nat) : Mach :=
  m.sendChain false (.timeReply (m.instant part) (m.instant (part + after)) m.time.domA.ofs
    m.time.domB.ofs (m.domReport 0) (m.domReport 1))

def execChainTimeRequest (part after : Nat) (s : State) : Out :=
  guarded (partOk part) (onCore s fun m => m.timeAnswer part after)

/-- The offset of R341, in units of 2^-28 ns. -/
def Mach.chainOffset (m : Mach) (t1 t2 t3 t4 : Nat) : Int :=
  let asym := signedOf 32 (m.get Fld.TIME_CHAIN_ASYM_ADJ)
  wholeOf (((((t2 : Int) - t1) + ((t3 : Int) - t4) : Int) - (asym : Rat) * unitNs / 1000) / 2)

/-- What a time message from upstream brings a domain with SRC = CHAIN (R336): its upstream state and
one sample. -/
def Mach.chainDomain (m : Mach) (d : Nat) (o up : Int) (st : DomState) : Mach :=
  if m.is (Fld.TIME_DOM_CFG_SRC d) && m.is (Fld.TIME_DOM_CFG_EN d) then
    let was := m.domReport d
    let own := (m.dom d).st
    let e := o + up - (m.dom d).ofs
    let m := m.updDom d fun x => { x with upState := some (m.time.ticks, st) }
    let m := m.domSample d true false e
    m.raiseIf (was != m.domReport d && own == (m.dom d).st && m.dpll.active != some d) (evDomState d)
  else m

/-- The reply arrives at t4: CHAIN_RX is valid, and the offset feeds it and the CHAIN domains. -/
def Mach.timeReplied (m : Mach) (t2 t3 : Nat) (ofsA ofsB : Int) (stA stB : DomState) (part : Nat) :
    Mach :=
  if !m.portUp true then m
  else match m.time.exchange with
    | none => m
    | some t1 =>
      let o := m.chainOffset t1 t2 t3 (m.instant part)
      let m := { m with time := { m.time with exchange := none } }
      let m := m.setValid 9 true
      let m := (m.chainDomain 0 o ofsA stA).chainDomain 1 o ofsB stB
      if m.dpll.active = some 9 then m.dpllSample 9 o else m

def execChainTimeReply (t2 t3 : Nat) (ofsA ofsB : Int) (stA stB : DomState) (part : Nat) (s : State) :
    Out :=
  guarded (partOk part) (onCore s fun m => m.timeReplied t2 t3 ofsA ofsB stA stB part)

/-! ### 1PPS_IN (R339) -/

/-- An edge on 1PPS_IN: stamped where it is the active edge. -/
def Mach.ppsEdge (m : Mach) (falling : Bool) (part : Nat) : Mach :=
  if m.is Fld.TIME_PPS_IN_CTRL_EN && m.is Fld.TIME_PPS_IN_CTRL_POL == falling then
    let t := m.instant part
    let m := m.put Fld.TIME_PPS_IN_SEC_LO_SEC_LO (secOf t)
    let m := m.put Fld.TIME_PPS_IN_HI_FRAC (fracOf t)
    let m := m.put Fld.TIME_PPS_IN_HI_SEC_HI (secOf t / 2 ^ 32)
    let m := m.put Fld.TIME_PPS_IN_NS_NS (nsOf t)
    (m.put Fld.TIME_PPS_IN_CTRL_NEW 1).raise evPpsIn
  else m

def execPpsInEdge (falling : Bool) (part : Nat) (s : State) : Out :=
  guarded (partOk part) (onCore s fun m => m.ppsEdge falling part)

/-! ### The DPLL (R343 to R349) -/

/-- What an input's row of R343 requires beside its own signal. -/
def Mach.inputMay (m : Mach) (k : Nat) : Bool :=
  if k < 2 then
    m.is (Fld.TIME_DOM_CFG_EN k) && m.domReport k != .freeRun && !m.domAged k
  else if k < 5 then m.inputNear k
  else if k < 9 then m.inputNear k && m.is (Fld.ETH_STATUS_LINK (k - 5)) && m.is (Fld.ETH_STATUS_BLOCK_LOCK (k - 5))
  else m.portUp true

/-- The validity of an input changes; a clock input's offset from nominal, in ppb, goes with it. -/
def Mach.inputChanges (m : Mach) (k : Nat) (valid : Bool) (fofs : Int) : Mach :=
  let m := if 2 ≤ k ∧ k < 9 then m.updDpll fun x => { x with fofs := tabSet x.fofs k fofs } else m
  m.setValid k (valid && m.inputMay k)

def execDpllInputValidity (k : Nat) (valid : Bool) (fofs : Int) (s : State) : Out :=
  guarded (inputOk k) (onCore s fun m => m.inputChanges k valid fofs)

/-- An input has been valid for QUAL_TIME (R344). -/
def Mach.inputQualifies (m : Mach) (k : Nat) : Mach :=
  if m.dpll.valid.contains k then
    (m.updDpll fun x => { x with qualified := insertNat x.qualified k }).reselect
  else m

def execDpllInputQualified (k : Nat) (s : State) : Out :=
  guarded (inputOk k) (onCore s fun m => m.inputQualifies k)

/-- The divided period of a clock input in units of 2^-28 ns: the least divisor that gives at most 1 kHz
(R345). -/
def Mach.inputPeriod (m : Mach) (k : Nat) : Rat :=
  if 5 ≤ k then ((1000000 * unitNs : Nat) : Rat)
  else
    let num := m.get (Fld.DPLL_IN_FREQ_NUM_NUM k)
    let den := max 1 (m.get (Fld.DPLL_IN_CFG_DEN k))
    let n := max 1 ((num + 1000 * den - 1) / (1000 * den))
    ((n * den * unitSec : Nat) : Rat) / (num : Rat)

/-- The error of a divided edge with a LOCAL stamp (R345). -/
def Mach.edgeError (m : Mach) (k stamp : Nat) : Int :=
  let p := m.inputPeriod k
  let ph : Rat := if k < 5 then ((m.get (Fld.DPLL_IN_PHASE_PHASE k) * unitNs : Nat) : Rat) else 0
  let i := nearest (((stamp : Rat) - ph) / p)
  wholeOf ((i : Rat) * p + ph - (stamp : Rat))

/-- A divided edge of the active clock input. -/
def Mach.clockEdge (m : Mach) (k part : Nat) : Mach :=
  if m.dpll.active = some k ∧ (5 ≤ k ∨ m.get (Fld.DPLL_IN_FREQ_NUM_NUM k) ≠ 0)
  then m.dpllSample k (m.edgeError k (m.instant part)) else m

def execDpllClockEdge (k part : Nat) (s : State) : Out :=
  guarded (decide (2 ≤ k ∧ k < 9) && partOk part) (onCore s fun m => m.clockEdge k part)

def execDpllEnable (mst : Nat) (v : Word) (s : State) : Out :=
  writeRow true mst 0x0D 0x000 v (fun _ => v.getLsbD 31) s

def execDpllDisable (mst : Nat) (v : Word) (s : State) : Out :=
  writeRow true mst 0x0D 0x000 v (fun _ => !v.getLsbD 31) s

def execDpllHoldMax (s : State) : Out :=
  onCore s fun m =>
    if m.dpll.st = .holdover ∧ m.dpll.active = none then m.setDpllState .lost else m

def execPhaseStep (mst : Nat) (v : Word) (s : State) : Out :=
  writeRow true mst 0x0D 0x044 v (fun m => !m.is Fld.DPLL_PHASE_CTRL_MODE) s

def execPhaseSlew (mst : Nat) (v : Word) (s : State) : Out :=
  writeRow true mst 0x0D 0x044 v (fun m => m.is Fld.DPLL_PHASE_CTRL_MODE) s

def execPhaseSlewDone (s : State) : Out :=
  onCore s fun m =>
    if m.dpll.slewing && m.dpll.remain == 0 then
      (m.updDpll fun x => { x with slewing := false }).raise evPhaseDone
    else m

/-! ### Outputs (R352, R353) -/

def Mach.updPins (m : Mach) (f : Pins → Pins) : Mach := { m with pins := f m.pins }

/-- The view that a DOM field of an output names. -/
def outView (dom : Nat) : Nat := if dom = 3 then 1 else dom

/-- At least half a period has passed since an output's last rising edge (R354). -/
def Mach.edgeApart (m : Mach) (last : Option Nat) (period : Rat) : Bool :=
  match last with
  | none => true
  | some t => decide (period ≤ ((m.time.ticks - t : Nat) : Rat) * 8)

/-- The frame period of an output, ns; 0 where it has none. -/
def Mach.framePeriodOut (m : Mach) (k : Nat) : Rat :=
  if m.is (Fld.TIME_FRAME_OUT_CFG_MODE k) then m.framePeriod (m.get (Fld.TIME_FRAME_OUT_CFG_HEAD k))
  else ((m.get (Fld.TIME_FRAME_OUT_FRATE_FR_DEN k) * 1000000000 : Nat) : Rat) /
    (m.get (Fld.TIME_FRAME_OUT_FRATE_FR_NUM k) : Rat)

/-- FRAME_OUTk is to rise on the tick that runs (R352, R354): at an instant of its grid, or PHASE after the
line time of a line 0 of its head. -/
def Mach.frameDue (m : Mach) (k : Nat) : Bool :=
  let period := m.framePeriodOut k
  let phase : Rat := m.get (Fld.TIME_FRAME_OUT_PHASE_PHASE k)
  let h := m.get (Fld.TIME_FRAME_OUT_CFG_HEAD k)
  let v := outView (m.get (Fld.TIME_FRAME_OUT_CFG_DOM k))
  m.is (Fld.TIME_FRAME_OUT_CFG_EN k) && decide (0 < period) &&
    m.edgeApart (tabFind m.pins.frameEdge k) period &&
    if m.is (Fld.TIME_FRAME_OUT_CFG_MODE k) then
      decide (h < 20) && m.scanning h &&
        gridIn ((m.now : Rat) / unitNs) (m.viewStep 0) period
          (((m.head h).startAt : Rat) / unitNs - ((m.head h).line : Rat) * m.lineTime h +
            m.pipeDelay h + phase)
    else gridIn ((m.view v : Rat) / unitNs) (m.viewStep v) period phase

/-- 1PPS_OUT is to rise on the tick that runs (R353, R354). -/
def Mach.ppsDue (m : Mach) : Bool :=
  let v := outView (m.get Fld.TIME_PPS_OUT_CFG_DOM)
  m.is Fld.TIME_PPS_OUT_CFG_EN && m.edgeApart m.pins.ppsEdge 1000000000 &&
    gridIn ((m.view v : Rat) / unitNs) (m.viewStep v) 1000000000 (m.get Fld.TIME_PPS_OUT_PHASE_PHASE : Rat)

def execFrameOutEdge (k : Nat) (s : State) : Out :=
  guarded (fourOk k) (onCore s fun m =>
    if m.frameDue k then
      m.updPins fun p =>
        { p with frameOut := insertNat p.frameOut k, frameEdge := tabSet p.frameEdge k m.time.ticks }
    else m)

/-- A pulse whose rising edge was on a tick has stayed high for its width, in ns. -/
def Mach.pulseOver (m : Mach) (edge : Option Nat) (ns : Nat) : Bool :=
  match edge with
  | some t => decide (ns / 4 ≤ m.time.ticks - t)
  | none => true

/-- The pulse of FRAME_OUTk ends WIDTH after its edge (R352). -/
def execFrameOutPulseEnd (k : Nat) (s : State) : Out :=
  guarded (fourOk k) (onCore s fun m =>
    if m.pulseOver (tabFind m.pins.frameEdge k) (m.get (Fld.TIME_FRAME_OUT_CFG_WIDTH k)) then
      m.updPins fun p => { p with frameOut := p.frameOut.filter (· ≠ k) }
    else m)

def execPpsOutEdge (s : State) : Out :=
  onCore s fun m =>
    if m.ppsDue then
      m.updPins fun p => { p with ppsOut := true, ppsEdge := some m.time.ticks }
    else m

/-- The pulse of 1PPS_OUT ends WIDTH after its edge (R353). -/
def execPpsOutPulseEnd (s : State) : Out :=
  onCore s fun m =>
    if m.pulseOver m.pins.ppsEdge (m.get Fld.TIME_PPS_OUT_CFG_WIDTH * 1000) then
      m.updPins fun p => { p with ppsOut := false }
    else m

end Sys2Proof.Machine
end

