-- ==== Sys2Proof/Machine/TouchExec.lean ====
section
/-! DEFINITION. The commands of the touch keys (R441 to R454). -/

namespace Sys2Proof.Machine

def execTouchEnable (mst : Nat) (v : Word) (s : State) : Out :=
  writeRow true mst 0x16 0x000 v (fun _ => v.getLsbD 31) s

def execTouchCalibrationDone (cal : TouchCalibration) (s : State) : Out :=
  onCore s fun m => m.touchCalibrated cal

def execTouchScanStart (s : State) : Out := onCore s Mach.touchScanStart

def execTouchScanEnd (counts : List (Nat × Nat)) (noise noiseNext : List Int) (s : State) : Out :=
  onCore s fun m => m.touchScanEnd counts noise noiseNext

def execTouchRebase (mst : Nat) (v : Word) (s : State) : Out :=
  writeRow true mst 0x16 0x080 v (fun _ => v.getLsbD 0) s

def execTouchRebaseAll (mst : Nat) (v : Word) (s : State) : Out :=
  writeRow true mst 0x16 0x080 v (fun _ => v.getLsbD 1) s

def execTouchTestGo (mst : Nat) (v : Word) (s : State) : Out :=
  writeRow true mst 0x16 0x050 v (fun _ => v.getLsbD 31) s

def execTouchTestPeriod (s : State) : Out := onCore s Mach.touchTestPeriod

def execTouchTestDone (readings : List TouchReading) (refOpen : Bool) (s : State) : Out :=
  onCore s fun m => m.touchTestDone readings refOpen

def execTouchChangeRead (mst : Nat) (s : State) : Out := readRow true mst 0x16 0x084 s

/-- A wake scan in Keep: a touch ends Keep (R452). -/
def Mach.wakeScans (m : Mach) (counts : List (Nat × Nat)) : Mach :=
  if m.inPhase .keep then
    if (m.wakeScan counts).2 then (m.wakeScan counts).1.keepExit 3 else (m.wakeScan counts).1
  else m

def execTouchWakeScan (counts : List (Nat × Nat)) (s : State) : Out :=
  always s fun m => m.wakeScans counts

end Sys2Proof.Machine
end

