-- ==== Sys2Proof/Machine/Dispatch.lean ====
section
/-! DEFINITION. One arm per command of the opcode table, in the table's order: each calls the
command's own meaning. -/

namespace Sys2Proof.Machine

def exec (i : Instr) (s : State) : Host.Outcome State Fault Refusal :=
  match i with
  | .powerOn => Sys2Proof.Machine.execPowerOn s
  | .railsPowerGood => Sys2Proof.Machine.execRailsPowerGood s
  | .railFailure => Sys2Proof.Machine.execRailFailure s
  | .railRetry => Sys2Proof.Machine.execRailRetry s
  | .bootRomStart sel => Sys2Proof.Machine.execBootRomStart sel s
  | .fsWrittenBitsCleared => Sys2Proof.Machine.execFsWrittenBitsCleared s
  | .dramTrainingDone rs => Sys2Proof.Machine.execDramTrainingDone rs s
  | .dramZeroFillDone => Sys2Proof.Machine.execDramZeroFillDone s
  | .qspiImageReadDone image => Sys2Proof.Machine.execQspiImageReadDone image s
  | .bootHostLoadGo mst v => Sys2Proof.Machine.execBootHostLoadGo mst v s
  | .bootSignatureVerified => Sys2Proof.Machine.execBootSignatureVerified s
  | .bootSegmentCopyDone => Sys2Proof.Machine.execBootSegmentCopyDone s
  | .bootNoLockTimeout => Sys2Proof.Machine.execBootNoLockTimeout s
  | .bootLock mst v => Sys2Proof.Machine.execBootLock mst v s
  | .vinLow => Sys2Proof.Machine.execVinLow s
  | .powerDown => Sys2Proof.Machine.execPowerDown s
  | .powerDownDone => Sys2Proof.Machine.execPowerDownDone s
  | .resetNAssert => Sys2Proof.Machine.execResetNAssert s
  | .resetNRelease => Sys2Proof.Machine.execResetNRelease s
  | .softReset mst v => Sys2Proof.Machine.execSoftReset mst v s
  | .thermWarn => Sys2Proof.Machine.execThermWarn s
  | .thermalTrip => Sys2Proof.Machine.execThermalTrip s
  | .pwrTargetRun mst v => Sys2Proof.Machine.execPwrTargetRun mst v s
  | .pwrTargetIdle mst v => Sys2Proof.Machine.execPwrTargetIdle mst v s
  | .pwrRequestKeep mst v wakeLow => Sys2Proof.Machine.execPwrRequestKeep mst v wakeLow s
  | .pwrRequestDormant mst v wakeLow => Sys2Proof.Machine.execPwrRequestDormant mst v wakeLow s
  | .keepReached wakeLow => Sys2Proof.Machine.execKeepReached wakeLow s
  | .dormantReached wakeLow => Sys2Proof.Machine.execDormantReached wakeLow s
  | .wake => Sys2Proof.Machine.execWake s
  | .idleEntry => Sys2Proof.Machine.execIdleEntry s
  | .idleWakeAccess => Sys2Proof.Machine.execIdleWakeAccess s
  | .i2cTelemetryRead off len temp vin cur => Sys2Proof.Machine.execI2cTelemetryRead off len temp vin cur s
  | .i2cEepromRead off len => Sys2Proof.Machine.execI2cEepromRead off len s
  | .i2cEepromWrite off data => Sys2Proof.Machine.execI2cEepromWrite off data s
  | .registerWrite mst slot off v => Sys2Proof.Machine.execRegisterWrite mst slot off v s
  | .memoryAccess mst addr len data upsets => Sys2Proof.Machine.execMemoryAccess mst addr len data upsets s
  | .pcieLinkUp => Sys2Proof.Machine.execPcieLinkUp s
  | .pcieLinkDown reset => Sys2Proof.Machine.execPcieLinkDown reset s
  | .pcieD3hot => Sys2Proof.Machine.execPcieD3hot s
  | .bar0Access off len data => Sys2Proof.Machine.execBar0Access off len data s
  | .bar2Access off len data => Sys2Proof.Machine.execBar2Access off len data s
  | .remoteRequestReceive tag target addr len bar2 data => Sys2Proof.Machine.execRemoteRequestReceive tag target addr len bar2 data s
  | .remoteCompletion tag data => Sys2Proof.Machine.execRemoteCompletion tag data s
  | .remoteReadTimeout tag => Sys2Proof.Machine.execRemoteReadTimeout tag s
  | .flitReceive up f => Sys2Proof.Machine.execFlitReceive up f s
  | .apbudLinkUp up => Sys2Proof.Machine.execApbudLinkUp up s
  | .apbudLinkDown up => Sys2Proof.Machine.execApbudLinkDown up s
  | .linkChangeReport p => Sys2Proof.Machine.execLinkChangeReport p s
  | .chainEnumStart mst v => Sys2Proof.Machine.execChainEnumStart mst v s
  | .tokenReceive value gen => Sys2Proof.Machine.execTokenReceive value gen s
  | .endReceive count overflow => Sys2Proof.Machine.execEndReceive count overflow s
  | .eventForward origin => Sys2Proof.Machine.execEventForward origin s
  | .relayFlitReceive hq addr bytes => Sys2Proof.Machine.execRelayFlitReceive hq addr bytes s
  | .relayCreditTimeout up => Sys2Proof.Machine.execRelayCreditTimeout up s
  | .add n rd ra rb => Sys2Proof.Machine.execAdd n rd ra rb s
  | .sub n rd ra rb => Sys2Proof.Machine.execSub n rd ra rb s
  | .and n rd ra rb => Sys2Proof.Machine.execAnd n rd ra rb s
  | .or n rd ra rb => Sys2Proof.Machine.execOr n rd ra rb s
  | .xor n rd ra rb => Sys2Proof.Machine.execXor n rd ra rb s
  | .shl n rd ra rb => Sys2Proof.Machine.execShl n rd ra rb s
  | .shr n rd ra rb => Sys2Proof.Machine.execShr n rd ra rb s
  | .sra n rd ra rb => Sys2Proof.Machine.execSra n rd ra rb s
  | .mul n rd ra rb => Sys2Proof.Machine.execMul n rd ra rb s
  | .mulh n rd ra rb => Sys2Proof.Machine.execMulh n rd ra rb s
  | .min n rd ra rb => Sys2Proof.Machine.execMin n rd ra rb s
  | .max n rd ra rb => Sys2Proof.Machine.execMax n rd ra rb s
  | .slt n rd ra rb => Sys2Proof.Machine.execSlt n rd ra rb s
  | .sltu n rd ra rb => Sys2Proof.Machine.execSltu n rd ra rb s
  | .addi n rd ra imm => Sys2Proof.Machine.execAddi n rd ra imm s
  | .andi n rd ra imm => Sys2Proof.Machine.execAndi n rd ra imm s
  | .ori n rd ra imm => Sys2Proof.Machine.execOri n rd ra imm s
  | .xori n rd ra imm => Sys2Proof.Machine.execXori n rd ra imm s
  | .shli n rd ra amount => Sys2Proof.Machine.execShli n rd ra amount s
  | .shri n rd ra amount => Sys2Proof.Machine.execShri n rd ra amount s
  | .srai n rd ra amount => Sys2Proof.Machine.execSrai n rd ra amount s
  | .lui n rd imm => Sys2Proof.Machine.execLui n rd imm s
  | .ld n rd ra imm => Sys2Proof.Machine.execLd n rd ra imm s
  | .st n rd ra imm => Sys2Proof.Machine.execSt n rd ra imm s
  | .setw n sel ra imm => Sys2Proof.Machine.execSetw n sel ra imm s
  | .ldr n rd ra imm => Sys2Proof.Machine.execLdr n rd ra imm s
  | .ldrDone n => Sys2Proof.Machine.execLdrDone n s
  | .str n rd ra imm => Sys2Proof.Machine.execStr n rd ra imm s
  | .strDone n => Sys2Proof.Machine.execStrDone n s
  | .beq n ra rb off => Sys2Proof.Machine.execBeq n ra rb off s
  | .bne n ra rb off => Sys2Proof.Machine.execBne n ra rb off s
  | .blt n ra rb off => Sys2Proof.Machine.execBlt n ra rb off s
  | .bge n ra rb off => Sys2Proof.Machine.execBge n ra rb off s
  | .bltu n ra rb off => Sys2Proof.Machine.execBltu n ra rb off s
  | .bgeu n ra rb off => Sys2Proof.Machine.execBgeu n ra rb off s
  | .jal n rd off => Sys2Proof.Machine.execJal n rd off s
  | .jr n ra => Sys2Proof.Machine.execJr n ra s
  | .pcRunOn n => Sys2Proof.Machine.execPcRunOn n s
  | .wline n sel ra imm => Sys2Proof.Machine.execWline n sel ra imm s
  | .wlineEnd n => Sys2Proof.Machine.execWlineEnd n s
  | .wtime n dom k => Sys2Proof.Machine.execWtime n dom k s
  | .wtimeEnd n => Sys2Proof.Machine.execWtimeEnd n s
  | .wevt n rd ra imm => Sys2Proof.Machine.execWevt n rd ra imm s
  | .wevtEnd n => Sys2Proof.Machine.execWevtEnd n s
  | .wcyc n ra imm => Sys2Proof.Machine.execWcyc n ra imm s
  | .wcycEnd n => Sys2Proof.Machine.execWcycEnd n s
  | .waitTimeout n => Sys2Proof.Machine.execWaitTimeout n s
  | .post n ra imm => Sys2Proof.Machine.execPost n ra imm s
  | .cmt n rd win ra => Sys2Proof.Machine.execCmt n rd win ra s
  | .cmtDone n => Sys2Proof.Machine.execCmtDone n s
  | .job n rd ra slot queue => Sys2Proof.Machine.execJob n rd ra slot queue s
  | .fprot n => Sys2Proof.Machine.execFprot n s
  | .fprotDrainDone n => Sys2Proof.Machine.execFprotDrainDone n s
  | .crc n count ra rb => Sys2Proof.Machine.execCrc n count ra rb s
  | .rdt n rd dom => Sys2Proof.Machine.execRdt n rd dom s
  | .halt n => Sys2Proof.Machine.execHalt n s
  | .nop n => Sys2Proof.Machine.execNop n s
  | .brk n imm => Sys2Proof.Machine.execBrk n imm s
  | .illegalInstruction n => Sys2Proof.Machine.execIllegalInstruction n s
  | .breakpointHit n => Sys2Proof.Machine.execBreakpointHit n s
  | .seqStop mst n v => Sys2Proof.Machine.execSeqStop mst n v s
  | .seqStopped n => Sys2Proof.Machine.execSeqStopped n s
  | .seqStart mst n v => Sys2Proof.Machine.execSeqStart mst n v s
  | .seqResume mst n v => Sys2Proof.Machine.execSeqResume mst n v s
  | .seqStep mst n v => Sys2Proof.Machine.execSeqStep mst n v s
  | .seqIramWrite mst n off v => Sys2Proof.Machine.execSeqIramWrite mst n off v s
  | .seqDbgDataWrite mst n v => Sys2Proof.Machine.execSeqDbgDataWrite mst n v s
  | .ethFrameReceive port detected bytes env => Sys2Proof.Machine.execEthFrameReceive port detected bytes env s
  | .relayPacketReceive up target session stamp udp env => Sys2Proof.Machine.execRelayPacketReceive up target session stamp udp env s
  | .unitLossWaitExpiry x created => Sys2Proof.Machine.execUnitLossWaitExpiry x created s
  | .unitRelease x facts created => Sys2Proof.Machine.execUnitRelease x facts created s
  | .ethLinkChange port link lock => Sys2Proof.Machine.execEthLinkChange port link lock s
  | .ethSidebandChange port modabs los txflt => Sys2Proof.Machine.execEthSidebandChange port modabs los txflt s
  | .sessionEnable mst v => Sys2Proof.Machine.execSessionEnable mst v s
  | .sessionDisable mst v => Sys2Proof.Machine.execSessionDisable mst v s
  | .sessionDrained x => Sys2Proof.Machine.execSessionDrained x s
  | .sessionActiveTimeout x => Sys2Proof.Machine.execSessionActiveTimeout x s
  | .sessionMapWrite mst v => Sys2Proof.Machine.execSessionMapWrite mst v s
  | .hq5ProdWrite mst v entries => Sys2Proof.Machine.execHq5ProdWrite mst v entries s
  | .hostqTransmitDone sent => Sys2Proof.Machine.execHostqTransmitDone sent s
  | .partitionEnded c samples bits front => Sys2Proof.Machine.execPartitionEnded c samples bits front s
  | .cellChoose c ready => Sys2Proof.Machine.execCellChoose c ready s
  | .partitionDone c front lost => Sys2Proof.Machine.execPartitionDone c front lost s
  | .boundaryFilterDone d a b front => Sys2Proof.Machine.execBoundaryFilterDone d a b front s
  | .pictureWritesDrained c d luma chroma => Sys2Proof.Machine.execPictureWritesDrained c d luma chroma s
  | .partitionTimeout c left => Sys2Proof.Machine.execPartitionTimeout c left s
  | .streamEnable mst v => Sys2Proof.Machine.execStreamEnable mst v s
  | .streamDisable mst v => Sys2Proof.Machine.execStreamDisable mst v s
  | .streamDrained x => Sys2Proof.Machine.execStreamDrained x s
  | .descFree mst v => Sys2Proof.Machine.execDescFree mst v s
  | .descKeepSet mst v => Sys2Proof.Machine.execDescKeepSet mst v s
  | .descKeepClr mst v => Sys2Proof.Machine.execDescKeepClr mst v s
  | .decschedRetireRead mst => Sys2Proof.Machine.execDecschedRetireRead mst s
  | .fabricEnable mst v => Sys2Proof.Machine.execFabricEnable mst v s
  | .fabricDisable mst v => Sys2Proof.Machine.execFabricDisable mst v s
  | .decCellDisable mst c v => Sys2Proof.Machine.execDecCellDisable mst c v s
  | .headEnable mst h v => Sys2Proof.Machine.execHeadEnable mst h v s
  | .headStart h env => Sys2Proof.Machine.execHeadStart h env s
  | .headDisable mst h v => Sys2Proof.Machine.execHeadDisable mst h v s
  | .headSlateForce mst h v => Sys2Proof.Machine.execHeadSlateForce mst h v s
  | .headLineStart h env => Sys2Proof.Machine.execHeadLineStart h env s
  | .frameDone h => Sys2Proof.Machine.execFrameDone h s
  | .headCommit mst h v => Sys2Proof.Machine.execHeadCommit mst h v s
  | .layerpoolCommit mst v => Sys2Proof.Machine.execLayerpoolCommit mst v s
  | .freshCommit mst v => Sys2Proof.Machine.execFreshCommit mst v s
  | .layerAssign mst x v => Sys2Proof.Machine.execLayerAssign mst x v s
  | .leaseEndedRead mst => Sys2Proof.Machine.execLeaseEndedRead mst s
  | .dpTrain mst h v => Sys2Proof.Machine.execDpTrain mst h v s
  | .dpTrainDone h ok reached sink psr psr2 => Sys2Proof.Machine.execDpTrainDone h ok reached sink psr psr2 s
  | .dpUnplug h => Sys2Proof.Machine.execDpUnplug h s
  | .dpReplug h => Sys2Proof.Machine.execDpReplug h s
  | .dpIrqHpd h lost => Sys2Proof.Machine.execDpIrqHpd h lost s
  | .auxNativeWrite mst h v => Sys2Proof.Machine.execAuxNativeWrite mst h v s
  | .auxNativeRead mst h v => Sys2Proof.Machine.execAuxNativeRead mst h v s
  | .auxI2cWrite mst h v => Sys2Proof.Machine.execAuxI2cWrite mst h v s
  | .auxI2cRead mst h v => Sys2Proof.Machine.execAuxI2cRead mst h v s
  | .auxReply h kind count bytes => Sys2Proof.Machine.execAuxReply h kind count bytes s
  | .auxTimeout h => Sys2Proof.Machine.execAuxTimeout h s
  | .auxDeferRetry h => Sys2Proof.Machine.execAuxDeferRetry h s
  | .dcsShortWrite mst h v => Sys2Proof.Machine.execDcsShortWrite mst h v s
  | .dcsShortWriteParam mst h v => Sys2Proof.Machine.execDcsShortWriteParam mst h v s
  | .dcsLongWrite mst h v => Sys2Proof.Machine.execDcsLongWrite mst h v s
  | .dcsRead mst h v => Sys2Proof.Machine.execDcsRead mst h v s
  | .dsiCmdDone h bytes report => Sys2Proof.Machine.execDsiCmdDone h bytes report s
  | .dsiPanelReset mst h v => Sys2Proof.Machine.execDsiPanelReset mst h v s
  | .dsiTeEdge h => Sys2Proof.Machine.execDsiTeEdge h s
  | .dsiTeLost h => Sys2Proof.Machine.execDsiTeLost h s
  | .encStreamEnable mst v => Sys2Proof.Machine.execEncStreamEnable mst v s
  | .encStreamDisable mst v => Sys2Proof.Machine.execEncStreamDisable mst v s
  | .encStreamDrained e => Sys2Proof.Machine.execEncStreamDrained e s
  | .encForceIdr mst v => Sys2Proof.Machine.execEncForceIdr mst v s
  | .encSliceReady e => Sys2Proof.Machine.execEncSliceReady e s
  | .encPictureStart e sets seis => Sys2Proof.Machine.execEncPictureStart e sets seis s
  | .encSliceStart c => Sys2Proof.Machine.execEncSliceStart c s
  | .encSliceDone c ctus luma chroma => Sys2Proof.Machine.execEncSliceDone c ctus luma chroma s
  | .encPacketSend e => Sys2Proof.Machine.execEncPacketSend e s
  | .encCellDisable mst c v => Sys2Proof.Machine.execEncCellDisable mst c v s
  | .timeSnap mst v => Sys2Proof.Machine.execTimeSnap mst v s
  | .domainSample mst d v => Sys2Proof.Machine.execDomainSample mst d v s
  | .domainEnable mst d v => Sys2Proof.Machine.execDomainEnable mst d v s
  | .domainDisable mst d v => Sys2Proof.Machine.execDomainDisable mst d v s
  | .domainTimeout d => Sys2Proof.Machine.execDomainTimeout d s
  | .domainHoldMax d => Sys2Proof.Machine.execDomainHoldMax d s
  | .chainTimeExchange part => Sys2Proof.Machine.execChainTimeExchange part s
  | .chainTimeRequest part after => Sys2Proof.Machine.execChainTimeRequest part after s
  | .chainTimeReply t2 t3 ofsA ofsB stA stB part => Sys2Proof.Machine.execChainTimeReply t2 t3 ofsA ofsB stA stB part s
  | .ppsInEdge falling part => Sys2Proof.Machine.execPpsInEdge falling part s
  | .dpllInputValidity k valid fofs => Sys2Proof.Machine.execDpllInputValidity k valid fofs s
  | .dpllInputQualified k => Sys2Proof.Machine.execDpllInputQualified k s
  | .dpllClockEdge k part => Sys2Proof.Machine.execDpllClockEdge k part s
  | .dpllEnable mst v => Sys2Proof.Machine.execDpllEnable mst v s
  | .dpllDisable mst v => Sys2Proof.Machine.execDpllDisable mst v s
  | .dpllHoldMax => Sys2Proof.Machine.execDpllHoldMax s
  | .phaseStep mst v => Sys2Proof.Machine.execPhaseStep mst v s
  | .phaseSlew mst v => Sys2Proof.Machine.execPhaseSlew mst v s
  | .phaseSlewDone => Sys2Proof.Machine.execPhaseSlewDone s
  | .frameOutEdge k => Sys2Proof.Machine.execFrameOutEdge k s
  | .ppsOutEdge => Sys2Proof.Machine.execPpsOutEdge s
  | .dramFreqChangeRequest mst v => Sys2Proof.Machine.execDramFreqChangeRequest mst v s
  | .dramFreqChangeStart => Sys2Proof.Machine.execDramFreqChangeStart s
  | .dramFreqChangeNoWindow => Sys2Proof.Machine.execDramFreqChangeNoWindow s
  | .dramFreqChangeDone passed blackout => Sys2Proof.Machine.execDramFreqChangeDone passed blackout s
  | .dramFreqChangeReverted rs blackout => Sys2Proof.Machine.execDramFreqChangeReverted rs blackout s
  | .dramRetrain r hot => Sys2Proof.Machine.execDramRetrain r hot s
  | .dramRefresh channel round => Sys2Proof.Machine.execDramRefresh channel round s
  | .dramCommandError mst cmd addr => Sys2Proof.Machine.execDramCommandError mst cmd addr s
  | .dramFreezeRelease mst v => Sys2Proof.Machine.execDramFreezeRelease mst v s
  | .diagRawRead mst v => Sys2Proof.Machine.execDiagRawRead mst v s
  | .diagWrite mst v => Sys2Proof.Machine.execDiagWrite mst v s
  | .diagDone => Sys2Proof.Machine.execDiagDone s
  | .fsUnwrite mst v => Sys2Proof.Machine.execFsUnwrite mst v s
  | .fsUnwriteDone => Sys2Proof.Machine.execFsUnwriteDone s
  | .scrubWriteback again => Sys2Proof.Machine.execScrubWriteback again s
  | .scrubRead memory late upsets => Sys2Proof.Machine.execScrubRead memory late upsets s
  | .repairStart => Sys2Proof.Machine.execRepairStart s
  | .spareRowCopyDone fault => Sys2Proof.Machine.execSpareRowCopyDone fault s
  | .granuleCopyDone fault => Sys2Proof.Machine.execGranuleCopyDone fault s
  | .repairOfflineRead mst => Sys2Proof.Machine.execRepairOfflineRead mst s
  | .eccInjArm mst v => Sys2Proof.Machine.execEccInjArm mst v s
  | .vaultRead mst k => Sys2Proof.Machine.execVaultRead mst k s
  | .vaultWrite mst k v => Sys2Proof.Machine.execVaultWrite mst k v s
  | .vaultInject mst v => Sys2Proof.Machine.execVaultInject mst v s
  | .protFence mst => Sys2Proof.Machine.execProtFence mst s
  | .protFenceDone => Sys2Proof.Machine.execProtFenceDone s
  | .pairEnable mst v => Sys2Proof.Machine.execPairEnable mst v s
  | .pairDisable mst v => Sys2Proof.Machine.execPairDisable mst v s
  | .possNRise => Sys2Proof.Machine.execPossNRise s
  | .possNFall => Sys2Proof.Machine.execPossNFall s
  | .possQuietExpiry => Sys2Proof.Machine.execPossQuietExpiry s
  | .pairStatusSend => Sys2Proof.Machine.execPairStatusSend s
  | .pairStatusReceive possession handover => Sys2Proof.Machine.execPairStatusReceive possession handover s
  | .pairLinkUp => Sys2Proof.Machine.execPairLinkUp s
  | .pairLinkDown => Sys2Proof.Machine.execPairLinkDown s
  | .pairPgChange good => Sys2Proof.Machine.execPairPgChange good s
  | .pairMirrorWrite w => Sys2Proof.Machine.execPairMirrorWrite w s
  | .ballotReceive b => Sys2Proof.Machine.execBallotReceive b s
  | .signatureReceive r => Sys2Proof.Machine.execSignatureReceive r s
  | .pairWdogExpiry => Sys2Proof.Machine.execPairWdogExpiry s
  | .pairWdogKick mst v => Sys2Proof.Machine.execPairWdogKick mst v s
  | .pairHandover mst v => Sys2Proof.Machine.execPairHandover mst v s
  | .pairClearFault mst v => Sys2Proof.Machine.execPairClearFault mst v s
  | .touchEnable mst v => Sys2Proof.Machine.execTouchEnable mst v s
  | .touchCalibrationDone counts => Sys2Proof.Machine.execTouchCalibrationDone counts s
  | .touchScanStart => Sys2Proof.Machine.execTouchScanStart s
  | .touchScanEnd counts noise noiseNext => Sys2Proof.Machine.execTouchScanEnd counts noise noiseNext s
  | .touchRebase mst v => Sys2Proof.Machine.execTouchRebase mst v s
  | .touchRebaseAll mst v => Sys2Proof.Machine.execTouchRebaseAll mst v s
  | .touchTestGo mst v => Sys2Proof.Machine.execTouchTestGo mst v s
  | .touchTestPeriod => Sys2Proof.Machine.execTouchTestPeriod s
  | .touchTestDone failed refOpen => Sys2Proof.Machine.execTouchTestDone failed refOpen s
  | .touchChangeRead mst => Sys2Proof.Machine.execTouchChangeRead mst s
  | .touchWakeScan counts => Sys2Proof.Machine.execTouchWakeScan counts s
  | .deflSubmit mst v => Sys2Proof.Machine.execDeflSubmit mst v s
  | .deflCompress => Sys2Proof.Machine.execDeflCompress s
  | .deflDecompress => Sys2Proof.Machine.execDeflDecompress s
  | .deflJobDone q parts finished consumed => Sys2Proof.Machine.execDeflJobDone q parts finished consumed s
  | .checkSubmit mst v => Sys2Proof.Machine.execCheckSubmit mst v s
  | .checkJobCrc u => Sys2Proof.Machine.execCheckJobCrc u s
  | .checkJobAlive u => Sys2Proof.Machine.execCheckJobAlive u s
  | .checkJobGuard u => Sys2Proof.Machine.execCheckJobGuard u s
  | .checkJobDone u => Sys2Proof.Machine.execCheckJobDone u s
  | .checkDataWrite mst u v => Sys2Proof.Machine.execCheckDataWrite mst u v s
  | .checkData8Write mst u v => Sys2Proof.Machine.execCheckData8Write mst u v s
  | .checkLoadInit mst u v => Sys2Proof.Machine.execCheckLoadInit mst u v s
  | .checkResync mst u v => Sys2Proof.Machine.execCheckResync mst u v s
  | .evtDoorbellWrite mst v => Sys2Proof.Machine.execEvtDoorbellWrite mst v s
  | .evtOutPulseEnd k => Sys2Proof.Machine.execEvtOutPulseEnd k s
  | .monPeriodicSample dramLoad => Sys2Proof.Machine.execMonPeriodicSample dramLoad s
  | .monClear mst c v => Sys2Proof.Machine.execMonClear mst c v s
  | .monCfgWrite mst c v => Sys2Proof.Machine.execMonCfgWrite mst c v s
  | .timeClkTick n => Sys2Proof.Machine.execTimeClkTick n s
  | .contextLoadDone c => Sys2Proof.Machine.execContextLoadDone c s
  | .frameOutPulseEnd k => Sys2Proof.Machine.execFrameOutPulseEnd k s
  | .ppsOutPulseEnd => Sys2Proof.Machine.execPpsOutPulseEnd s
  | .pcieD3hotExit => Sys2Proof.Machine.execPcieD3hotExit s
  | .msixTableAccess off w => Sys2Proof.Machine.execMsixTableAccess off w s

end Sys2Proof.Machine
end

