-- ==== Sys2Proof/Safety.lean ====
section
/-! DEFINITION. What counts as a safe state of the block, and the terms that claims use: when a command
reaches what it names, and what two states of the module have in common. -/

namespace Sys2Proof.Machine

/-! ### Safe states -/

/-- Every waiting command names instances and entries that the module has. -/
def State.queueOk (s : State) : Prop := ∀ c ∈ s.pending, c.wf = true

/-- Memory is listed in its canonical form: addresses rise, and no listed byte is 0. -/
def State.memoryOk (s : State) : Prop := Memory.wf s.m.mem = true

/-- The block runs: its step neither faults nor refuses. -/
def State.runs (s : State) : Prop := ∃ t, step s = .next t

/-! ### What a command leaves alone -/

/-- The state with another module and the same queue. -/
def State.becomes (s : State) (m : Mach) : State := { s with m := m }

/-- The command completes and leaves the module as given; the queue is not touched. -/
def State.does (s : State) (c : Instr) (m : Mach) : Prop := exec c s = .next (s.becomes m)

/-- The second state differs from the first in nothing but bits of the named register fields. -/
def Mach.onlyIn (m m' : Mach) (fs : List Fld) : Prop :=
  m' = { m with regs := m'.regs } ∧
  ∀ key b, (∀ f ∈ fs, f.key = key → b < f.lo ∨ f.lo + f.width ≤ b) →
    (m'.rd key).getLsbD b = (m.rd key).getLsbD b

/-- The second state differs from the first in nothing but the named registers. -/
def Mach.onlyRegs (m m' : Mach) (keys : List Nat) : Prop :=
  m' = { m with regs := m'.regs } ∧ ∀ key, key ∉ keys → m'.rd key = m.rd key

/-- Nothing is left of an earlier state but what the module has sent, the count of free values, the power
condition and the named registers: memory is empty, every other register and all else is as after reset. -/
def Mach.wiped (m : Mach) (keys : List Nat) : Prop :=
  m = { Mach.reset with regs := m.regs, freeCount := m.freeCount, sent := m.sent, pwr := m.pwr } ∧
  ∀ key, key ∉ keys → m.rd key = resetOf key

/-- The second state differs from the first in nothing but the named registers and sequencer `n`'s own
registers and condition. -/
def Mach.onlySeq (m m' : Mach) (n : Nat) (keys : List Nat) : Prop :=
  m' = { m with regs := m'.regs, seqs := m'.seqs } ∧ (∀ k, k ≠ n → m'.seq k = m.seq k) ∧
  ∀ key, key ∉ keys → m'.rd key = m.rd key

/-- Every byte of memory reads as before. -/
def Mach.sameBytes (m m' : Mach) : Prop := ∀ a, m'.byte a = m.byte a

/-! ### When a command acts -/

/-- A register write by a master reaches its block: the module runs, the master exists, protection
admits the write (R406), no standby drops it (R423), and no earlier access of the host waits (R73). -/
structure State.reaches (s : State) (mst slot off : Nat) : Prop where
  on : s.m.on = true
  master : mstOk mst = true
  admitted : s.m.regDenied mst slot off true = none
  kept : s.m.standbyDrops mst slot off = false
  first : s.m.hostWaits mst = false

/-- A register read by a master reaches its block, with no earlier access of the host waiting (R73). -/
structure State.shows (s : State) (mst slot off : Nat) : Prop where
  on : s.m.on = true
  master : mstOk mst = true
  admitted : s.m.regDenied mst slot off false = none
  first : s.m.hostWaits mst = false

/-- The watches that follow every effect on the fabric: an encode stream whose source has gone, and
work that ends Idle (R42, R308). -/
def Mach.watched (m : Mach) : Mach := m.encWatch.idleWatch

/-- The watches, after which accesses that have waited for the DRAM controller go on (R43, R73, R365). -/
def Mach.settled (m : Mach) : Mach := m.watched.resume

/-- What follows a stored write of a register that has one entry: the active unit of a pair mirrors it
(R422), and the block settles. `was` is the state before the write. -/
def Mach.stored (m was : Mach) (mst slot off : Nat) (v : Word) : Mach :=
  (m.mirrorReg was mst slot off 0 v).settled

/-- Sequencer `n` is about to issue `op`: it is RUNNING, no breakpoint stands at PC, and the word at PC,
whose fetch leaves the module as `m`, decodes to `op` (R103, R107, R138). -/
structure State.issues (s : State) (n : Nat) (op : SeqOp) (m : Mach) : Prop where
  on : s.m.on = true
  here : seqOk n = true
  ready : s.m.seqReady n = true
  clear : s.m.atBreakpoint n = false
  word : ∃ w, s.m.seqFetch n = (m, some w) ∧ seqDecode (BitVec.ofNat 32 w) = some op

end Sys2Proof.Machine
end

