-- ==== Sys2Proof/Certificates/Slice0/Obligations.lean ====
section
/-! DEFINITION. The statements for the provers. -/

open Sys2Proof Sys2Proof.Machine

/-! ### The block and its queue -/

/-- StepRunsTheQueue. A step takes the command at the front of the queue (log entry 1). Without a waiting
command the block stays as it is (log entry 2). -/
def Obligations.StepRunsTheQueue : Prop :=
  (∀ (s : State) (c : Instr) (rest : List Instr), s.pending = c :: rest →
     step s = exec c { s with pending := rest }) ∧
  (∀ s : State, s.pending = [] → step s = .next s)

/-- WellFormedCommandsRun. A queue of commands that name what the module has never stops the block: the step
answers a next state whose queue is the rest, again of such commands; a command at the front that names what
the module lacks stops it. -/
def Obligations.WellFormedCommandsRun : Prop :=
  (∀ s : State, s.queueOk → ∃ t, step s = .next t ∧ t.pending = s.pending.tail ∧ t.queueOk) ∧
  (∀ (c : Instr) (s : State), c.wf = false → exec c s = .fault .illFormed)

/-- ResetIsFit. After reset no command waits and memory lists nothing; every register holds its reset value,
no sequencer but SEQ23 runs, no head scans, nothing is locked, frozen or leased, and nothing has been sent
(R9, R50). That w1 to w31 read 0 and that memory lists nothing are the model's choices (log entries 25 and
27). -/
def Obligations.ResetIsFit : Prop :=
  let m := State.reset.m
  State.reset.queueOk ∧ State.reset.pending = [] ∧ State.reset.memoryOk ∧ m.mem = [] ∧
  (∀ key, m.rd key = resetOf key) ∧ (∀ n, n < 23 → m.seqState n = 0 ∧ ∀ r, m.wreg n r = 0) ∧
  (∀ h, h < 20 → m.scanning h = false ∧ m.is (Fld.HEAD_CTRL_EN h) = false) ∧ m.locked = false ∧
  m.seqState 23 = 1 ∧ m.frozen = false ∧ m.leases.table = [] ∧ m.time.now = 0 ∧ m.sent = []

/-- MemoryStaysCanonical. Every step keeps memory in its canonical form. -/
def Obligations.MemoryStaysCanonical : Prop :=
  ∀ s t : State, s.memoryOk → step s = .next t → t.memoryOk

/-! ### Sequencers (spec/04) -/

/-- SeqWordsCorrespond. Every instruction of a sequencer, with every operand at every value, decodes from
the word that encodes it (R106 to R109). A word that decodes is the encoding of what it decodes to: unused
fields are zero and no second word spells an instruction (R107). -/
def Obligations.SeqWordsCorrespond : Prop :=
  (∀ op : SeqOp, seqDecode op.encode = some op) ∧
  (∀ (w : Word) (op : SeqOp), seqDecode w = some op → op.encode = w)

/-- SeqArithmeticCompletes. The register to register instructions write the value that R108 gives them, read
from the registers before the write, in one cycle. The immediate instructions: ADDI extends its sign, the
others extend with zeros; LUI writes the upper half. -/
def Obligations.SeqArithmeticCompletes : Prop :=
  (∀ (s : State) (n : Nat) (rd ra rb : BitVec 5) (m : Mach),
     let x := m.wreg n ra
     let y := m.wreg n rb
     (s.issues n (.alu .add rd ra rb) m →
       s.does (.add n rd ra rb) (m.seqWrites n 1 rd (x + y))) ∧
     (s.issues n (.alu .sub rd ra rb) m →
       s.does (.sub n rd ra rb) (m.seqWrites n 1 rd (x - y))) ∧
     (s.issues n (.alu .and rd ra rb) m →
       s.does (.and n rd ra rb) (m.seqWrites n 1 rd (x &&& y))) ∧
     (s.issues n (.alu .or rd ra rb) m →
       s.does (.or n rd ra rb) (m.seqWrites n 1 rd (x ||| y))) ∧
     (s.issues n (.alu .xor rd ra rb) m →
       s.does (.xor n rd ra rb) (m.seqWrites n 1 rd (x ^^^ y))) ∧
     (s.issues n (.alu .shl rd ra rb) m →
       s.does (.shl n rd ra rb) (m.seqWrites n 1 rd (x <<< (y.toNat % 32)))) ∧
     (s.issues n (.alu .shr rd ra rb) m →
       s.does (.shr n rd ra rb) (m.seqWrites n 1 rd (x >>> (y.toNat % 32)))) ∧
     (s.issues n (.alu .sra rd ra rb) m →
       s.does (.sra n rd ra rb) (m.seqWrites n 1 rd (x.sshiftRight (y.toNat % 32)))) ∧
     (s.issues n (.alu .mul rd ra rb) m →
       s.does (.mul n rd ra rb) (m.seqWrites n 1 rd (x * y))) ∧
     (s.issues n (.alu .mulh rd ra rb) m →
       s.does (.mulh n rd ra rb)
         (m.seqWrites n 1 rd (((x.signExtend 64 * y.signExtend 64) >>> 32).setWidth 32))) ∧
     (s.issues n (.alu .min rd ra rb) m →
       s.does (.min n rd ra rb) (m.seqWrites n 1 rd (if x.sle y then x else y))) ∧
     (s.issues n (.alu .max rd ra rb) m →
       s.does (.max n rd ra rb) (m.seqWrites n 1 rd (if x.sle y then y else x))) ∧
     (s.issues n (.alu .slt rd ra rb) m →
       s.does (.slt n rd ra rb) (m.seqWrites n 1 rd (if x.slt y then 1 else 0))) ∧
     (s.issues n (.alu .sltu rd ra rb) m →
       s.does (.sltu n rd ra rb) (m.seqWrites n 1 rd (if x.ult y then 1 else 0)))) ∧
  (∀ (s : State) (n : Nat) (rd ra k : BitVec 5) (imm : BitVec 16) (m : Mach),
     let x := m.wreg n ra
     (s.issues n (.imm .addi rd ra imm) m →
       s.does (.addi n rd ra imm) (m.seqWrites n 1 rd (x + imm.signExtend 32))) ∧
     (s.issues n (.imm .andi rd ra imm) m →
       s.does (.andi n rd ra imm) (m.seqWrites n 1 rd (x &&& imm.zeroExtend 32))) ∧
     (s.issues n (.imm .ori rd ra imm) m →
       s.does (.ori n rd ra imm) (m.seqWrites n 1 rd (x ||| imm.zeroExtend 32))) ∧
     (s.issues n (.imm .xori rd ra imm) m →
       s.does (.xori n rd ra imm) (m.seqWrites n 1 rd (x ^^^ imm.zeroExtend 32))) ∧
     (s.issues n (.shift .shli rd ra k) m →
       s.does (.shli n rd ra k) (m.seqWrites n 1 rd (x <<< k.toNat))) ∧
     (s.issues n (.shift .shri rd ra k) m →
       s.does (.shri n rd ra k) (m.seqWrites n 1 rd (x >>> k.toNat))) ∧
     (s.issues n (.shift .srai rd ra k) m →
       s.does (.srai n rd ra k) (m.seqWrites n 1 rd (x.sshiftRight k.toNat))) ∧
     (s.issues n (.lui rd imm) m →
       s.does (.lui n rd imm) (m.seqWrites n 1 rd (imm ++ 0#16))))

/-- SeqWriteIsWhole. What an instruction that writes one register does: the register takes the value (w0
reads zero whatever is written), CYCLES counts, PC moves to the next word; no other register of any
sequencer, no other bit of any register of the module and no byte of memory changes. -/
def Obligations.SeqWriteIsWhole : Prop :=
  ∀ (m : Mach) (n c : Nat) (rd : BitVec 5) (v : Word), n < 24 →
    (m.seq n).stepping = false → m.pcOf n + 4 < m.pcLimit n →
    let t := m.seqWrites n c rd v
    (∀ r, t.wreg n r = if r = 0 then 0 else if r = rd then v else m.wreg n r) ∧
    (∀ k r, k ≠ n → t.wreg k r = m.wreg k r) ∧
    t.pcOf n = m.pcOf n + 4 ∧
    t.get (Fld.SEQ_CYCLES_COUNT n) = (m.get (Fld.SEQ_CYCLES_COUNT n) + c) % 2 ^ 32 ∧
    t = { m with regs := t.regs, seqs := t.seqs } ∧
    (∀ key, key ≠ Reg.SEQ_PC n → key ≠ Reg.SEQ_CYCLES n → t.rd key = m.rd key) ∧
    m.sameBytes t

/-- SeqBranchesComplete. A branch that is taken goes to PC plus four times its offset, in two cycles; one
that is not goes on, in one. JAL links, JR goes to a register's value (R115). A jump to an aligned address
in the range puts PC there and the address of the next word in the link register; one past the range's last
word faults with 0x11, a misaligned one in it with 0x12, each with the target in FAULT_INFO, the sequencer
FAULTED, PC at the jump and every register as before. The range is 0x8000 bytes, and 0x40000 for SEQ23 in
the boot ROM; a fetch past its end faults with 0x11. How an instruction ends (R115, R134): PC moves by one
word, but stands at the last word of the range, after which a fetch faults; after a STEP the sequencer is
HALTED with cause 5. -/
def Obligations.SeqBranchesComplete : Prop :=
  (∀ (s : State) (n : Nat) (rd ra rb : BitVec 5) (off : BitVec 16) (far : BitVec 21) (m : Mach),
     let x := m.wreg n ra
     let y := m.wreg n rb
     let go (taken : Bool) :=
       if taken then (m.spend n 2).seqJump n (twosOf 32 ((m.pcOf n : Int) + 4 * off.toInt)) 0
       else (m.spend n 1).seqNext n
     (s.issues n (.branch .beq ra rb off) m → s.does (.beq n ra rb off) (go (x == y))) ∧
     (s.issues n (.branch .bne ra rb off) m → s.does (.bne n ra rb off) (go (x != y))) ∧
     (s.issues n (.branch .blt ra rb off) m → s.does (.blt n ra rb off) (go (x.slt y))) ∧
     (s.issues n (.branch .bge ra rb off) m → s.does (.bge n ra rb off) (go (y.sle x))) ∧
     (s.issues n (.branch .bltu ra rb off) m → s.does (.bltu n ra rb off) (go (x.ult y))) ∧
     (s.issues n (.branch .bgeu ra rb off) m → s.does (.bgeu n ra rb off) (go (y.ule x))) ∧
     (s.issues n (.jal rd far) m → s.does (.jal n rd far)
       ((m.spend n 2).seqJump n (twosOf 32 ((m.pcOf n : Int) + 4 * far.toInt)) rd)) ∧
     (s.issues n (.jr ra) m → s.does (.jr n ra) ((m.spend n 2).seqJump n x.toNat 0)) ∧
     (s.m.on = true → n < 24 → s.m.seqState n = 1 → (s.m.seq n).runOn = true →
       (s.m.seq n).stopReq = false →
       s.does (.pcRunOn n) (s.m.seqFault n 0x11 (if n = 23 ∧ s.m.get Fld.BOOT_STATUS_STAGE < 6 then 0x40000
         else 0x8000))) ∧
     m.pcLimit n = (if n = 23 ∧ m.get Fld.BOOT_STATUS_STAGE < 6 then 0x40000 else 0x8000)) ∧
  (∀ (m : Mach) (n target : Nat) (link : BitVec 5), n < 24 → (m.seq n).stepping = false →
     let t := m.seqJump n target link
     (target ≤ m.pcLimit n - 4 → target % 4 = 0 →
       t.pcOf n = target ∧
       ∀ r, t.wreg n r = if r = 0 then 0
         else if r = link then BitVec.ofNat 32 (m.pcOf n + 4) else m.wreg n r) ∧
     (m.pcLimit n - 4 < target → target < 2 ^ 32 → t.seqState n = 4 ∧
       t.get (Fld.SEQ_CAUSE_CODE n) = 0x11 ∧ t.get (Fld.SEQ_FAULT_INFO_INFO n) = target ∧
       t.pcOf n = m.pcOf n ∧ ∀ r, t.wreg n r = m.wreg n r) ∧
     (target ≤ m.pcLimit n - 4 → target % 4 ≠ 0 → t.seqState n = 4 ∧
       t.get (Fld.SEQ_CAUSE_CODE n) = 0x12 ∧ t.get (Fld.SEQ_FAULT_INFO_INFO n) = target ∧
       t.pcOf n = m.pcOf n ∧ ∀ r, t.wreg n r = m.wreg n r)) ∧
  (∀ (m : Mach) (n : Nat), n < 24 →
     (m.pcOf n + 4 < m.pcLimit n → (m.seqNext n).pcOf n = m.pcOf n + 4) ∧
     (¬ m.pcOf n + 4 < m.pcLimit n →
       (m.seqNext n).pcOf n = m.pcOf n ∧ ((m.seqNext n).seq n).runOn = true) ∧
     ((m.seq n).stepping = true → (m.seq n).stopReq = false →
       (m.seqNext n).seqState n = 3 ∧ (m.seqNext n).get (Fld.SEQ_CAUSE_CODE n) = 0x05) ∧
     ((m.seq n).stepping = false → (m.seqNext n).seqState n = m.seqState n) ∧
     m.sameBytes (m.seqNext n))

/-- SeqDataAccessesComplete. LD and ST move a word between a register and data RAM (R111), SETW names a
window (R112), LDR and STR put an access of a window's register in flight and wait (R113). A word of data
RAM is little-endian; the stored word is free of earlier bit errors. ST stores the four bytes at its address
and leaves every other byte (R111). -/
def Obligations.SeqDataAccessesComplete : Prop :=
  (∀ (s : State) (n : Nat) (rd ra sel : BitVec 5) (imm : BitVec 16) (m : Mach),
     let a := (m.wreg n ra + imm.signExtend 32).toNat
     let k := 0x1800008000 + n * 0x10000 + a
     let slot := (m.wreg n ra + imm.zeroExtend 32).toNat
     let target := ((m.wreg n ra).toNat + imm.toNat % 0x4000) % 0x10000
     let window := m.get (winFld n (imm.toNat / 0x4000))
     (s.issues n (.ld rd ra imm) m → a < 0x4000 → a % 4 = 0 → m.flipMask k = 0 →
       s.does (.ld n rd ra imm) (m.seqWrites n 2 rd
         (m.byte (k + 3) ++ m.byte (k + 2) ++ m.byte (k + 1) ++ m.byte k))) ∧
     (s.issues n (.st rd ra imm) m → a < 0x4000 → a % 4 = 0 →
       s.does (.st n rd ra imm)
         ((((m.setBytes k (wordLE (m.wreg n rd))).wordWritten k).spend n 2).seqNext n)) ∧
     (s.issues n (.setw sel ra imm) m → sel.toNat < 4 → slot < 0x100 → (slotRows slot).isEmpty = false →
       s.does (.setw n sel ra imm) (((m.put (winFld n sel.toNat) slot).spend n 1).seqNext n)) ∧
     (s.issues n (.ldr rd ra imm) m → target % 4 = 0 →
       m.regDenied (0x10 + n) window target false = none →
       s.does (.ldr n rd ra imm) (({ m with nextAccess := m.nextAccess + 1 }.spend n 1).seqWait n 6
         (.read m.nextAccess rd window target false))) ∧
     (s.issues n (.str rd ra imm) m → target % 4 = 0 →
       m.regDenied (0x10 + n) window target true = none →
       s.does (.str n rd ra imm) (({ m with nextAccess := m.nextAccess + 1 }.spend n 1).seqWait n 6
         (.write m.nextAccess window target (m.wreg n rd) false)))) ∧
  (∀ (s : State) (n : Nat) (rd ra : BitVec 5) (imm : BitVec 16) (m : Mach) (t : State),
     s.memoryOk → s.issues n (.st rd ra imm) m → exec (.st n rd ra imm) s = .next t →
     let a := (m.wreg n ra + imm.signExtend 32).toNat
     let k := 0x1800008000 + n * 0x10000 + a
     (a < 0x4000 → a % 4 = 0 → ∀ i < 4,
       t.m.byte (k + i) = BitVec.ofNat 8 ((m.wreg n rd).toNat / 2 ^ (8 * i))) ∧
     (∀ c, (c < k ∨ k + 4 ≤ c) → t.m.byte c = s.m.byte c) ∧
     (¬ (a < 0x4000 ∧ a % 4 = 0) → s.m.sameBytes t.m) ∧
     (∀ r, t.m.wreg n r = s.m.wreg n r))

/-- SeqAccessesEnd. The access in flight completes: LDR writes what the register shows and goes on, STR and
CMT perform the write, CMT writes the commit response; one that protection denied at issue faults with 0x17
(R113, R127, R406). CMT puts such a write in flight. -/
def Obligations.SeqAccessesEnd : Prop :=
  ∀ (s : State) (n a slot off e : Nat) (rd ra : BitVec 5) (win : BitVec 2) (v : Word) (d : RegDesc)
    (m : Mach), s.m.on = true → n < 24 →
    (s.m.inFlight n = .read a rd slot off false → ¬ (slot = 1 ∧ off = 8) →
      s.m.regAt (0x10 + n) slot off = some (d, e) →
      let r := s.m.readAt slot off e (regKey e slot off)
      s.does (.ldrDone n) ((r.1.setWreg n rd r.2).seqWaitEnd n)) ∧
    (s.m.inFlight n = .read a rd slot off true →
      s.does (.ldrDone n) (s.m.seqFault n 0x17 (slot * 0x10000 + off))) ∧
    (s.m.inFlight n = .write a slot off v true →
      s.does (.strDone n) (s.m.seqFault n 0x17 (slot * 0x10000 + off))) ∧
    (s.m.inFlight n = .commit a rd slot v true →
      s.does (.cmtDone n) (s.m.seqFault n 0x17 (slot * 0x10000 + 0x10))) ∧
    (s.m.inFlight n = .write a slot off v false →
      let t := (s.m.regStore (0x10 + n) slot off v []).1
      t.inFlight n = .write a slot off v false →
      s.does (.strDone n) (t.seqWaitEnd n)) ∧
    (s.m.inFlight n = .commit a rd slot v false →
      let t := (s.m.regStore (0x10 + n) slot 0x10 v []).1
      t.inFlight n = .commit a rd slot v false →
      s.does (.cmtDone n) ((t.setWreg n rd
        (s.m.cmtResponse slot v (s.m.regStore (0x10 + n) slot 0x10 v []).2)).seqWaitEnd n)) ∧
    (s.issues n (.cmt rd win ra) m → takesCommit (m.get (winFld n win.toNat)) = true →
      m.regDenied (0x10 + n) (m.get (winFld n win.toNat)) 0x10 true = none →
      s.does (.cmt n rd win ra) (({ m with nextAccess := m.nextAccess + 1 }.spend n 1).seqWait n 6
        (.commit m.nextAccess rd (m.get (winFld n win.toNat)) (m.wreg n ra) false)))

/-- SeqWaitsBegin. WLINE, WTIME, WEVT, WCYC and FPROT wait where what they wait for is still to come, each
with its WAIT_KIND (R117, R120 to R122, R129). With nothing left to wait for, WTIME, WEVT, WCYC and FPROT
complete at once. -/
def Obligations.SeqWaitsBegin : Prop :=
  (∀ (s : State) (n h : Nat) (rd ra sel dom k : BitVec 5) (imm : BitVec 16) (m : Mach),
     let line := (m.wreg n ra + imm.zeroExtend 32).toNat
     let ns := (m.wreg n k).toNat
     let sec := (m.wreg n (k + 1)).toNat
     let mask := m.wreg n ra ||| imm.zeroExtend 32
     (s.issues n (.wline sel ra imm) m →
       (if sel = 31 then n < 20 ∧ h = n else sel.toNat < 20 ∧ h = sel.toNat) →
       ¬ (m.scanning h = true ∧ (m.head h).vtot ≤ line) →
       s.does (.wline n sel ra imm) ((m.spend n 1).seqWait n 1 (.line h line false))) ∧
     (s.issues n (.wtime dom k) m → k.toNat % 2 = 0 → k ≠ 0 → dom.toNat < 3 → ns < 1000000000 →
       m.timeReached dom.toNat sec ns = false →
       s.does (.wtime n dom k) ((m.spend n 1).seqWait n 2 (.time dom.toNat sec ns))) ∧
     (s.issues n (.wevt rd ra imm) m → mask ≠ 0 → m.pendMasked n mask = 0 →
       s.does (.wevt n rd ra imm) ((m.spend n 1).seqWait n 3 (.evt rd mask))) ∧
     (s.issues n (.wcyc ra imm) m → line ≠ 0 →
       s.does (.wcyc n ra imm) ((m.spend n 1).seqWait n 4 (.cyc line))) ∧
     (s.issues n .fprot m → m.drained m.nextAccess = false →
       s.does (.fprot n) ((m.spend n 4).seqWait n 5 (.fence m.nextAccess)))) ∧
  (∀ (s : State) (n : Nat) (rd ra dom k : BitVec 5) (imm : BitVec 16) (m : Mach),
     let mask := m.wreg n ra ||| imm.zeroExtend 32
     (s.issues n (.wtime dom k) m → k.toNat % 2 = 0 → k ≠ 0 → dom.toNat < 3 →
       (m.wreg n k).toNat < 1000000000 →
       m.timeReached dom.toNat (m.wreg n (k + 1)).toNat (m.wreg n k).toNat = true →
       s.does (.wtime n dom k) ((m.spend n 1).seqNext n)) ∧
     (s.issues n (.wevt rd ra imm) m → m.pendMasked n mask ≠ 0 →
       s.does (.wevt n rd ra imm) (((m.takeEvents n rd mask).spend n 1).seqNext n)) ∧
     (s.issues n (.wcyc ra imm) m → (m.wreg n ra + imm.zeroExtend 32).toNat = 0 →
       s.does (.wcyc n ra imm) ((m.spend n 1).seqNext n)) ∧
     (s.issues n .fprot m → m.drained m.nextAccess = true →
       s.does (.fprot n) ((m.spend n 4).seqNext n)))

/-- SeqWaitsEnd. What was waited for has come: the instruction completes (WEVT with the pending lines of its
mask, which clear; WCYC after exactly its cycles, where WAIT_LIMIT allows them, and with fault 0x18 where it
does not, R124). WEVT writes the pending lines of its mask, and exactly those clear (R121). -/
def Obligations.SeqWaitsEnd : Prop :=
  (∀ (s : State) (n h l d sec ns c b : Nat) (rd : BitVec 5) (mask : Word), s.m.on = true → n < 24 →
     let limit := s.m.get (Fld.SEQ_WAIT_LIMIT_LIMIT n)
     (s.m.seqWaitOf n = .line h l true → s.does (.wlineEnd n) (s.m.seqWaitEnd n)) ∧
     (s.m.seqWaitOf n = .time d sec ns → s.m.timeReached d sec ns = true →
       s.does (.wtimeEnd n) (s.m.seqWaitEnd n)) ∧
     (s.m.seqWaitOf n = .evt rd mask → s.m.pendMasked n mask ≠ 0 →
       s.does (.wevtEnd n) ((s.m.takeEvents n rd mask).seqWaitEnd n)) ∧
     (s.m.seqWaitOf n = .cyc c → (limit = 0 ∨ c ≤ 800 * limit) → s.does (.wcycEnd n)
       (((((s.m.put (Fld.SEQ_STATUS_STATE n) 1).put (Fld.SEQ_STATUS_WAIT_KIND n) 0).updSeq n fun q =>
         { q with wait := .none }).spend n c).seqNext n)) ∧
     (s.m.seqWaitOf n = .cyc c → limit ≠ 0 → 800 * limit < c →
       s.does (.wcycEnd n) (s.m.seqFault n 0x18 4)) ∧
     (s.m.seqWaitOf n = .fence b → s.m.drained b = true →
       s.does (.fprotDrainDone n) (s.m.seqWaitEnd n))) ∧
  (∀ (m : Mach) (n : Nat) (rd : BitVec 5) (mask : Word), n < 24 →
     let pend := BitVec.ofNat 32 (m.get (Fld.SEQ_EVT_PEND_PEND n))
     let t := m.takeEvents n rd mask
     (rd ≠ 0 → t.wreg n rd = pend &&& mask) ∧
     t.get (Fld.SEQ_EVT_PEND_PEND n) = (pend &&& ~~~ mask).toNat ∧
     (∀ r, r ≠ rd → t.wreg n r = m.wreg n r) ∧
     m.onlySeq t n [Reg.SEQ_EVT_PEND n])

/-- SeqOthersComplete. POST raises its doorbell (R123); CRC updates its first register by the low bytes of
the second (R130); RDT reads a pair of time registers (R119); NOP does nothing; JOB submits the 64 bytes of
its descriptor and takes the answer (R128). -/
def Obligations.SeqOthersComplete : Prop :=
  ∀ (s : State) (n h : Nat) (rd ra rb : BitVec 5) (imm : BitVec 16) (dom queue : BitVec 8)
    (len : CrcLen) (m m' : Mach) (desc : List Byte),
    let bell := (m.wreg n ra + imm.zeroExtend 32).toNat
    let at' := (m.wreg n ra).toNat
    (s.issues n (.post ra imm) m → bell < 15 →
      s.does (.post n ra imm) (((m.raise (0xF0 + bell)).spend n 2).seqNext n)) ∧
    (s.issues n (.crc len ra rb) m →
      s.does (.crc n len.bytes ra rb) (m.seqWrites n 1 ra
        (((wordLE (m.wreg n rb)).take len.bytes).foldl crc32cByte (m.wreg n ra)))) ∧
    (s.issues n (.rdt rd dom) m → rd.toNat % 2 = 0 → rd ≠ 0 → dom.toNat < 3 →
      s.does (.rdt n rd dom)
        ((((m.setWreg n rd (BitVec.ofNat 32 (nsOf (m.view dom.toNat)))).setWreg n (rd + 1)
          (BitVec.ofNat 32 (secOf (m.view dom.toNat)))).spend n 4).seqNext n)) ∧
    (s.issues n (.rdt rd dom) m → rd.toNat % 2 = 0 → rd ≠ 0 →
      (if dom = 3 then n < 20 ∧ h = n else 0x10 ≤ dom.toNat ∧ dom.toNat < 0x10 + 20 ∧
        h = dom.toNat - 0x10) →
      s.does (.rdt n rd dom)
        ((((m.setWreg n rd (BitVec.ofNat 32 (m.head h).line)).setWreg n (rd + 1)
          (BitVec.ofNat 32 ((m.head h).frames - 1))).spend n 4).seqNext n)) ∧
    (s.issues n .nop m → s.does (.nop n) ((m.spend n 1).seqNext n)) ∧
    (s.issues n (.job rd ra 0x17 queue) m → queue.toNat < 16 → at' ≤ 0x3FC0 → at' % 4 = 0 →
      m.descriptorWords n at' 16 = (m', some desc) →
      s.does (.job n rd ra 0x17 queue)
        ((m'.deflSubmit (0x10 + n) queue.toNat desc).1.seqWrites n 36 rd
          (BitVec.ofNat 32 (m'.deflSubmit (0x10 + n) queue.toNat desc).2))) ∧
    (s.issues n (.job rd ra 0x18 queue) m → queue.toNat < 8 → at' ≤ 0x3FC0 → at' % 4 = 0 →
      m.descriptorWords n at' 16 = (m', some desc) →
      s.does (.job n rd ra 0x18 queue)
        ((m'.checkSubmit (0x10 + n) queue.toNat desc).1.seqWrites n 36 rd
          (BitVec.ofNat 32 (m'.checkSubmit (0x10 + n) queue.toNat desc).2)))

/-- SeqStopsComplete. HALT stops with cause 1 after moving past itself; BRK stops with cause 3, or faults
with 0x1B, and puts its operand in FAULT_INFO; a word that is no instruction faults with 0x10; a breakpoint
stops before its instruction with cause 4; a fetch past the range faults with 0x11; a wait past WAIT_LIMIT
faults with 0x18; a STOP that was asked for stops a running sequencer with cause 2 (R107, R115, R124, R131,
R135, R138). A fault leaves the sequencer FAULTED with its cause and information, sets its FAULT bit and
raises EV_SEQn_FAULT; nothing else of the sequencers' registers changes before that event (R132). -/
def Obligations.SeqStopsComplete : Prop :=
  (∀ (s : State) (n w k : Nat) (imm : BitVec 16) (m : Mach),
     let past := (m.spend n 1).seqAdvance n
     (s.issues n .halt m → s.does (.halt n) (past.seqLeave n 3 0x01)) ∧
     (s.issues n (.brk imm) m → past.is (Fld.SEQ_CTRL_BRK_FAULT n) = false →
       s.does (.brk n imm) ((past.seqLeave n 3 0x03).put (Fld.SEQ_FAULT_INFO_INFO n) imm.toNat)) ∧
     (s.issues n (.brk imm) m → past.is (Fld.SEQ_CTRL_BRK_FAULT n) = true →
       s.does (.brk n imm) (past.seqFault n 0x1B imm.toNat)) ∧
     (s.m.on = true → n < 24 → s.m.seqReady n = true → s.m.atBreakpoint n = false →
       s.m.seqFetch n = (m, some w) → w < 2 ^ 32 → seqDecode (BitVec.ofNat 32 w) = none →
       s.does (.illegalInstruction n) (m.seqFault n 0x10 w)) ∧
     (s.m.on = true → n < 24 → s.m.seqReady n = true → s.m.atBreakpoint n = true →
       s.does (.breakpointHit n) (s.m.seqLeave n 3 0x04)) ∧
     (s.m.on = true → n < 24 → s.m.seqState n = 1 → (s.m.seq n).runOn = true →
       (s.m.seq n).stopReq = false →
       s.does (.pcRunOn n) (s.m.seqFault n 0x11 (s.m.pcLimit n))) ∧
     (s.m.on = true → n < 24 → s.m.get (Fld.SEQ_WAIT_LIMIT_LIMIT n) ≠ 0 →
       s.m.unsatisfied n (s.m.get (Fld.SEQ_WAIT_LIMIT_LIMIT n)) = some k →
       s.does (.waitTimeout n) (s.m.seqFault n 0x18 k)) ∧
     (s.m.on = true → n < 24 → s.m.seqState n = 1 → (s.m.seq n).stopReq = true →
       s.does (.seqStopped n) (s.m.seqLeave n 3 0x02))) ∧
  (∀ (m : Mach) (n cause info : Nat), n < 24 → cause < 256 → info < 2 ^ 32 →
     ∃ t : Mach, m.seqFault n cause info = t.raise 0xFF ∧
       t.seqState n = 4 ∧ t.get (Fld.SEQ_STATUS_WAIT_KIND n) = 0 ∧
       t.get (Fld.SEQ_CAUSE_CODE n) = cause ∧ t.get (Fld.SEQ_FAULT_INFO_INFO n) = info ∧
       t.bit Fld.EVT_SEQ_FAULT_STATUS_FAULT n = true ∧
       (t.seq n).w = (m.seq n).w ∧ (∀ k, k ≠ n → t.seq k = m.seq k) ∧
       t = { m with regs := t.regs, seqs := t.seqs } ∧
       ∀ key, key ≠ Reg.SEQ_STATUS n → key ≠ Reg.SEQ_CAUSE n → key ≠ Reg.SEQ_FAULT_INFO n →
         key ≠ Reg.EVT_SEQ_FAULT_STATUS → t.rd key = m.rd key)

/-- SeqControlActs. A write of CTRL does what its first action bit says, in the order STOP, START, RESUME,
STEP, in the states that take it, and nothing in the others (R134, R135). START clears the registers, lines,
cycles and cause, names the own slot in every window, and runs from PC; RESUME and STEP run on with the
registers as they are, RESUME with the cause cleared, STEP for one instruction; STOP is noted. A write of
DBG_DATA sets the register that DBG_SEL names, in a sequencer that is not BUSY, and leaves every register as
it is in one that is (R136, R138); a write of instruction RAM stores the word there, little-endian, in one
that is not BUSY (R105). -/
def Obligations.SeqControlActs : Prop :=
  (∀ (s : State) (mst n : Nat) (v : Word), n < 24 → s.reaches mst (0xA0 + n) 0 →
     let idle := s.m.seqState n = 0
     let stopped := s.m.seqState n = 3 ∨ s.m.seqState n = 4
     let busy := s.m.seqState n = 1 ∨ s.m.seqState n = 2
     let runs (t : Mach) (cause : Nat) := t.seqState n = 1 ∧ t.get (Fld.SEQ_CAUSE_CODE n) = cause ∧
       t.pcOf n = s.m.pcOf n ∧ (t.seq n).wait = .none ∧ (t.seq n).stopReq = false
     let on := [Reg.SEQ_CTRL n, Reg.SEQ_STATUS n, Reg.SEQ_CAUSE n]
     (v.getLsbD 3 = false → v.getLsbD 0 = true → idle ∨ stopped →
       ∃ t : Mach, s.does (.seqStart mst n v) t.settled ∧ runs t 0 ∧ (∀ r, t.wreg n r = 0) ∧
         t.get (Fld.SEQ_EVT_PEND_PEND n) = 0 ∧ t.get (Fld.SEQ_CYCLES_COUNT n) = 0 ∧
         (∀ k < 4, t.get (winFld n k) = 0xA0 + n) ∧
         s.m.onlySeq t n (Reg.SEQ_EVT_PEND n :: Reg.SEQ_CYCLES n :: Reg.SEQ_WIN n :: on)) ∧
     (v.getLsbD 3 = false → v.getLsbD 0 = false → v.getLsbD 1 = true → stopped →
       ∃ t : Mach, s.does (.seqResume mst n v) t.settled ∧ runs t 0 ∧ (t.seq n).stepping = false ∧
         (∀ r, t.wreg n r = s.m.wreg n r) ∧ s.m.onlySeq t n on) ∧
     (v.getLsbD 3 = false → v.getLsbD 0 = false → v.getLsbD 1 = false → v.getLsbD 2 = true → stopped →
       ∃ t : Mach, s.does (.seqStep mst n v) t.settled ∧ runs t (s.m.get (Fld.SEQ_CAUSE_CODE n)) ∧
         (t.seq n).stepping = true ∧ (∀ r, t.wreg n r = s.m.wreg n r) ∧ s.m.onlySeq t n on) ∧
     (v.getLsbD 3 = true → busy →
       ∃ t : Mach, s.does (.seqStop mst n v) t.settled ∧ t.seq n = { s.m.seq n with stopReq := true } ∧
         s.m.onlySeq t n [Reg.SEQ_CTRL n]) ∧
     (v.getLsbD 3 = true → ¬ busy →
       ∃ t : Mach, s.does (.seqStop mst n v) t.settled ∧ s.m.onlyIn t [Fld.SEQ_CTRL_BRK_FAULT n]) ∧
     (v.getLsbD 3 = false → v.getLsbD 0 = true → busy →
       ∃ t : Mach, s.does (.seqStart mst n v) t.settled ∧ s.m.onlyIn t [Fld.SEQ_CTRL_BRK_FAULT n]) ∧
     (v.getLsbD 3 = false → v.getLsbD 0 = false → v.getLsbD 1 = true → ¬ stopped →
       ∃ t : Mach, s.does (.seqResume mst n v) t.settled ∧ s.m.onlyIn t [Fld.SEQ_CTRL_BRK_FAULT n]) ∧
     (v.getLsbD 3 = false → v.getLsbD 0 = false → v.getLsbD 1 = false → v.getLsbD 2 = true → ¬ stopped →
       ∃ t : Mach, s.does (.seqStep mst n v) t.settled ∧ s.m.onlyIn t [Fld.SEQ_CTRL_BRK_FAULT n])) ∧
  (∀ (s : State) (mst n off : Nat) (v : Word), n < 24 →
     let at' := 0x1800000000 + n * 0x10000 + off
     (s.reaches mst (0xA0 + n) 0x2C → s.m.seqBusy n = true → ∃ t : Mach,
       s.does (.seqDbgDataWrite mst n v) t.settled ∧ ∀ k, t.wreg n k = s.m.wreg n k) ∧
     (s.reaches mst (0xA0 + n) 0x2C → s.m.seqBusy n = false →
       let r := BitVec.ofNat 5 (s.m.get (Fld.SEQ_DBG_SEL_REG n))
       ∃ t : Mach, s.does (.seqDbgDataWrite mst n v) t.settled ∧
         (∀ k, t.wreg n k = if k = 0 then 0 else if k = r then v else s.m.wreg n k) ∧
         s.m.onlySeq t n [Reg.SEQ_DBG_DATA n]) ∧
     (s.m.on = true → mstOk mst = true → s.m.seqBusy n = false → s.m.hostWaits mst = false → off < 0x8000 → off % 4 = 0 →
       s.m.memDenied mst at' true = none → s.m.leaseHit at' 4 = none → s.m.mirrorFull mst [(at', 4)] = false →
       s.does (.seqIramWrite mst n off v)
         (((s.m.setBytes at' (wordLE v)).wordWritten at').mirrorMem mst at' (wordLE v))))

/-! ### Power, reset and boot (spec/02, spec/03) -/

/-- PowerUpProceeds. VIN, or WAKE_N in Dormant, starts a full power-up that keeps nothing; power-good ends
soft-start, and after Keep the rails' rise; a failed rail is tried again up to three times, after Keep with
nothing kept but the cause of the wake, and then latched off; the retry starts soft-start again; the boot
ROM starts with BOOT_SEL sampled, and stops at selector 3 (R50, R51). -/
def Obligations.PowerUpProceeds : Prop :=
  ∀ (s : State) (sel : Nat),
    ((s.m.pwr.phase = .off ∧ s.m.pwr.railLatched = false) ∨ s.m.pwr.phase = .downing ∨
        s.m.pwr.phase = .dormant →
      ∃ t : Mach, s.does .powerOn t ∧ t.wiped [Reg.SYS_PWR_STATUS, Reg.PAIR_STATUS] ∧
        t.pwr.phase = .softStart ∧ t.pwr.railTries = 0 ∧
        t.get Fld.SYS_PWR_STATUS_WAKE_CAUSE = if s.m.pwr.phase = .dormant then 1 else 0) ∧
    (s.m.pwr.phase = .softStart ∨ s.m.pwr.phase = .railsRise →
      s.does .railsPowerGood { s.m with pwr := { s.m.pwr with phase := .railsUp } }) ∧
    (s.m.pwr.phase = .softStart → s.m.pwr.railTries < 3 →
      s.does .railFailure
        { s.m with pwr := { s.m.pwr with phase := .retryWait, railTries := s.m.pwr.railTries + 1 } }) ∧
    (s.m.pwr.phase = .softStart → 3 ≤ s.m.pwr.railTries →
      s.does .railFailure { s.m with pwr := { s.m.pwr with phase := .off, railLatched := true } }) ∧
    (s.m.pwr.phase = .railsRise → ∃ t : Mach, s.does .railFailure t ∧
      t.wiped [Reg.SYS_PWR_STATUS, Reg.PAIR_STATUS] ∧ t.pwr.phase = .retryWait ∧ t.pwr.railTries = 1 ∧
      t.get Fld.SYS_PWR_STATUS_WAKE_CAUSE = s.m.get Fld.SYS_PWR_STATUS_WAKE_CAUSE) ∧
    (s.m.pwr.phase = .retryWait →
      s.does .railRetry { s.m with pwr := { s.m.pwr with phase := .softStart } }) ∧
    (sel < 4 → (s.m.pwr.phase = .railsUp ∧ s.m.pwr.resetLow = false) ∨
        (s.m.pwr.phase = .on ∧ s.m.boot.romStarted = false) →
      ∃ t : Mach, s.does (.bootRomStart sel) t ∧ t.pwr.phase = .on ∧ t.boot.romStarted = true ∧
        t.get Fld.BOOT_STATUS_SEL = sel ∧ t.boot.halted = (s.m.boot.halted || sel == 3) ∧
        (sel = 3 → t.get Fld.BOOT_STATUS_CODE = 0x01) ∧
        { s.m with pwr := t.pwr, boot := t.boot }.onlyRegs t [Reg.BOOT_STATUS])

/-- PowerLossAndResets. VIN below its warning level sets VIN_LOW and raises EV_VIN_LOW; below the falling
threshold everything is lost and power-down runs to off; RESET_N low resets the running module with CAUSE 3
and holds it, holds a power-up elsewhere, and lets boot go on when it rises; the warning temperature sets
THERM_WARN and raises EV_TEMP_WARN; 130 °C for 1 ms holds the module in reset with the trip latched (R52,
R53, R56). A write of SOFT_RESET with GO and the right CONFIRM resets the module but for LOCAL's time and
DRAM's training; CAUSE is 4 and memory reads as empty. The domains, the DPLL and their registers stay as
well, where no input that comes from a port was valid: such an input is lost. Without the CONFIRM nothing
happens (R53; the scope of what stays is log entry 25). -/
def Obligations.PowerLossAndResets : Prop :=
  (∀ s : State,
     (s.m.on = true ∨ s.m.pwr.phase = .entering → ∃ t : Mach, s.does .vinLow (t.raise 0xBC) ∧ t.get Fld.SYS_PWR_STATUS_VIN_LOW = 1 ∧
       s.m.onlyIn t [Fld.SYS_PWR_STATUS_VIN_LOW]) ∧
     (s.m.pwr.phase = .keep → ∃ t : Mach, s.does .vinLow t ∧ t.get Fld.SYS_PWR_STATUS_VIN_LOW = 1 ∧
       s.m.onlyIn t [Fld.SYS_PWR_STATUS_VIN_LOW]) ∧
     (∃ t : Mach, s.does .powerDown t ∧ t.wiped [Reg.PAIR_STATUS] ∧ t.pwr.phase =
       if s.m.pwr.phase = .off ∨ s.m.pwr.phase = .dormant ∨ s.m.pwr.phase = .retryWait then .off
       else .downing) ∧
     (s.m.pwr.phase = .downing →
       s.does .powerDownDone { s.m with pwr := { s.m.pwr with phase := .off } }) ∧
     (s.m.on = true → ∃ t : Mach, s.does .resetNAssert t ∧ t.pwr.phase = .railsUp ∧ t.pwr.resetLow = true ∧
       t.get Fld.SYS_RESET_CAUSE_CAUSE = 3 ∧ t.wiped [Reg.SYS_RESET_CAUSE, Reg.PAIR_STATUS]) ∧
     (s.m.pwr.phase ≠ .on → s.m.pwr.phase ≠ .tripped → s.does .resetNAssert
       { s.m with pwr := { s.m.pwr with resetLow := true } }) ∧
     (s.m.pwr.resetLow = true → s.m.pwr.phase ≠ .tripped →
       s.does .resetNRelease { s.m with pwr := { s.m.pwr with resetLow := false } }) ∧
     (s.m.pwr.resetLow = true → s.m.pwr.phase = .tripped → s.does .resetNRelease
       { s.m with pwr := { s.m.pwr with resetLow := false, phase := .railsUp } }) ∧
     (s.m.on = true → ∃ t : Mach, s.does .thermWarn (t.raise 0xBD) ∧ t.get Fld.SYS_PWR_STATUS_THERM_WARN = 1 ∧
       s.m.onlyIn t [Fld.SYS_PWR_STATUS_THERM_WARN]) ∧
     (s.m.on = true → ∃ t : Mach, s.does .thermalTrip t ∧ t.pwr.phase = .tripped ∧ t.pwr.tripLatched = true ∧
       t.wiped [Reg.PAIR_STATUS])) ∧
  (∀ (s : State) (mst : Nat) (v : Word), s.reaches mst 0 0x110 → v.getLsbD 0 = true →
     (bitsOf v.toNat 16 16 = 0xA5C3 → ∃ t : Mach, s.does (.softReset mst v) t.settled ∧
       t.time.now = s.m.time.now ∧ t.time.ticks = s.m.time.ticks ∧ t.boot.trained = s.m.boot.trained ∧
       (∀ c, c < 16 → let key := (Fld.DRAMC_CH_TRAIN_FAIL (c / 4) (c % 4)).key
         t.rd key = s.m.rd key) ∧
       t.get Fld.SYS_RESET_CAUSE_CAUSE = 4 ∧ t.mem = [] ∧ t.seqs = [] ∧ t.decode = Decode.reset ∧
       t.encode = Encode.reset ∧ t.pair = Pair.reset ∧ t.pwr.phase = .on ∧
       ((∀ k, 5 ≤ k → k < 10 → s.m.dpll.valid.contains k = false) →
         t.time = { s.m.time with exchange := none } ∧ t.dpll = s.m.dpll ∧
         ∀ slot off, slot = 0x0C ∨ slot = 0x0D → off < 0x10000 →
           t.rd (regKey 0 slot off) = s.m.rd (regKey 0 slot off))) ∧
     (bitsOf v.toNat 16 16 ≠ 0xA5C3 → ∃ t : Mach, s.does (.softReset mst v) t.settled ∧ s.m.onlyRegs t []))

/-- PowerTargets. A write of PWR_CTRL with TARGET RUN or IDLE stores it; KEEP and DORMANT with the CONFIRM,
with WAKE_N high and without possession, begin the entry; otherwise the request is rejected with its cause
and TARGET stays (R42, R44). -/
def Obligations.PowerTargets : Prop :=
  ∀ (s : State) (mst : Nat) (v : Word) (wake : Bool), s.reaches mst 0 0x100 →
    let target := bitsOf v.toNat 0 2
    let confirmed := bitsOf v.toNat 16 16 = 0xA5C3
    let owner := (s.m.paired && s.m.pair.poss) = true
    let woken := { s.m with pwr := { s.m.pwr with wakeLow := none } }
    (target = 0 → ∃ t : Mach, s.does (.pwrTargetRun mst v) t.settled ∧ t.get Fld.SYS_PWR_CTRL_TARGET = 0 ∧
      s.m.onlyRegs t [Reg.SYS_PWR_CTRL]) ∧
    (target = 1 → ∃ t : Mach, s.does (.pwrTargetIdle mst v) t.settled ∧ t.get Fld.SYS_PWR_CTRL_TARGET = 1 ∧
      s.m.onlyRegs t [Reg.SYS_PWR_CTRL]) ∧
    (target = 2 → confirmed → ¬ owner → wake = false →
      ∃ t : Mach, s.does (.pwrRequestKeep mst v wake) t.settled ∧ t.pwr.phase = .entering ∧
        t.pwr.toDormant = false ∧ { woken with pwr := t.pwr }.onlyRegs t [Reg.SYS_PWR_CTRL]) ∧
    (target = 3 → confirmed → ¬ owner → wake = false →
      ∃ t : Mach, s.does (.pwrRequestDormant mst v wake) t.settled ∧ t.pwr.phase = .entering ∧
        t.pwr.toDormant = true ∧ { woken with pwr := t.pwr }.onlyRegs t [Reg.SYS_PWR_CTRL]) ∧
    (∀ c : Instr, (target = 2 ∧ c = .pwrRequestKeep mst v wake) ∨
        (target = 3 ∧ c = .pwrRequestDormant mst v wake) → ¬ confirmed ∨ owner ∨ wake = true →
      ∃ t : Mach, s.does c t.settled ∧
        t.get Fld.SYS_PWR_STATUS_REQ_REJECT = 1 ∧
        t.get Fld.SYS_PWR_STATUS_REJECT_CAUSE = (if ¬ confirmed then 1 else if owner then 2 else 3) ∧
        t.get Fld.SYS_PWR_CTRL_TARGET = s.m.get Fld.SYS_PWR_CTRL_TARGET ∧
        woken.onlyRegs t [Reg.SYS_PWR_CTRL, Reg.SYS_PWR_STATUS])

/-- LowPowerStates. The end of the entry is Keep or Dormant, which keep every register that R47 names:
PWR_CTRL, PWR_STATUS but for BOOT_READY and STATE, IDLE_DELAY, and the TOUCH wake settings WAKE_MASK0,
WAKE_MASK1, WAKE_CFG and HOP0; Keep keeps the time and the frequency as well. WAKE_N low then, or later,
ends them with a full boot, after Keep with WAKE_CAUSE 2, these registers and time going on and the DPLL in
HOLDOVER, or in LOST where Keep lasted longer than 600 s, at the kept frequency; after Dormant with
WAKE_CAUSE 1 and nothing kept (R45 to R48). Where the conditions of R42 hold the module enters Idle and DRAM
self-refresh; an access to DRAM brings both back and the accesses that wait are performed in order (R42,
R43). -/
def Obligations.LowPowerStates : Prop :=
  (∀ s : State,
     let names := [Reg.SYS_PWR_CTRL, Reg.SYS_PWR_STATUS, Reg.SYS_IDLE_DELAY, Reg.TOUCH_WAKE_MASK0,
       Reg.TOUCH_WAKE_MASK1, Reg.TOUCH_WAKE_CFG, Reg.TOUCH_HOP 0]
     let kept (t : Mach) (but : List Fld) := ∀ key ∈ names, ∀ b,
       (∀ f ∈ but, f.key = key → b < f.lo ∨ f.lo + f.width ≤ b) →
       (t.rd key).getLsbD b = (s.m.rd key).getLsbD b
     let entry := [Fld.SYS_PWR_STATUS_BOOT_READY, Fld.SYS_PWR_STATUS_STATE]
     let entered (t : Mach) := kept t entry ∧ t.mem = [] ∧ t.written = [] ∧ t.seqs = [] ∧
       t.get Fld.SYS_PWR_STATUS_BOOT_READY = 0 ∧ t.get Fld.SYS_PWR_STATUS_STATE = 0
     (s.m.pwr.phase = .entering → s.m.pwr.toDormant = false →
       ∃ t : Mach, s.does (.keepReached false) t ∧ t.pwr.phase = .keep ∧ entered t ∧ t.time = s.m.time ∧
         t.dpll = { s.m.dpll with held := s.m.dpllF }) ∧
     (s.m.pwr.phase = .entering → s.m.pwr.toDormant = true →
       ∃ t : Mach, s.does (.dormantReached false) t ∧ t.pwr.phase = .dormant ∧ entered t ∧
         t.wiped (Reg.PAIR_STATUS :: names)) ∧
     (s.m.pwr.phase = .entering → s.m.pwr.toDormant = false →
       ∃ t : Mach, s.does (.keepReached true) t ∧ t.pwr.phase = .railsRise ∧
         kept t (Fld.SYS_PWR_STATUS_WAKE_CAUSE :: entry) ∧
         t.get Fld.SYS_PWR_STATUS_WAKE_CAUSE = 2 ∧ t.time.now = s.m.time.now) ∧
     (s.m.pwr.phase = .entering → s.m.pwr.toDormant = true →
       ∃ t : Mach, s.does (.dormantReached true) t ∧ t.pwr.phase = .softStart ∧
         t.get Fld.SYS_PWR_STATUS_WAKE_CAUSE = 1) ∧
     (s.m.pwr.phase = .keep →
       ∃ t : Mach, s.does .wake t ∧ t.pwr.phase = .railsRise ∧ t.get Fld.SYS_PWR_STATUS_WAKE_CAUSE = 2 ∧
         t.get Fld.SYS_RESET_CAUSE_CAUSE = 2 ∧ t.time.now = s.m.time.now ∧ t.mem = [] ∧
         kept t [Fld.SYS_PWR_STATUS_WAKE_CAUSE] ∧ t.dpll.held = s.m.dpll.held ∧
         t.dpll.st = if 24000000000 < s.m.pwr.keepTicks then .lost else .holdover) ∧
     (s.m.pwr.phase = .dormant →
       ∃ t : Mach, s.does .wake t ∧ t.pwr.phase = .softStart ∧ t.get Fld.SYS_PWR_STATUS_WAKE_CAUSE = 1 ∧
         t.wiped [Reg.SYS_PWR_STATUS, Reg.PAIR_STATUS])) ∧
  (∀ s : State, s.m.on = true →
     (s.m.idleReady = true →
       ∃ t : Mach, s.does .idleEntry t ∧ t.get Fld.SYS_PWR_STATUS_STATE = 1 ∧
         t.get Fld.DRAMC_STATUS_SREF = 1 ∧
         s.m.onlyIn t [Fld.SYS_PWR_STATUS_STATE, Fld.DRAMC_STATUS_SREF]) ∧
     (s.m.get Fld.SYS_PWR_STATUS_STATE = 1 →
       ∃ t : Mach, s.does .idleWakeAccess t.releaseHeld.resume ∧ t.get Fld.SYS_PWR_STATUS_STATE = 0 ∧
         t.get Fld.DRAMC_STATUS_SREF = 0 ∧
         s.m.onlyIn t [Fld.SYS_PWR_STATUS_STATE, Fld.DRAMC_STATUS_SREF]))

/-- BootPrepares. The clearing of written bits moves boot to stage 1, where it reads the flash, or to stage
2 for the host; training of all channels records of each the smallest eye, the points that passed and the
byte lanes that failed, those with a read or write eye under 25 % or a command eye under 30 %; a failed lane
stops boot at stage 4 with the lowest of them; the zero-fill leaves all of DRAM zero, performs what waited,
and lets boot go on (R92, R360, R361, R380). -/
def Obligations.BootPrepares : Prop :=
  ∀ (s : State) (rs : List ChannelTraining), s.m.on = true → s.m.boot.romStarted = true →
    let passes (e : LaneEyes) := 25 ≤ e.read ∧ 25 ≤ e.write ∧ 30 ≤ e.command
    let failing (c b : Nat) := ∃ r ∈ rs, r.channel = c ∧ ∃ e ∈ r.eyes, e.byte = b ∧ ¬ passes e
    let reg (c : Nat) := (Fld.DRAMC_CH_TRAIN_FAIL (c / 4) (c % 4)).key
    (s.m.boot.fsCleared = false → s.m.boot.halted = false → s.m.stage = 0 →
      ∃ t : Mach, s.does .fsWrittenBitsCleared
          (if s.m.get Fld.BOOT_STATUS_SEL = 0 then t.send (.qspi 0x13 25 0 0) else t) ∧ t.written = [] ∧ t.boot.fsCleared = true ∧
        t.stage = (if s.m.get Fld.BOOT_STATUS_SEL = 0 then 1 else 2) ∧
        { s.m with written := [], boot := t.boot }.onlyIn t [Fld.BOOT_STATUS_STAGE]) ∧
    (trainedWhole rs = true → s.m.boot.trained = false → s.m.boot.trainFail = none →
      ∃ t : Mach, s.does (.dramTrainingDone rs) t.bootWait ∧
        t.boot = { s.m.boot with trained := t.boot.trained, trainFail := t.boot.trainFail } ∧
        (t.boot.trained = true ↔ ∀ c b, ¬ failing c b) ∧ (t.boot.trainFail = none ↔ t.boot.trained = true) ∧
        (∀ lane, t.boot.trainFail = some lane → failing (lane / 2) (lane % 2) ∧
          ∀ c b, failing c b → lane ≤ 2 * c + b) ∧
        (∀ c < 16, ((∃ b, failing c b) → t.get (Fld.DRAMC_CH_TRAIN_FAIL (c / 4) (c % 4)) = 1 ∧
            t.get (Fld.DRAMC_CH_TRAIN_FAIL_KIND (c / 4) (c % 4)) = 1) ∧
          ((∀ b, ¬ failing c b) → t.get (Fld.DRAMC_CH_TRAIN_FAIL (c / 4) (c % 4)) =
            s.m.get (Fld.DRAMC_CH_TRAIN_FAIL (c / 4) (c % 4))) ∧
          ∀ r, rs.filter (fun x => x.channel == c) = [r] →
            t.get (Fld.DRAMC_CH_TRAIN_OP_TRAINED (c / 4) (c % 4)) = passedPoints r ∧
            t.get (Fld.DRAMC_CH_TRAIN_MARGIN (c / 4) (c % 4)) = smallestEye r ∧
            (failingLanes r ≠ 0 → t.get (Fld.DRAMC_CH_TRAIN_FAIL_BYTE (c / 4) (c % 4)) = failingLanes r)) ∧
        { s.m with boot := t.boot }.onlyRegs t ((List.range 16).map reg)) ∧
    (∀ (m : Mach) (lane : Nat), m.stage = 4 → m.boot.halted = false → m.boot.trainFail = some lane →
      lane < 32 → ∃ t : Mach, m.bootWait = t ∧ t.boot = { m.boot with halted := true } ∧
        t.get Fld.BOOT_STATUS_CODE = 0x02 ∧ t.get Fld.BOOT_STATUS_LANE = lane ∧
        { m with boot := t.boot }.onlyRegs t [Reg.BOOT_STATUS]) ∧
    (∀ m : Mach, m.stage ≠ 4 ∨ m.boot.halted = true → m.bootWait = m) ∧
    (∀ m : Mach, m.stage = 4 → m.boot.halted = false → m.boot.trainFail = none →
      (m.boot.zeroFilled = false → m.bootWait = m) ∧
      (m.boot.zeroFilled = true → m.bootWait.stage = 5 ∧ m.onlyIn m.bootWait [Fld.BOOT_STATUS_STAGE])) ∧
    (s.m.boot.zeroFilled = false → s.m.boot.trained = true →
      ∃ t : Mach, s.does .dramZeroFillDone t.releaseHeld.bootWait.resume ∧ t.boot.zeroFilled = true ∧
        (∀ a, t.byte a = if a < 0x700000000 then 0 else s.m.byte a) ∧
        (∀ a < 0x700000000, t.flipMask a = 0) ∧ (∀ key, t.rd key = s.m.rd key))

/-- BootChecksAndStarts. An image read from flash is staged, and its header checked; one of only ones or
zeros stops boot with BOOT_E_QSPI; the host's GO at stage 2 has the staged image checked with the length it
announced; a header with another MAGIC, another form, another length or another key stops boot with
BOOT_E_MAGIC, BOOT_E_FORMAT, BOOT_E_LENGTH or BOOT_E_KEY, in this order, and a right one gives the image's
length; the signature moves boot on, or stops it with BOOT_E_SIGNATURE; a segment that is not whole words,
is empty, lies outside the regions of R91 or the image, or overlaps another stops it with BOOT_E_SEGMENT,
and an entry that names no sequencer or no word of a segment with BOOT_E_ENTRY; the segments are copied and
the entry sequencer starts with SEQ23 out of the ROM; without BOOT_LOCK in time BOOT_E_NO_LOCK is set (R87
to R93). The write that sets PROT.BOOT_LOCK locks it for good, moves boot to stage 7, sets BOOT_READY and
raises EV_BOOT_LOCK (R93, R94). -/
def Obligations.BootChecksAndStarts : Prop :=
  (∀ (s : State) (mst n : Nat) (v : Word) (image : List Byte), s.m.on = true →
     let header := s.m.staged 0 0x400
     let entry := leNat ((header.2.drop 0x10).take 1)
     let pc := leNat ((header.2.drop 0x14).take 4)
     (s.m.stage = 1 → s.m.boot.halted = false → image.take 4 ≠ List.replicate 4 0xFF →
       image.take 4 ≠ List.replicate 4 0 →
       s.does (.qspiImageReadDone image)
         (((s.m.flashRest image).fsWrite 0x27 0 (image.take 0x800000)).bootVerify none)) ∧
     (s.m.stage = 1 → s.m.boot.halted = false →
         image.take 4 = List.replicate 4 0xFF ∨ image.take 4 = List.replicate 4 0 →
       ∃ t : Mach, s.does (.qspiImageReadDone image) t ∧ t.boot = { s.m.boot with halted := true } ∧
         t.get Fld.BOOT_STATUS_CODE = 0x03 ∧ { s.m.flashRest image with boot := t.boot }.onlyIn t [Fld.BOOT_STATUS_CODE]) ∧
     (s.reaches mst 5 4 → v.getLsbD 31 = true → s.m.stage = 2 → s.m.boot.halted = false →
       ∃ t : Mach, s.m.onlyRegs t [Reg.BOOT_HOST_LOAD] ∧
         s.does (.bootHostLoadGo mst v) (t.bootVerify (some (bitsOf v.toNat 0 24))).settled) ∧
     (s.m.stage = 3 → s.m.boot.halted = false → s.m.boot.imageLen = some n →
       signatureOk (s.m.staged 0 n).2 = true → segmentCheck (s.m.staged 0 n).2 = none →
       ∃ t : Mach, s.does .bootSignatureVerified t.bootWait ∧ t.stage = 4 ∧
         t.boot = { (s.m.staged 0 n).1.boot with verified := true } ∧
         { (s.m.staged 0 n).1 with boot := t.boot }.onlyIn t [Fld.BOOT_STATUS_STAGE]) ∧
     (s.m.stage = 3 → s.m.boot.halted = false → s.m.boot.imageLen = some n →
       let r := s.m.staged 0 n
       let word (off k : Nat) := leNat ((r.2.drop off).take k)
       let segs := segmentsOf r.2
       let bad := (∃ g ∈ segs, segmentOk (word 8 4) g = false) ∨ segmentsApart segs = false
       let lost := 24 ≤ word 0x10 1 ∨ word 0x14 4 % 4 ≠ 0 ∨ 0x8000 ≤ word 0x14 4 ∨
         ∀ g ∈ segs, ¬ (g.dest ≤ seqRamBase (word 0x10 1) + word 0x14 4 ∧
           seqRamBase (word 0x10 1) + word 0x14 4 + 4 ≤ g.dest + g.len)
       (signatureOk r.2 = false → s.does .bootSignatureVerified (r.1.bootHalt 0x08)) ∧
       (signatureOk r.2 = true → bad → s.does .bootSignatureVerified (r.1.bootHalt 0x09)) ∧
       (signatureOk r.2 = true → ¬ bad → lost → s.does .bootSignatureVerified (r.1.bootHalt 0x0A))) ∧
     (∀ (m : Mach) (len : Option Nat),
       let r := (m.setStage 3).staged 0 0x400
       let word (off k : Nat) := leNat ((r.2.drop off).take k)
       let magic := r.2.take 4 = [0x4E, 0x56, 0x42, 0x49]
       let form := word 4 2 = 1 ∧ 0 < word 6 2 ∧ word 6 2 ≤ 16 ∧ headerReserved r.2 = true
       let length := 0x400 ≤ word 8 4 ∧ word 8 4 ≤ 0x800000 ∧ len.getD (word 8 4) = word 8 4
       let key := sha384 ((r.2.drop 0x40).take 97) = Config.keyHash
       (¬ magic → m.bootVerify len = r.1.bootHalt 0x04) ∧
       (magic → ¬ form → m.bootVerify len = r.1.bootHalt 0x05) ∧
       (magic → form → ¬ length → m.bootVerify len = r.1.bootHalt 0x06) ∧
       (magic → form → length → ¬ key → m.bootVerify len = r.1.bootHalt 0x07) ∧
       (magic → form → length → key → m.bootVerify len =
         { r.1 with boot := { r.1.boot with imageLen := some (word 8 4) } })) ∧
     (∀ (m : Mach) (code : Nat), code < 256 → ∃ t : Mach, m.bootHalt code = t ∧
       t.boot = { m.boot with halted := true } ∧ t.get Fld.BOOT_STATUS_CODE = code ∧
       { m with boot := t.boot }.onlyIn t [Fld.BOOT_STATUS_CODE]) ∧
     (s.m.stage = 5 → s.m.boot.halted = false → entry < 24 → pc < 0x8000 → pc % 4 = 0 →
       ∃ t : Mach, s.does .bootSegmentCopyDone t ∧ t.stage = 6 ∧ t.seqState entry = 1 ∧ t.pcOf entry = pc ∧
         (entry ≠ 23 → t.seqState 23 = 0) ∧
         t.mem = ((segmentsOf header.2).foldl Mach.copySegment header.1).mem) ∧
     (s.m.stage = 6 → s.m.locked = false →
       ∃ t : Mach, s.does .bootNoLockTimeout t ∧ t.get Fld.BOOT_STATUS_CODE = 0x0B ∧
         s.m.onlyIn t [Fld.BOOT_STATUS_CODE])) ∧
  (∀ (s : State) (mst : Nat) (v : Word), s.reaches mst 1 0 → v.getLsbD 0 = true →
     (s.m.locked = false →
       ∃ t : Mach, s.does (.bootLock mst v) (t.raise 0xB1).updProtected.settled ∧ t.locked = true ∧
         t.stage = 7 ∧ t.get Fld.SYS_PWR_STATUS_BOOT_READY = 1 ∧
         s.m.onlyRegs t [Reg.PROT_BOOT_LOCK, Reg.BOOT_STATUS, Reg.SYS_PWR_STATUS]) ∧
     (s.m.locked = true →
       ∃ t : Mach, s.does (.bootLock mst v) t.settled ∧ s.m.onlyRegs t [] ∧ t.locked = true))

/-- I2cAnswers. Telemetry reads give temperature, VIN and current as measured and STATE, most significant
byte first; the identity EEPROM reads its contents, wraps at its end, and acknowledges writes and discards
them (R55). -/
def Obligations.I2cAnswers : Prop :=
  ∀ (s : State) (off len : Nat) (temp : Int) (vin cur : Nat) (data : List Byte),
    s.m.i2cActive = true → off < 256 →
    (off + len ≤ 8 →
      s.does (.i2cTelemetryRead off len temp vin cur)
        (s.m.send (.i2c (((s.m.telemetry temp vin cur).drop off).take len)))) ∧
    (len ≤ 256 →
      s.does (.i2cEepromRead off len) (s.m.send (.i2c ((List.range len).map fun k =>
        eepromByte (s.m.rd Reg.CHAIN_UNIT_ID).toNat ((off + k) % 256))))) ∧
    (data.length ≤ 256 → s.does (.i2cEepromWrite off data) (s.m.send .i2cAck))

/-! ### Registers and memory as masters reach them (spec/01, spec/03, spec/13) -/

/-- RegisterWriteStores. An admitted write of a register stores its fields by their access types, each field
from the bits at its place: RW takes the written bits unless the field is HELD and its block BUSY, W1C
clears and W1S sets the bits written 1, RO and WO keep what is stored; then comes what the write starts in
its block, unless it is data that a BUSY unit rejects, and a HELD field that a BUSY block rejects reports it
(R6, R7, R97, R98). In the registers listed second nothing follows the stored fields; in those listed third
a write is the command of its own that its value spells. -/
def Obligations.RegisterWriteStores : Prop :=
  (∀ (s : State) (mst slot off e : Nat) (d : RegDesc) (v : Word),
    slotOk slot = true → offOk off = true → deafReg slot off = false → s.reaches mst slot off →
    drainGate slot off e = none → ¬ (slot = 0x14 ∧ off = 0x1048) → ¬ (slot = 0x02 ∧ 0x1000 ≤ off) →
    s.m.regAt mst slot off = some (d, e) →
    (d.flds.all fun f => decide (f.lo + f.width ≤ 32)) = true →
    (d.flds.Pairwise fun f g => f.lo + f.width ≤ g.lo ∨ g.lo + g.width ≤ f.lo) →
    let key := regKey e slot off
    let old := s.m.rd key
    let shows := (s.m.shown slot off e).rd key
    let busy := s.m.busyAt slot off e
    let rejects (f : FldDesc) := busy && f.cls == .held && (match f.acc with
      | .rw => bitsOf v.toNat f.lo f.width != bitsOf shows.toNat f.lo f.width
      | .wo => feedsData slot off || bitsOf v.toNat f.lo f.width != 0
      | _ => false)
    let rejected := d.flds.any rejects
    ∃ t : Mach,
      let u := if rejected && startsOnly slot off then t else t.wroteBlock s.m mst slot off e v []
      let w := if rejected then u.cfgReject mst slot off else u
      s.does (.registerWrite mst slot off v) (w.mirrorReg s.m mst slot off e v).settled ∧
      s.m.onlyRegs t [key] ∧
      ∀ f ∈ d.flds, ∀ b, f.lo ≤ b → b < f.lo + f.width →
        (t.rd key).getLsbD b = (match f.acc with
          | .rw => if busy && f.cls == .held then old.getLsbD b else v.getLsbD b
          | .ro | .wo => old.getLsbD b
          | .w1c => old.getLsbD b && !v.getLsbD b
          | .w1cCount => if bitsOf v.toNat f.lo f.width = 2 ^ f.width - 1 then false else old.getLsbD b
          | .w1s => old.getLsbD b || v.getLsbD b)) ∧
  (∀ (m was : Mach) (mst slot off e : Nat) (v : Word) (aux : List (List Byte)),
    let head := 0x80 ≤ slot ∧ slot < 0x94
    (slot = 0x00 ∧ off ≠ 0x100 ∧ off ≠ 0x110) ∨ (slot = 0x01 ∧ off ≠ 0) ∨
        (slot = 0x02 ∧ off ≠ 8 ∧ off < 0x1000) ∨ (slot = 0x03 ∧ off ≠ 8) ∨
        (slot = 0x04 ∧ (off < 0x100 ∨ 0x500 ≤ off)) ∨ (slot = 0x05 ∧ off ≠ 4) ∨
        (slot = 0x06 ∧ off ≠ 0x20 ∧ off ≠ 0x50 ∧ off ≠ 0x60) ∨ (slot = 0x0A ∧ off ≠ 0x44) ∨
        (slot = 0x0B ∧ off ≠ 0x50) ∨ slot = 0x0E ∨ (slot = 0x0F ∧ off ≠ 4) ∨ (0x10 ≤ slot ∧ slot < 0x14) ∨
        (slot = 0x0D ∧ off ≠ 0 ∧ off ≠ 0x08 ∧ off ≠ 0x0C ∧ off ≠ 0x30 ∧ off ≠ 0x44 ∧ off < 0x100) ∨
        (slot = 0x14 ∧ off ≠ 0x258 ∧ off ≠ 0x1000) ∨ (slot = 0x16 ∧ off ≠ 0 ∧ off ≠ 0x50 ∧ off ≠ 0x80) ∨
        (slot = 0x17 ∧ off ≠ 0x40) ∨ (slot = 0x18 ∧ off ≠ 0x40 ∧ off < 0x400) ∨
        (slot = 0x19 ∧ off ≠ 0x10) ∨ slot = 0x1A ∨
        (slot = 0x1B ∧ off ≠ 0x24 ∧ off ≠ 0x104 ∧ off ≠ 0x224) ∨ (slot = 0x1C ∧ off ≠ 0x104 ∧ off ≠ 0x138) ∨
        (slot = 0x1D ∧ off ≠ 0x10 ∧ (off < 0x1000 ∨ off % 64 ≠ 0)) ∨
        (0x20 ≤ slot ∧ slot < 0x60 ∧ off ≠ 0) ∨ (0x60 ≤ slot ∧ slot < 0x70) ∨
        (head ∧ off ≠ 0 ∧ off ≠ 0x10 ∧ off ≠ 0x200 ∧ off ≠ 0x208) ∨
        (0xA0 ≤ slot ∧ slot < 0xB8 ∧ off ≠ 0 ∧ off ≠ 0x2C) →
      m.wroteBlock was mst slot off e v aux = m) ∧
  (∀ (s : State) (mst : Nat) (v : Word),
    let is (slot off : Nat) (c : Instr) := exec (.registerWrite mst slot off v) s = exec c s
    let bit (b : Nat) := v.getLsbD b = true
    (bitsOf v.toNat 0 2 = 0 → is 0x00 0x100 (.pwrTargetRun mst v)) ∧
    (bitsOf v.toNat 0 2 = 1 → is 0x00 0x100 (.pwrTargetIdle mst v)) ∧
    (bit 0 → is 0x00 0x110 (.softReset mst v)) ∧ (bit 0 → is 0x01 0 (.bootLock mst v)) ∧
    (bit 31 → is 0x02 8 (.vaultInject mst v)) ∧ (∀ k < 256, is 0x02 (0x1000 + 4 * k) (.vaultWrite mst k v)) ∧
    is 0x03 8 (.evtDoorbellWrite mst v) ∧ (∀ c < 32, is 0x04 (0x100 + 0x20 * c) (.monCfgWrite mst c v)) ∧
    (∀ c < 32, bit 0 → is 0x04 (0x108 + 0x20 * c) (.monClear mst c v)) ∧
    (bit 31 → is 0x05 4 (.bootHostLoadGo mst v)) ∧ (bit 31 → is 0x06 0x20 (.dramFreqChangeRequest mst v)) ∧
    (bit 0 → is 0x06 0x50 (.dramFreezeRelease mst v)) ∧
    (bit 31 → ¬ bit 29 → is 0x06 0x60 (.diagRawRead mst v)) ∧
    (bit 31 → bit 29 → is 0x06 0x60 (.diagWrite mst v)) ∧ (bit 31 → is 0x0A 0x44 (.fsUnwrite mst v)) ∧
    (bit 31 → is 0x0B 0x50 (.eccInjArm mst v)) ∧ (bit 0 → is 0x0C 8 (.timeSnap mst v)) ∧
    (∀ d < 2, is 0x0C (0x118 + 0x40 * d) (.domainSample mst d v) ∧
      is 0x0C (0x100 + 0x40 * d) (if v.getLsbD 31 then .domainEnable mst d v else .domainDisable mst d v)) ∧
    is 0x0D 0 (if v.getLsbD 31 then .dpllEnable mst v else .dpllDisable mst v) ∧
    is 0x0D 0x44 (if s.m.is Fld.DPLL_PHASE_CTRL_MODE then .phaseSlew mst v else .phaseStep mst v) ∧
    (bit 0 → is 0x0F 4 (.chainEnumStart mst v)) ∧ is 0x14 0x258 (.hq5ProdWrite mst v []) ∧
    is 0x14 0x1000 (if v.getLsbD 31 then .sessionEnable mst v else .sessionDisable mst v) ∧
    is 0x14 0x1048 (.sessionMapWrite mst v) ∧
    is 0x15 0 (if v.getLsbD 31 then .pairEnable mst v else .pairDisable mst v) ∧
    (bit 0 → is 0x15 8 (.pairWdogKick mst v)) ∧ (bit 1 → is 0x15 8 (.pairHandover mst v)) ∧
    (bit 2 → is 0x15 8 (.pairClearFault mst v)) ∧ (bit 31 → is 0x16 0 (.touchEnable mst v)) ∧
    (bit 0 → is 0x16 0x80 (.touchRebase mst v)) ∧ (bit 1 → is 0x16 0x80 (.touchRebaseAll mst v)) ∧
    (bit 31 → is 0x16 0x50 (.touchTestGo mst v)) ∧ is 0x17 0x40 (.deflSubmit mst v) ∧
    is 0x18 0x40 (.checkSubmit mst v) ∧
    (∀ u < 8, is 0x18 (0x418 + 0x40 * u) (.checkDataWrite mst u v) ∧
      is 0x18 (0x41C + 0x40 * u) (.checkData8Write mst u v) ∧
      (bit 0 → is 0x18 (0x420 + 0x40 * u) (.checkLoadInit mst u v)) ∧
      (bit 1 → is 0x18 (0x420 + 0x40 * u) (.checkResync mst u v))) ∧
    is 0x19 0x10 (.freshCommit mst v) ∧ is 0x1D 0x10 (.layerpoolCommit mst v) ∧
    (∀ x < 384, is 0x1D (0x1000 + 0x40 * x) (.layerAssign mst x v)) ∧
    is 0x1B 0 (if v.getLsbD 0 then .fabricEnable mst v else .fabricDisable mst v) ∧
    is 0x1B 0x104 (if v.getLsbD 31 then .streamEnable mst v else .streamDisable mst v) ∧
    (bit 0 → is 0x1B 0x224 (.descFree mst v)) ∧ (bit 1 → is 0x1B 0x224 (.descKeepSet mst v)) ∧
    (bit 2 → is 0x1B 0x224 (.descKeepClr mst v)) ∧
    is 0x1C 0x104 (if v.getLsbD 31 then .encStreamEnable mst v else .encStreamDisable mst v) ∧
    (bit 0 → is 0x1C 0x138 (.encForceIdr mst v)) ∧
    (∀ c < 64, ¬ bit 0 → is (0x20 + c) 0 (.decCellDisable mst c v)) ∧
    (∀ c < 16, ¬ bit 0 → is (0x60 + c) 0 (.encCellDisable mst c v)) ∧
    (∀ h < 20, is (0x80 + h) 0 (if v.getLsbD 31 then .headEnable mst h v else .headDisable mst h v) ∧
      (bit 30 → is (0x80 + h) 0 (.headSlateForce mst h v)) ∧ (bit 0 → is (0x80 + h) 0x10 (.headCommit mst h v))) ∧
    (∀ h < 16, bit 31 → is (0x80 + h) 0x200 (.dpTrain mst h v)) ∧
    (∀ h, 16 ≤ h → h < 20 → is (0x80 + h) 0x200 (.dsiPanelReset mst h v)) ∧
    (∀ n < 24, is (0xA0 + n) 0x2C (.seqDbgDataWrite mst n v) ∧ (bit 3 → is (0xA0 + n) 0 (.seqStop mst n v)) ∧
      (¬ bit 3 → bit 0 → is (0xA0 + n) 0 (.seqStart mst n v)) ∧
      (¬ bit 3 → ¬ bit 0 → bit 1 → is (0xA0 + n) 0 (.seqResume mst n v)) ∧
      (¬ bit 3 → ¬ bit 0 → ¬ bit 1 → bit 2 → is (0xA0 + n) 0 (.seqStep mst n v))))

/-- ProtectionHolds. A register write that protection denies changes no register but what records the
violation, and one to a reserved offset, or to a register of a reserved event source, changes nothing; a
denied read returns 0x0BAD0BAD (R5, R406 to R408, R477). The first violation is captured whole and kept
until VALID is cleared; each counts, up to the counter's end, and raises EV_PROT_VIOLATION (R408). -/
def Obligations.ProtectionHolds : Prop :=
  (∀ (s : State) (mst slot off k : Nat) (v : Word), s.m.on = true → mstOk mst = true →
     slotOk slot = true → offOk off = true → slot ≠ 2 → s.m.hostWaits mst = false →
     (s.m.regDenied mst slot off true = some k →
       s.does (.registerWrite mst slot off v)
         (s.m.violate k slot mst (0x2000000000 + slot * 0x10000 + off)).resume) ∧
     (s.m.regDenied mst slot off true = none → s.m.standbyDrops mst slot off = false →
       findReg slot off = none →
       s.does (.registerWrite mst slot off v) s.m.resume) ∧
     (s.m.regDenied mst slot off true = none → deafReg slot off = true → off % 4 = 0 →
       s.does (.registerWrite mst slot off v) s.m.settled) ∧
     (s.m.regDenied mst slot off false = some k → off % 4 = 0 →
       s.does (.memoryAccess mst (0x2000000000 + slot * 0x10000 + off) 4 none [])
         ((s.m.violate k slot mst (0x2000000000 + slot * 0x10000 + off)).send
           (.data mst [0xAD, 0x0B, 0xAD, 0x0B])).resume)) ∧
  (∀ (m : Mach) (kind target mst addr : Nat), kind < 8 → target < 512 → mst < 256 → addr < 2 ^ 40 →
     ∃ t : Mach, m.violate kind target mst addr = t.raise 0xB0 ∧
       t.get Fld.PROT_VIOL_COUNT_COUNT =
         min (m.get Fld.PROT_VIOL_COUNT_COUNT + 1) (2 ^ Fld.PROT_VIOL_COUNT_COUNT.width - 1) ∧
       (m.is Fld.PROT_VIOL_INFO_VALID = true → m.onlyIn t [Fld.PROT_VIOL_COUNT_COUNT]) ∧
       (m.is Fld.PROT_VIOL_INFO_VALID = false → t.is Fld.PROT_VIOL_INFO_VALID = true ∧
         t.get Fld.PROT_VIOL_INFO_KIND = kind ∧ t.get Fld.PROT_VIOL_INFO_TARGET = target ∧
         t.get Fld.PROT_VIOL_INFO_MASTER = mst ∧
         t.get Fld.PROT_VIOL_ADDR_LO_ADDR_LO + t.get Fld.PROT_VIOL_ADDR_HI_ADDR_HI * 2 ^ 32 = addr ∧
         m.onlyRegs t [Reg.PROT_VIOL_INFO, Reg.PROT_VIOL_ADDR_LO, Reg.PROT_VIOL_ADDR_HI,
           Reg.PROT_VIOL_COUNT]))

/-- MemoryKeepsWhatIsWritten. A write within one word of DRAM that protection and leases admit, with DRAM
running and no error in the word, stores its bytes and leaves every other; the read that follows returns
them (R359, R406). A read within one word of DRAM under the same conditions sends the bytes that stand there
to the master and changes no byte (R359, R406). Two visible DRAM addresses share a channel, bank, row and
column only where they are one; the data rows and the check rows lie apart; the check byte of a byte lies in
its own bank, and eight bytes of one word share it while others have another (R357 to R359). -/
def Obligations.MemoryKeepsWhatIsWritten : Prop :=
  (∀ (s : State) (mst a : Nat) (data : List Byte), s.m.on = true → mstOk mst = true → s.memoryOk →
     0 < data.length → a % 8 + data.length ≤ 8 → a < 0x700000000 →
     accessOk a data.length (some data) = true →
     s.m.memDenied mst a true = none → s.m.leaseHit a data.length = none →
     s.m.freezing = false → s.m.dramHolds = false → s.m.flipMask (a / 8 * 8) = 0 →
     s.m.repair.inject = none → s.m.hostWaits mst = false → s.m.mirrorFull mst [(a, data.length)] = false →
     ∃ t : Mach, s.does (.memoryAccess mst a data.length (some data) []) (t.mirrorMem mst a data).resume ∧
       (∀ i (h : i < data.length), t.byte (a + i) = data[i]) ∧
       (∀ c, (c < a ∨ a + data.length ≤ c) → t.byte c = s.m.byte c) ∧
       t = { s.m with
         mem := t.mem, flips := t.flips, dram := { s.m.dram with lastUse := s.m.time.ticks } } ∧ t.flipMask (a / 8 * 8) = 0) ∧
  (∀ (s : State) (mst a len : Nat), s.m.on = true → mstOk mst = true →
     0 < len → a % 8 + len ≤ 8 → a < 0x700000000 → accessOk a len none = true →
     s.m.memDenied mst a false = none → s.m.freezing = false → s.m.dramHolds = false →
     s.m.flipMask (a / 8 * 8) = 0 → s.m.hostWaits mst = false →
     ∃ t : Mach, s.does (.memoryAccess mst a len none []) (t.send (.data mst (s.m.bytes a len))).resume ∧
       s.m.sameBytes t ∧ (∀ key, s.m.monChannels = [] → t.rd key = s.m.rd key)) ∧
  (∀ a b : Nat, a < 0x700000000 → b < 0x700000000 →
     let bank := dramChannel a = dramChannel b ∧ dramBank a = dramBank b
     (bank → dramRow a = dramRow b → dramColumn a = dramColumn b → a = b) ∧
     dramRow a < 57344 ∧ 57344 ≤ checkRow a ∧ checkRow a < 64512 ∧ checkColumn a < 2048 ∧
     (bank → (checkRow a = checkRow b ∧ checkColumn a = checkColumn b ↔ a / 8 = b / 8)))

/-! ### The PCI Express port and the chain (spec/03) -/

/-- PcieLinkActs. With its UP port down, a module whose PCI Express link comes up becomes the head, and
enumerates the first time; with it up it reports ROLE_CONFLICT. Link down ends the role and D3hot; PERST_N
also resets the block's registers and table. D3hot is entered with the link up, and leaving it, or a link
that comes up, delivers what is pending: the message of each vector whose pending bit is set and that is not
masked (R53, R59, R60, R79, R80, R481). -/
def Obligations.PcieLinkActs : Prop :=
  ∀ s : State, s.m.on = true →
    let linked := { s.m with pcie := { s.m.pcie with linkUp := true } }
    let down := { s.m with pcie := { s.m.pcie with linkUp := false, d3hot := false } }
    (s.m.portUp true = true → ∃ t : Mach, s.does .pcieLinkUp t.deliverAll ∧ t.isHead = false ∧
      t.get Fld.CHAIN_STATUS_ROLE_CONFLICT = 1 ∧
      linked.onlyIn t [Fld.CHAIN_STATUS_HEAD, Fld.CHAIN_STATUS_ROLE_CONFLICT]) ∧
    (s.m.portUp true = false → s.m.chain.wasHead = true → ∃ t : Mach, s.does .pcieLinkUp t.deliverAll ∧
      t.isHead = true ∧ linked.onlyIn t [Fld.CHAIN_STATUS_HEAD]) ∧
    (s.m.portUp true = false → s.m.chain.wasHead = false → ∃ t : Mach,
      s.does .pcieLinkUp t.enumStart.deliverAll ∧ t.isHead = true ∧
      { linked with chain := { s.m.chain with wasHead := true } }.onlyIn t [Fld.CHAIN_STATUS_HEAD]) ∧
    (∃ t : Mach, s.does (.pcieLinkDown false) t ∧ t.isHead = false ∧
      down.onlyIn t [Fld.CHAIN_STATUS_HEAD]) ∧
    (∃ t : Mach, s.does (.pcieLinkDown true) t ∧ t.isHead = false ∧ t.pcie.vecs = [] ∧
      (∀ off < 0x10000, t.rd (regKey 0 0x0E off) = resetOf (regKey 0 0x0E off))) ∧
    (s.m.pcie.linkUp = true →
      s.does .pcieD3hot { s.m with pcie := { s.m.pcie with d3hot := true } }) ∧
    s.does .pcieD3hotExit { s.m with pcie := { s.m.pcie with d3hot := false } }.deliverAll ∧
    (∀ m : Mach, m.deliverAll = (List.range 64).foldl (fun m v =>
      if (m.vec v).pendingBit && !(m.vec v).masked && m.pcie.linkUp && !m.pcie.d3hot then
        (m.setVec v { m.vec v with pendingBit := false }).send (.msix v) else m) m)

/-- HostAccessesComplete. With the link up, in D0, at the head: BAR0's first 16 MiB is the own register
window, the others request the module of the window; BAR2 goes where its aperture points, and with the
aperture's EN = 0 reads zeros, drops a write and counts AP_OFF; windows beyond the enumerated modules read
all ones and count ABSENT; a module that is no head refuses with ROLE_CONFLICT; a read of the MSI-X table
returns its word, a write changes it, and one that clears a vector's mask sends the message that is pending;
the pending bits are read-only. An access waits behind one of the host that waits (R58, R61 to R66, R73,
R79, R481). A request at its target is performed with master CHAIN, before it is passed down; a completion
ends the outstanding read at the head and goes up at a member; a read without one for 120 µs returns all
ones and counts TIMEOUT (R72 to R74). -/
def Obligations.HostAccessesComplete : Prop :=
  (∀ (s : State) (off len : Nat) (data : Option (List Byte)) (w : Word), s.m.on = true →
     s.m.pcie.linkUp = true → s.m.pcie.d3hot = false →
     (s.m.isHead = true → barOk 0x40000000 off len data = true → off < 0x1000000 →
       s.does (.bar0Access off len data) (s.m.busAccess 0x01 (0x2000000000 + off) len data .host).resume) ∧
     (s.m.isHead = true → barOk 0x40000000 off len data = true → 0x1000000 ≤ off →
       s.does (.bar0Access off len data) (s.m.remoteRequest (off / 0x1000000)
         (0x2000000000 + off % 0x1000000) len false data).resume) ∧
     (s.m.isHead = true → barOk 0x40000000 off len none = true → s.m.chain.routed ≤ off / 0x1000000 →
       0x1000000 ≤ off → ∃ t : Mach,
         s.does (.bar0Access off len none) (t.send (.hostRead (List.replicate len 0xFF))).resume ∧
         t.get Fld.CHAIN_HOST_ERR_ABSENT = min (s.m.get Fld.CHAIN_HOST_ERR_ABSENT + 1)
           (2 ^ Fld.CHAIN_HOST_ERR_ABSENT.width - 1) ∧
         s.m.onlyIn t [Fld.CHAIN_HOST_ERR_ABSENT]) ∧
     (s.m.isHead = false → barOk 0x40000000 off len data = true → ∃ t : Mach,
       s.does (.bar0Access off len data) t.resume ∧ t.get Fld.CHAIN_STATUS_ROLE_CONFLICT = 1 ∧
       (s.m.send .unsupported).onlyIn t [Fld.CHAIN_STATUS_ROLE_CONFLICT]) ∧
     (s.m.isHead = true → barOk 0x100000000 off len data = true →
       let n := off / 0x40000000 % 4
       let addr := s.m.get (Fld.PCIE_AP_BASE n) * 0x100000 + off % 0x40000000
       s.m.is (Fld.PCIE_AP_EN n) = true →
       s.does (.bar2Access off len data)
         (if s.m.get (Fld.PCIE_AP_MODULE n) = 0 then s.m.apertureAccess 0x01 addr len data .host
          else s.m.remoteRequest (s.m.get (Fld.PCIE_AP_MODULE n)) addr len true data).resume) ∧
     (s.m.isHead = true → barOk 0x100000000 off len data = true →
       s.m.is (Fld.PCIE_AP_EN (off / 0x40000000 % 4)) = false → ∃ t : Mach,
       s.does (.bar2Access off len data)
         (if data.isSome then t else t.send (.hostRead (List.replicate len 0))).resume ∧
       t.get Fld.CHAIN_HOST_ERR_AP_OFF = min (s.m.get Fld.CHAIN_HOST_ERR_AP_OFF + 1)
         (2 ^ Fld.CHAIN_HOST_ERR_AP_OFF.width - 1) ∧
       s.m.onlyIn t [Fld.CHAIN_HOST_ERR_AP_OFF]) ∧
     (s.m.isHead = false → off < 0x4000 → off % 4 = 0 → ∀ x : Option Word, ∃ t : Mach,
       s.does (.msixTableAccess off x) t ∧ t.get Fld.CHAIN_STATUS_ROLE_CONFLICT = 1 ∧
       (s.m.send .unsupported).onlyIn t [Fld.CHAIN_STATUS_ROLE_CONFLICT]) ∧
     (s.m.isHead = true → off < 0x4000 → off % 4 = 0 → s.m.hostWaits 0x01 = true → ∀ x : Option Word,
       ∃ h : HeldAccess, h.mst = 0x01 ∧ s.does (.msixTableAccess off x)
         { s.m with nextAccess := s.m.nextAccess + 1
                    dram := { s.m.dram with held := s.m.dram.held ++ [h] } }) ∧
     (s.m.isHead = true → off < 0x4000 → off % 4 = 0 → s.m.hostWaits 0x01 = false →
       let i := off / 16
       let vec := s.m.vec i
       s.does (.msixTableAccess off none) (s.m.send (.hostRead (wordLE (s.m.msixWord off)))) ∧
       (0x400 ≤ off → s.does (.msixTableAccess off (some w)) s.m) ∧
       (off < 0x400 → off % 16 < 12 →
         ∃ t : Mach, s.does (.msixTableAccess off (some w)) t ∧ t.msixWord off = w ∧
           (∀ o < 0x400, o / 4 ≠ off / 4 → t.msixWord o = s.m.msixWord o) ∧
           t = { s.m with pcie := { s.m.pcie with vecs := t.pcie.vecs } }) ∧
       (off < 0x400 → off % 16 = 12 →
         let t := s.m.setVec i { vec with masked := w.getLsbD 0 }
         (w.getLsbD 0 = true ∨ vec.pendingBit = false → s.does (.msixTableAccess off (some w)) t) ∧
         (w.getLsbD 0 = false → vec.pendingBit = true → s.does (.msixTableAccess off (some w))
           ((t.setVec i { vec with masked := false, pendingBit := false }).send (.msix i)))))) ∧
  (∀ (s : State) (tag target addr len : Nat) (bar2 : Bool) (data : Option (List Byte))
     (bytes : List Byte) (r : RemoteRead), s.m.on = true →
     let here := s.m.is Fld.CHAIN_STATUS_ADDR_VALID = true ∧ s.m.get Fld.CHAIN_STATUS_ADDR = target
     (chainOk target = true → remoteOk len data = true → here → bar2 = false →
       s.does (.remoteRequestReceive tag target addr len bar2 data)
         (s.m.busAccess 0x02 addr len data (.chain tag)).resume) ∧
     (chainOk target = true → remoteOk len data = true → here → bar2 = true →
       s.does (.remoteRequestReceive tag target addr len bar2 data)
         (s.m.apertureAccess 0x02 addr len data (.chain tag)).resume) ∧
     (chainOk target = true → remoteOk len data = true → ¬ here → s.m.portUp false = true →
       s.does (.remoteRequestReceive tag target addr len bar2 data)
         (s.m.sendChain false (.request tag target addr len bar2 data)).resume) ∧
     (s.m.isHead = true → s.m.chain.reads = [r] → r.tag = tag → s.m.monChannels = [] →
       s.does (.remoteCompletion tag bytes)
         ({ s.m with chain := { s.m.chain with reads := [] } }.send (.hostRead bytes))) ∧
     (s.m.isHead = true → s.m.chain.reads = [] → s.does (.remoteCompletion tag bytes) s.m) ∧
     (s.m.isHead = false → s.does (.remoteCompletion tag bytes)
       (s.m.sendChain true (.completion tag bytes))) ∧
     (s.m.chain.reads = [r] → r.tag = tag → s.m.monChannels = [] → ∃ t : Mach, s.does (.remoteReadTimeout tag) t ∧
       t.get Fld.CHAIN_HOST_ERR_TIMEOUT = min (s.m.get Fld.CHAIN_HOST_ERR_TIMEOUT + 1)
         (2 ^ Fld.CHAIN_HOST_ERR_TIMEOUT.width - 1) ∧
       ({ s.m with chain := { s.m.chain with reads := [] } }.send
         (.hostRead (List.replicate r.len 0xFF))).onlyIn t [Fld.CHAIN_HOST_ERR_TIMEOUT]))

/-- FlitsAndPorts. A flit with its CRC in sequence, or of class TIME, is acknowledged, one without is
refused; the port then waits for no number that has passed; a refusal from the neighbour sends the flits
from there again; a port that comes up or goes down starts afresh and is a link change, which the head
answers with an enumeration and a member reports up with its chain address; a member without one reports
nothing, as the model reads the rule (log entry 14). A module whose UP port goes down has no valid address.
The message that a port sends next is of the first class of TIME, EVENT, REG and RELAY with one ready, and
the oldest of it (R69 to R71, R80, R81). Host-queue traffic from below is written to host memory at the head
with its link up, goes up at a member, and is dropped and counted by a root without a link, or in D3hot; the
packet that a port has held without credit is dropped and counted against its queue (R60, R77). -/
def Obligations.FlitsAndPorts : Prop :=
  (∀ (s : State) (seq p : Nat) (bytes : List Byte) (crc : Word) (up : Bool) (msg : ChainMsg) (q : ApPort),
     s.m.on = true →
     let addr := s.m.get Fld.CHAIN_STATUS_ADDR
     let valid := s.m.is Fld.CHAIN_STATUS_ADDR_VALID
     let fresh := { s.m with chain := { s.m.chain with down := ApPort.reset } }
     (s.m.portUp false = true → crc32c bytes = crc → s.m.portUp true = true →
       seq = s.m.chain.down.rxNext → s.m.chain.down.passed = [] →
       s.does (.flitReceive false (.flit seq false bytes crc))
         ({ s.m with chain := { s.m.chain with
             down := { s.m.chain.down with rxNext := seq + 1 } } }.send (.chainDownAck seq))) ∧
     (s.m.portUp true = true → crc32c bytes = crc →
       s.does (.flitReceive true (.flit seq true bytes crc))
         ((s.m.flitTaken true seq).send (.chainUpAck seq))) ∧
     ((∃ f : ApPort → ApPort, s.m.flitTaken up seq = s.m.updPort up f) ∧
       let was := s.m.apPort up
       let now := (s.m.flitTaken up seq).apPort up
       was.rxNext ≤ now.rxNext ∧ (∀ n, was.rxNext ≤ n → n < now.rxNext → n = seq ∨ n ∈ was.passed) ∧
       (seq = was.rxNext → seq < now.rxNext)) ∧
     (s.m.portUp true = true → crc32c bytes ≠ crc → s.m.chain.up.refusals = [] →
       s.does (.flitReceive true (.flit seq false bytes crc))
         ({ s.m with chain := { s.m.chain with
             up := { s.m.chain.up with refusals := [s.m.time.ticks] } } }.send
               (.chainUpRefuse s.m.chain.up.rxNext))) ∧
     (∀ e : Nat × ChainMsg, s.m.chain.down.replay = [e] → seq ≤ e.1 →
       s.does (.flitReceive false (.refusal seq)) (s.m.send (.chainDown e.2))) ∧
     ((s.m.apPort up).next = some (msg, q) → (∀ c ∈ (s.m.apPort up).ready, msg.cls ≤ c.cls) ∧
       ((∃ c ∈ (s.m.apPort up).ready, c.cls < 3) → (s.m.apPort up).ready.find? (·.cls == msg.cls) = some msg)) ∧
     (s.m.portUp true = false → ∃ t : Mach,
       s.does (.apbudLinkUp true) (t.raise 0xE7).takeRole ∧ t.portUp true = true ∧
       { s.m with chain := { s.m.chain with up := ApPort.reset } }.onlyIn t [Fld.CHAIN_STATUS_UP_UP]) ∧
     (s.m.portUp true = true → ∃ t : Mach,
       s.does (.apbudLinkDown true) ((t.raise 0xE7).takeRole.setValid 9 false) ∧ t.portUp true = false ∧
       t.get Fld.CHAIN_STATUS_ADDR_VALID = 0 ∧
       { s.m with chain := { s.m.chain with up := ApPort.reset, enumPass := false } }.onlyIn t
         [Fld.CHAIN_STATUS_UP_UP, Fld.CHAIN_STATUS_ADDR_VALID]) ∧
     (∀ c : Instr, (s.m.portUp false = true ∧ c = .apbudLinkDown false) ∨
         (s.m.portUp false = false ∧ c = .apbudLinkUp false) → ∃ t : Mach,
       t.portUp false = !s.m.portUp false ∧ fresh.onlyIn t [Fld.CHAIN_STATUS_DOWN_UP] ∧
       (s.m.isHead = true → s.does c ((t.raise 0xE7).linkChangeAt 0)) ∧
       (s.m.isHead = false → valid = true → s.does c ((t.raise 0xE7).sendChain true (.report addr))) ∧
       (s.m.isHead = false → valid = false → s.does c (t.raise 0xE7))) ∧
     (chainOk p = true → s.m.isHead = false →
       s.does (.linkChangeReport p) (s.m.sendChain true (.report p))) ∧
     (chainOk p = true → s.m.isHead = true → s.m.chain.reads = [] →
       s.does (.linkChangeReport p)
         { s.m with chain := { s.m.chain with routed := min s.m.chain.routed (p + 1) } }.enumStart)) ∧
  (∀ (s : State) (hq addr : Nat) (bytes : List Byte) (up : Bool) (msg : ChainMsg) (r : List RelayItem),
     s.m.on = true → hqOk hq = true →
     (s.m.pcie.linkUp = true → s.m.pcie.d3hot = false → s.m.isHead = true →
       s.does (.relayFlitReceive hq addr bytes) (s.m.send (.hostWrite addr bytes))) ∧
     (s.m.pcie.linkUp = false → s.m.chainRoot = false → s.m.is Fld.CHAIN_STATUS_ADDR_VALID = true →
       s.m.portUp true = true →
       s.does (.relayFlitReceive hq addr bytes)
         (s.m.sendRelay true ⟨true, hq, .hostWrite addr bytes⟩)) ∧
     (s.m.pcie.linkUp = false ∨ s.m.pcie.d3hot = true → s.m.chainRoot = true → ∃ t : Mach,
       s.does (.relayFlitReceive hq addr bytes) t ∧ t.get (Fld.INGEST_HQ_DROP_COUNT hq) =
         min (s.m.get (Fld.INGEST_HQ_DROP_COUNT hq) + 1)
           (2 ^ (Fld.INGEST_HQ_DROP_COUNT hq).width - 1) ∧
       s.m.onlyIn t [Fld.INGEST_HQ_DROP_COUNT hq]) ∧
     ((s.m.apPort up).credit = true → s.does (.relayCreditTimeout up) s.m) ∧
     ((s.m.apPort up).credit = false → (s.m.apPort up).relayHeld = ⟨true, hq, msg⟩ :: r → ∃ t : Mach,
       s.does (.relayCreditTimeout up) t ∧ (t.apPort up).relayHeld = r ∧
       t.get (Fld.INGEST_HQ_DROP_COUNT hq) =
         min (s.m.get (Fld.INGEST_HQ_DROP_COUNT hq) + 1)
           (2 ^ (Fld.INGEST_HQ_DROP_COUNT hq).width - 1) ∧
       (s.m.updPort up fun p => { p with relayHeld := r }).onlyIn t [Fld.INGEST_HQ_DROP_COUNT hq]))

/-- EnumerationRuns. START at the head takes address 0 and a new generation, and sends the token, or
finishes at once alone with COUNT 1; at a member, or while an enumeration runs, it does nothing; a member
takes its address from the token and passes it on, or returns END from the last place; END at the head gives
COUNT and OVERFLOW, ends BUSY and raises EV_CHAIN_ENUM_DONE; a forwarded event raises its vector at the root
and goes up elsewhere (R78, R80). -/
def Obligations.EnumerationRuns : Prop :=
  ∀ (s : State) (mst value gen count origin : Nat) (ovf : Bool) (v : Word), s.m.on = true →
    (s.reaches mst 0x0F 4 → v.getLsbD 0 = true → s.m.isHead = true →
      s.m.is Fld.CHAIN_STATUS_ENUM_BUSY = false → s.m.portUp false = true →
      ∃ t : Mach, s.does (.chainEnumStart mst v) (t.sendChain false
          (.token 1 (t.get Fld.CHAIN_STATUS_GEN))).settled ∧
        t.get Fld.CHAIN_STATUS_GEN =
          (s.m.get Fld.CHAIN_STATUS_GEN + 1) % 2 ^ Fld.CHAIN_STATUS_GEN.width ∧
        t.get Fld.CHAIN_STATUS_ADDR = 0 ∧ t.get Fld.CHAIN_STATUS_ADDR_VALID = 1 ∧
        t.get Fld.CHAIN_STATUS_ENUM_BUSY = 1 ∧
        s.m.onlyRegs t [Reg.CHAIN_STATUS, Reg.CHAIN_ENUM_CTRL]) ∧
    (s.reaches mst 0x0F 4 → v.getLsbD 0 = true → s.m.isHead = true →
      s.m.is Fld.CHAIN_STATUS_ENUM_BUSY = false → s.m.portUp false = false →
      ∃ t : Mach, s.does (.chainEnumStart mst v) (t.raise 0xE6).settled ∧
        t.get Fld.CHAIN_STATUS_GEN =
          (s.m.get Fld.CHAIN_STATUS_GEN + 1) % 2 ^ Fld.CHAIN_STATUS_GEN.width ∧
        t.get Fld.CHAIN_STATUS_ADDR = 0 ∧ t.get Fld.CHAIN_STATUS_ADDR_VALID = 1 ∧
        t.get Fld.CHAIN_STATUS_ENUM_BUSY = 0 ∧ t.get Fld.CHAIN_STATUS_COUNT = 1 ∧
        t.get Fld.CHAIN_STATUS_OVERFLOW = 0 ∧ t.chain = { s.m.chain with routed := 1 } ∧
        { s.m with chain := t.chain }.onlyRegs t [Reg.CHAIN_STATUS, Reg.CHAIN_ENUM_CTRL]) ∧
    (s.reaches mst 0x0F 4 → v.getLsbD 0 = true →
      s.m.isHead = false ∨ s.m.is Fld.CHAIN_STATUS_ENUM_BUSY = true →
      ∃ t : Mach, s.does (.chainEnumStart mst v) t.settled ∧ s.m.onlyRegs t [Reg.CHAIN_ENUM_CTRL]) ∧
    (value ≤ 63 → gen < 256 → s.m.isHead = false → s.m.portUp true = true → ∃ t : Mach,
      s.does (.tokenReceive value gen) (if s.m.portUp false = true
        then t.sendChain false (.token (value + 1) gen)
        else t.sendChain true (.endOf (value + 1) false)) ∧
      t.get Fld.CHAIN_STATUS_ADDR = value ∧ t.get Fld.CHAIN_STATUS_ADDR_VALID = 1 ∧
      t.get Fld.CHAIN_STATUS_GEN = gen ∧
      { s.m with chain := { s.m.chain with enumPass := s.m.portUp false } }.onlyRegs t [Reg.CHAIN_STATUS]) ∧
    (gen < 256 → s.m.isHead = false → s.m.portUp true = true → ∃ t : Mach,
      s.does (.tokenReceive 64 gen) (t.sendChain true (.endOf 64 true)) ∧
      t.get Fld.CHAIN_STATUS_ADDR_VALID = 0 ∧ t.get Fld.CHAIN_STATUS_OVERFLOW = 1 ∧
      s.m.onlyRegs t [Reg.CHAIN_STATUS]) ∧
    (0 < count → count ≤ 64 → s.m.isHead = true → ∃ t : Mach,
      s.does (.endReceive count ovf) (t.raise 0xE6) ∧ t.get Fld.CHAIN_STATUS_COUNT = count ∧
      t.is Fld.CHAIN_STATUS_OVERFLOW = ovf ∧ t.get Fld.CHAIN_STATUS_ENUM_BUSY = 0 ∧
      t.chain = { s.m.chain with routed := count } ∧
      { s.m with chain := t.chain }.onlyRegs t [Reg.CHAIN_STATUS]) ∧
    (0 < count → count ≤ 64 → s.m.isHead = false → s.does (.endReceive count ovf)
      ({ s.m with chain := { s.m.chain with enumPass := false } }.sendChain true (.endOf count ovf))) ∧
    (s.m.isHead = true ∨ s.m.portUp true = false → value ≤ 64 → gen < 256 →
      s.does (.tokenReceive value gen) s.m) ∧
    (chainOk origin = true → s.m.chainRoot = true →
      s.does (.eventForward origin) (s.m.raiseVector origin).1) ∧
    (chainOk origin = true → s.m.chainRoot = false → s.m.is Fld.CHAIN_STATUS_ADDR_VALID = true →
      s.does (.eventForward origin) (s.m.sendChain true (.event origin))) ∧
    (chainOk origin = true → s.m.chainRoot = false → s.m.is Fld.CHAIN_STATUS_ADDR_VALID = false →
      ∃ t : Mach, s.does (.eventForward origin) t ∧ t.get Fld.CHAIN_HOST_ERR_EVT_DROP =
        min (s.m.get Fld.CHAIN_HOST_ERR_EVT_DROP + 1) (2 ^ Fld.CHAIN_HOST_ERR_EVT_DROP.width - 1) ∧
        s.m.onlyIn t [Fld.CHAIN_HOST_ERR_EVT_DROP])

/-! ### Ethernet ingest (spec/05) -/

/-- FramesAreSorted. A frame of an enabled port with its FCS goes to the session or the host queue that R145
gives it, with its receive stamp, where the session was not disabled after that stamp; a frame that is too
short, too long, in error or of no receiver is dropped and counted against its port (R140, R143 to R145,
R149). -/
def Obligations.FramesAreSorted : Prop :=
  ∀ (s : State) (port detected q x : Nat) (bytes udp : List Byte) (env : RxEnv),
    let n := bytes.length
    let body := bytes.take (n - 4)
    let whole := 64 ≤ n ∧ n ≤ 9216 ∧ leNat (bytes.drop (n - 4)) = (fcs body).toNat ∧
      be body 12 2 ≠ 0x8808
    let stamp := s.m.rxStamp port detected
    let counts (f : Fld) := ∃ t : Mach, s.does (.ethFrameReceive port detected bytes env) t.settled ∧
      t.get f = min (s.m.get f + 1) (2 ^ f.width - 1) ∧ s.m.onlyIn t [f]
    s.m.on = true → port < 4 → envOk env = true → s.m.is (Fld.ETH_CTRL_EN port) = true →
    (whole → s.m.classify port stamp (ethFrame body) = .session x udp → s.m.sessGone x stamp = false →
      s.does (.ethFrameReceive port detected bytes env)
        (s.m.sessionPacket x stamp udp env).settled) ∧
    (whole → s.m.classify port stamp (ethFrame body) = .session x udp → s.m.sessGone x stamp = true →
      s.does (.ethFrameReceive port detected bytes env) s.m.settled) ∧
    (whole → s.m.classify port stamp (ethFrame body) = .hostQueue q x →
      s.does (.ethFrameReceive port detected bytes env)
        (s.m.hqReceive q port x stamp (ethFrame body).vid.isSome body).settled) ∧
    (whole → s.m.classify port stamp (ethFrame body) = .unmatched → counts (Fld.ETH_RX_DROP_UNMATCHED port)) ∧
    (n < 64 → counts (Fld.ETH_RX_DROP_MALFORMED port)) ∧
    (9216 < n → counts (Fld.ETH_RX_DROP_LONG port)) ∧
    (64 ≤ n → n ≤ 9216 → leNat (bytes.drop (n - 4)) ≠ (fcs body).toNat →
      counts (Fld.ETH_RX_DROP_FCS port))

/-- UnitsAreReleased. A packet relayed to this module goes to its session where that is a RELAY session,
else it is passed on; LOSS_WAIT closes a session's open units; at its time the front unit is released, or
discarded and counted when no packet of it is stored; during a freeze neither happens (R152, R153, R167,
R168, R376). -/
def Obligations.UnitsAreReleased : Prop :=
  ∀ (s : State) (up : Bool) (target x stamp created : Nat) (udp : List Byte) (env : RxEnv)
    (f : PicFacts) (u : IngUnit) (r : List IngUnit), s.m.on = true → sessOk x = true →
    (chainOk target = true → envOk env = true → s.m.is Fld.CHAIN_STATUS_ADDR_VALID = true →
      s.m.get Fld.CHAIN_STATUS_ADDR = target → s.m.enumerating = false →
      s.m.sessEn x = true → s.m.is (Fld.INGEST_SESS_CTRL_KIND x) = true → s.m.sessGone x stamp = false →
      s.does (.relayPacketReceive up target x stamp udp env)
        (s.m.sessionPacket x stamp udp env).settled) ∧
    (chainOk target = true → envOk env = true → s.m.get Fld.CHAIN_STATUS_ADDR ≠ target → s.m.portUp (!up) = true →
      s.does (.relayPacketReceive up target x stamp udp env)
        (s.m.sendRelay (!up) ⟨false, x, .relay target x stamp udp⟩).settled) ∧
    (s.m.frozen = true → s.does (.unitLossWaitExpiry x created) s.m.settled ∧
      s.does (.unitRelease x f created) s.m.settled) ∧
    (s.m.frozen = false → s.m.is (Fld.INGEST_SESS_CTRL_CHASE x) = false →
      s.does (.unitLossWaitExpiry x created)
        (s.m.updSess x fun q => { q with units := q.units.map fun w =>
          if w.closedAt.isSome then w else { w with closedAt := some s.m.nowNs } }).settled) ∧
    (s.m.frozen = false → (s.m.sess x).units = u :: r → u.closedAt.isSome = true →
      s.m.is (Fld.INGEST_SESS_CTRL_CHASE x) = false →
      s.does (.unitRelease x f created) (s.m.releaseFront x f created).settled) ∧
    (s.m.frozen = false → (s.m.sess x).units = u :: r → u.closedAt.isSome = true →
      s.m.is (Fld.INGEST_SESS_CTRL_CHASE x) = false → u.packets = [] → u.slices = [] → ∃ t : Mach,
      s.does (.unitRelease x f created) ((t.dropUnit x u).decLost x).settled ∧
      t.get (Fld.INGEST_SESS_CNT_COUNT x 5) =
        min (s.m.get (Fld.INGEST_SESS_CNT_COUNT x 5) + 1) (2 ^ 32 - 1) ∧
      s.m.onlyIn t [Fld.INGEST_SESS_CNT_COUNT x 5])

/-- PortsAndQueuesReport. A port's link and module signals show in its STATUS, a change of LINK raises its
event, and SyncE of a port without its link is no valid DPLL input; HQ5's producer pointer gives the module
the entries filled, and a sent one comes back with its flags (R142, R165, R343). -/
def Obligations.PortsAndQueuesReport : Prop :=
  ∀ (s : State) (mst p emission i : Nat) (link lock a b c : Bool) (v : Word)
    (entries : List (List Byte)) (e read : List Byte) (held : Option (List Byte)) (r : List (Nat × Option (List Byte))), s.m.on = true →
    (p < 4 → s.m.is (Fld.ETH_STATUS_LINK p) = false → ∃ t : Mach,
      s.does (.ethLinkChange p true true) (t.raise (0xE0 + p)) ∧ t.get (Fld.ETH_STATUS_LINK p) = 1 ∧
      t.get (Fld.ETH_STATUS_BLOCK_LOCK p) = 1 ∧
      s.m.onlyIn t [Fld.ETH_STATUS_LINK p, Fld.ETH_STATUS_BLOCK_LOCK p]) ∧
    (p < 4 → (link && lock) = false → s.m.is (Fld.ETH_STATUS_LINK p) = link → ∃ t : Mach,
      s.does (.ethLinkChange p link lock) (t.setValid (5 + p) false) ∧
      t.is (Fld.ETH_STATUS_LINK p) = link ∧ t.is (Fld.ETH_STATUS_BLOCK_LOCK p) = lock ∧
      s.m.onlyIn t [Fld.ETH_STATUS_LINK p, Fld.ETH_STATUS_BLOCK_LOCK p]) ∧
    (p < 4 → ∃ t : Mach, s.does (.ethSidebandChange p a b c) t ∧
      t.is (Fld.ETH_STATUS_MODABS p) = a ∧ t.is (Fld.ETH_STATUS_LOS p) = b ∧
      t.is (Fld.ETH_STATUS_TXFLT p) = c ∧
      s.m.onlyIn t [Fld.ETH_STATUS_MODABS p, Fld.ETH_STATUS_LOS p, Fld.ETH_STATUS_TXFLT p]) ∧
    (s.reaches mst 0x14 0x258 → s.m.is (Fld.INGEST_HQ_BASE_LO_EN 5) = true →
      (∀ e ∈ entries, 32 ≤ e.length ∧ e.length ≤ 2048) →
      bitsOf v.toNat 16 16 = (s.m.get Fld.INGEST_HQ5_PTR_PROD + 1) % s.m.hqEntries 5 → ∃ t : Mach,
      s.does (.hq5ProdWrite mst v entries) t.settled ∧
      t.get Fld.INGEST_HQ5_PTR_PROD = bitsOf v.toNat 16 16 ∧
      t.ingest = { s.m.ingest with tx := s.m.ingest.tx ++
        [(s.m.get Fld.INGEST_HQ5_PTR_PROD % s.m.hqEntries 5, entries[0]?)] } ∧
      { s.m with ingest := t.ingest }.onlyRegs t [Reg.INGEST_HQ5_PTR]) ∧
    (s.m.ingest.tx = (i, held) :: r → s.m.hostReaches = true → e = held.getD read →
      32 ≤ read.length → read.length ≤ 2048 → byteAt e 2 < 4 → 14 ≤ leNat (e.take 2) → leNat (e.take 2) ≤ 2016 →
      byteAt e 5 % 2 = 0 → ∃ t : Mach,
      s.does (.hostqTransmitDone ⟨emission, read⟩)
        ((t.send (.eth (byteAt e 2) (framed ((e.drop 32).take (leNat (e.take 2)))))).hostWrite 5
          (s.m.hqAddr 5 i + 5) [BitVec.ofNat 8 (byteAt e 5 ||| 0x80)]).1 ∧
      t.ingest = { s.m.ingest with tx := r } ∧
      t.get Fld.INGEST_HQ5_PTR_CONS = (i + 1) % s.m.hqEntries 5 ∧
      { s.m with ingest := t.ingest }.onlyIn t [Fld.INGEST_HQ5_PTR_CONS])

/-- SessionsComeAndGo. EN = 1 starts a session with an empty window where its key is free and it has
drained, is refused with KEY_CONFLICT where the key is taken, and ends it when cleared; the session is
DRAINED once no decode job reads its buffer; ACTIVE ends with its time-out; MAP_NS takes the mapping pair
unless its ns are out of range (R146, R148, R149, R158). -/
def Obligations.SessionsComeAndGo : Prop :=
  ∀ (s : State) (mst : Nat) (v : Word), s.m.on = true →
    let x := s.m.get (Fld.INGEST_SESS_INDEX_INDEX mst)
    let w := s.m.wr (Reg.INGEST_SESS_CTRL x) v
    let taken := (w.sessOn.any fun y => y != x && w.sameKey x y) ||
      w.encOn.any fun e => w.get (Fld.ENCSCHED_STREAM_CTRL_SESSION e) == x
    let fresh (t : Mach) := t.sess x = { Session.reset with
      maps := (s.m.sess x).maps, released := (s.m.sess x).released, cleared := (t.sess x).cleared }
    (s.reaches mst 0x14 0x1000 → v.getLsbD 31 = true → s.m.sessEn x = false →
      s.m.is (Fld.INGEST_SESS_STATUS_DRAINED x) = true → taken = false →
      ∃ t : Mach, s.does (.sessionEnable mst v) t.settled ∧ t.rd (Reg.INGEST_SESS_CTRL x) = v ∧ fresh t ∧
        (t.sess x).cleared = (s.m.sess x).cleared ∧
        { s.m with ingest := t.ingest }.onlyRegs t [Reg.INGEST_SESS_CTRL x]) ∧
    (s.reaches mst 0x14 0x1000 → v.getLsbD 31 = true → s.m.sessEn x = false →
      s.m.is (Fld.INGEST_SESS_STATUS_DRAINED x) = true → taken = true →
      ∃ t : Mach, s.does (.sessionEnable mst v) t.settled ∧ t.sessEn x = false ∧
        t.get (Fld.INGEST_SESS_STATUS_KEY_CONFLICT x) = 1 ∧
        s.m.onlyRegs t [Reg.INGEST_SESS_CTRL x, Reg.INGEST_SESS_STATUS x]) ∧
    (s.reaches mst 0x14 0x1000 → v.getLsbD 31 = true → s.m.sessEn x = false →
      s.m.is (Fld.INGEST_SESS_STATUS_DRAINED x) = false →
      ∃ t : Mach, s.does (.sessionEnable mst v) (t.cfgReject mst 0x14 0x1000).settled ∧
        t.sessEn x = false ∧ s.m.onlyRegs t [Reg.INGEST_SESS_CTRL x]) ∧
    (s.reaches mst 0x14 0x1000 → v.getLsbD 31 = false → s.m.sessEn x = false →
      ∃ t : Mach, s.does (.sessionDisable mst v) t.settled ∧ t.rd (Reg.INGEST_SESS_CTRL x) = v ∧
        s.m.onlyRegs t [Reg.INGEST_SESS_CTRL x]) ∧
    (s.reaches mst 0x14 0x1000 → s.m.sessEn x = true →
      v = s.m.rd (Reg.INGEST_SESS_CTRL x) &&& 0x7FFFFFFF →
      ∃ t : Mach, s.does (.sessionDisable mst v) t.settled ∧ t.sessEn x = false ∧ fresh t ∧
        (t.sess x).cleared = some s.m.now ∧
        { s.m with ingest := t.ingest }.onlyRegs t [Reg.INGEST_SESS_CTRL x]) ∧
    (∀ y, sessOk y = true → ((s.m.sess y).released.any fun e => s.m.unitRead e.1) = false →
      ∃ t : Mach, s.does (.sessionDrained y) t ∧ t.get (Fld.INGEST_SESS_STATUS_DRAINED y) = 1 ∧
        (t.sess y).released = [] ∧
        { s.m with ingest := t.ingest }.onlyIn t [Fld.INGEST_SESS_STATUS_DRAINED y]) ∧
    (∀ y, sessOk y = true → ∃ t : Mach, s.does (.sessionActiveTimeout y) t ∧
      t.get (Fld.INGEST_SESS_STATUS_ACTIVE y) = 0 ∧ s.m.onlyIn t [Fld.INGEST_SESS_STATUS_ACTIVE y]) ∧
    (s.reaches mst 0x14 0x1048 → bitsOf v.toNat 0 30 < 1000000000 → ∃ t : Mach,
      s.does (.sessionMapWrite mst v) t.settled ∧ t.rd (Reg.INGEST_SESS_MAP_NS x) = v &&& 0xBFFFFFFF ∧
      t.get (Fld.INGEST_SESS_STATUS_MAP_VALID x) = 1 ∧
      (t.sess x).maps = ⟨s.m.rd (Reg.INGEST_SESS_MAP_RTP x),
        nearestSec (s.m.view (bitsOf v.toNat 31 1 + 1)) (bitsOf v.toNat 0 30)
          (s.m.get (Fld.INGEST_SESS_MAP_SEC_MAP_SEC x)) * 1000000000 + bitsOf v.toNat 0 30,
        bitsOf v.toNat 31 1, s.m.now⟩ :: (s.m.sess x).maps ∧
      { s.m with ingest := t.ingest }.onlyRegs t
        [Reg.INGEST_SESS_MAP_NS x, Reg.INGEST_SESS_STATUS x]) ∧
    (s.reaches mst 0x14 0x1048 → 1000000000 ≤ bitsOf v.toNat 0 30 →
      s.does (.sessionMapWrite mst v) s.m.settled)

/-! ### The decode fabric (spec/06) -/

/-- CellsDecode. A free cell takes the partition or the job it chooses, with a count when it is stolen, and
notes whose context it needs; a context load reads the stream's 64 KiB and ends, unless the read freezes the
DRAM; a partition that ends is done, counted and gives its cell to what it has chosen next, as it stands or
concealed after an error or a time-out, and a cell whose stream was disabled goes on likewise; then the
backlog is looked at again (R181, R182, R188, R189, R193, R206). A free cell that takes a partition decodes
it next: the partition runs on it, no other cell changes, and no register or byte of memory does; then the
cell reads what it decodes from, the jitter buffer and the references (R173, R181, R193). -/
def Obligations.CellsDecode : Prop :=
  (∀ (s : State) (c x y i : Nat) (front : FrontFacts) (lost : List Area) (ready : List (Nat × Nat))
     (p : DecPic) (a : Cand), s.m.on = true → decOk c = true → frontOk front = true → s.m.frozen = false →
     let counted (b : Bool) := if b then s.m.count (Fld.DEC_CNT_STEAL_COUNT c) else s.m
     (s.m.mayChoose c = true → s.m.choice c ready = some a → a.part = some i →
       (s.m.strm a.strm).cur = some p →
       s.does (.cellChoose c ready) ((counted (p.taker != c)).cellTake c a.strm i).shed.settled) ∧
     (s.m.mayChoose c = true → s.m.choice c ready = some a → a.part = none →
       s.does (.cellChoose c ready) ((counted (!a.own)).takeJob c a.strm).shed.settled) ∧
     ((s.m.cell c).loading = some y →
       let t := s.m.memScan (mstDec c) (s.m.ctxAddr y) 0x10000
       (t.frozen = true → s.does (.contextLoadDone c) t.settled) ∧
       (t.frozen = false → s.does (.contextLoadDone c)
         (((t.updCell c fun r => { r with loading := none, holds := some y }).count
           (Fld.DEC_CNT_SWITCH_COUNT c)).monSample 6 c (some 0x7F) 1500).settled)) ∧
     ((s.m.cell c).cur = some (x, i) → (s.m.strm x).cur = none →
       ((s.m.cell c).loading ≠ some x →
         s.does (.partitionDone c front lost) (s.m.cellNext c).shed.settled ∧
         s.does (.partitionTimeout c ⟨front, lost⟩) (s.m.cellNext c).shed.settled) ∧
       s.does (.partitionEnded c 0 0 front) (s.m.cellNext c).shed.settled) ∧
     ((s.m.cell c).cur = some (x, i) → (s.m.cell c).loading ≠ some x → (s.m.strm x).cur = some p →
       let t := (s.m.updPart x i .done).takeFront p.desc front
       let ended (t : Mach) := (((t.count (Fld.DEC_CNT_PART_COUNT c)).cellNext c).picFinish x).shed
       s.does (.partitionDone c front []) (ended t).settled ∧
       (lost ≠ [] → s.does (.partitionDone c front lost)
         (ended ((t.concealCur x lost).decError x 0x0F 5)).settled) ∧
       s.does (.partitionTimeout c ⟨front, lost⟩) (ended
         (((t.concealCur x lost).decError x 0x13 5).count (Fld.DEC_CNT_TIMEOUT_COUNT c))).settled)) ∧
  (∀ (m : Mach) (c x i : Nat), (m.cell c).cur = none → ∃ t : Mach, m.cellTake c x i = t.cellReads c x ∧
     (t.cell c).cur = some (x, i) ∧
     (t.cell c).loading = (if (m.cell c).holds = some x then none else some x) ∧
     (∀ k, k ≠ c → t.cell k = m.cell k) ∧
     (∀ p, (m.strm x).cur = some p → ∃ q, (t.strm x).cur = some q ∧
       ∀ r ∈ q.parts, r.idx = i → r.st = .running c) ∧
     (∀ y, y ≠ x → t.strm y = m.strm y) ∧ t = { m with decode := t.decode })

/-- PicturesFinish. A cell asked for by a chase job gives up its partition at the point it has reached,
saves its state into the stream's context and goes on; the filter between two finished partitions ends, its
boundary is done and what it changed is written by the cell that finished later; a finished picture's
samples are written, its signature kept, its last rows are final, and it goes to output order, or it is
READY at once where a newer sequence has begun (R183, R188, R193, R199, R201). -/
def Obligations.PicturesFinish : Prop :=
  ∀ (s : State) (c d x i y a b samples bits : Nat) (front : FrontFacts) (luma chroma : List Nat)
    (p f : DecPic) (q : Picture), s.m.on = true → decOk c = true → descOk d = true →
    frontOk front = true → s.m.frozen = false →
    let z := s.m.descStream d
    ((s.m.cell c).cur = some (x, i) → (s.m.strm x).cur = some p → (s.m.cell c).preempt = some y →
      let t := s.m.takeFront p.desc front
      let u := (t.writeOpen (mstDec c) (s.m.ctxAddr x) 0x10000).updStrm x fun r => { r with
        cur := r.cur.map fun k => splitPart k i samples bits }
      s.does (.partitionEnded c samples bits front) (u.cellNext c).shed.settled) ∧
    (p.desc = d → (s.m.strm z).cur = some p → (s.m.strm z).finishing = [] → p.bounds = [(a, b)] →
      p.whole a = true → p.whole b = true →
      let own := (p.boundRow a b).bind fun r => (p.filterCell a b).map fun k => (r, k)
      s.does (.boundaryFilterDone d a b front)
        ((s.m.updStrm z fun s => { s with
            cur := some { p with bounds := [], filtered := own.toList ++ p.filtered }
            finishing := [] }).takeFront d { front with
          writes := front.writes.map fun w => { w with cell := (p.filterCell a b).getD w.cell } }).settled) ∧
    (∀ u v : DecPart, p.part a = some u → p.part b = some v → u.rest = none → v.rest = none →
      p.filterCell a b = if u.ended < v.ended then v.cell else u.cell) ∧
    ((s.m.strm z).finishing = [f] → f.desc = d → f.bounds = [] → f.ends = false → s.m.pic d = some q →
      let w := s.m.writePicture c f q luma chroma
      let sig := pictureSig q (s.m.picLayoutOf d q).width w.2
      let t := ((w.1.wr (Reg.DECSCHED_DESC_SIG d) sig).sigFinal q.serial sig).setFront d q.height
      let u := t.updStrm z fun s =>
        { s with finishing := s.finishing.filter fun k => k.desc != d
                 pace := ((t.pic d).bind paceOf) <|> s.pace }
      s.does (.pictureWritesDrained c d luma chroma)
        (if q.seqNo = (u.strm z).seqNo then u.holdBack z d q.poc else u.becomeReady z d).settled)

/-- StreamsComeAndGo. EN = 1 binds a stream to its session and waits for a random access point, or is
refused with BIND_CONFLICT; EN = 0 stops it; it is DRAINED once nothing of it decodes and its last pictures
have gone (R177, R180). Stopping a stream leaves no job, no picture in work, none held back and none for
reference, shows STOPPED, and touches no byte of memory; then the backlog of the other streams is looked at
again (R180, R189, R200). -/
def Obligations.StreamsComeAndGo : Prop :=
  (∀ (s : State) (mst x : Nat) (v : Word), s.m.on = true →
     let e := s.m.get (Fld.DECSCHED_STREAM_INDEX_INDEX mst)
     let w := s.m.wr (Reg.DECSCHED_STREAM_CTRL e) ((v &&& 0xFFFE0FFF) |||
       (s.m.rd (Reg.DECSCHED_STREAM_CTRL e) &&& 0x1F000))
     (s.reaches mst 0x1B 0x104 → v.getLsbD 31 = true → s.m.streamEn e = false →
       s.m.is (Fld.DECSCHED_STREAM_STATUS_DRAINED e) = true → w.streamConflict e = false →
       ∃ t : Mach, s.does (.streamEnable mst v) t.settled ∧ t.streamEn e = true ∧
         t.get (Fld.DECSCHED_STREAM_STATUS_STATE e) = stWaitRap ∧
         t.strm e = { DecStream.reset with
           seqNo := (s.m.strm e).seqNo + 1, prev := (s.m.strm e).prev } ∧
         { s.m with decode := t.decode }.onlyRegs t
           [Reg.DECSCHED_STREAM_CTRL e, Reg.DECSCHED_STREAM_STATUS e]) ∧
     (s.reaches mst 0x1B 0x104 → v.getLsbD 31 = true → s.m.streamEn e = false →
       s.m.is (Fld.DECSCHED_STREAM_STATUS_DRAINED e) = true → w.streamConflict e = true →
       ∃ t : Mach, s.does (.streamEnable mst v) t.settled ∧ t.streamEn e = false ∧
         t.get (Fld.DECSCHED_STREAM_STATUS_BIND_CONFLICT e) = 1 ∧
         s.m.onlyRegs t [Reg.DECSCHED_STREAM_CTRL e, Reg.DECSCHED_STREAM_STATUS e]) ∧
     (s.reaches mst 0x1B 0x104 → s.m.streamEn e = true → v.getLsbD 31 = false →
       (v ^^^ s.m.rd (Reg.DECSCHED_STREAM_CTRL e)) &&& 0x07FE0FFF = 0 →
       ∃ t : Mach, s.m.onlyRegs t [Reg.DECSCHED_STREAM_CTRL e] ∧ t.streamEn e = false ∧
         s.does (.streamDisable mst v) (t.streamDisable e).settled) ∧
     (s.reaches mst 0x1B 0x104 → v.getLsbD 31 = false → s.m.streamEn e = false →
       s.m.is (Fld.DECSCHED_STREAM_STATUS_DRAINED e) = true →
       ∃ t : Mach, s.m.onlyRegs t [Reg.DECSCHED_STREAM_CTRL e] ∧
         s.does (.streamDisable mst v) t.settled) ∧
     (streamOk x = true → s.m.is (Fld.DECSCHED_STREAM_STATUS_DRAINED x) = false →
       s.m.streamBusy x = false → (s.m.strm x).leaving = [] →
       ∃ t : Mach, s.does (.streamDrained x) t.settled ∧
         t.get (Fld.DECSCHED_STREAM_STATUS_DRAINED x) = 1 ∧
         { s.m with decode := t.decode }.onlyIn t [Fld.DECSCHED_STREAM_STATUS_DRAINED x])) ∧
  (∀ (m : Mach) (x : Nat),
     let t := m.streamStop x
     m.streamDisable x = t.shed ∧ (t.strm x).jobs = [] ∧ (t.strm x).cur = none ∧ (t.strm x).held = [] ∧ (t.strm x).dpb = [] ∧
     t.get (Fld.DECSCHED_STREAM_STATUS_STATE x) = stStopped ∧ m.sameBytes t)

/-- DescriptorsObey. KEEP_SET and KEEP_CLR set and clear KEEP; FREE gives a READY picture back, only clears
KEEP of one that REF still keeps, and is refused for one in FILLING; two commands at once are refused; a
read of RETIRE removes its oldest entry; the fabric's and a cell's EN are as written, and the backlog, which
counts the enabled cells, is looked at again (R188, R189, R200, R202). -/
def Obligations.DescriptorsObey : Prop :=
  ∀ (s : State) (mst c d : Nat) (r : List Nat) (v : Word), s.m.on = true →
    let e := s.m.get (Fld.DECSCHED_DESC_INDEX_INDEX mst)
    (s.reaches mst 0x1B 0x224 → bitsOf v.toNat 0 3 = 2 → ∃ t : Mach,
      s.does (.descKeepSet mst v) t.settled ∧ t.get (Fld.DECSCHED_DESC_STATE_KEEP e) = 1 ∧
      s.m.onlyIn t [Fld.DECSCHED_DESC_STATE_KEEP e]) ∧
    (s.reaches mst 0x1B 0x224 → bitsOf v.toNat 0 3 = 4 → ∃ t : Mach,
      s.does (.descKeepClr mst v) (t.freeOld (t.descStream e)).settled ∧
      t.get (Fld.DECSCHED_DESC_STATE_KEEP e) = 0 ∧ s.m.onlyIn t [Fld.DECSCHED_DESC_STATE_KEEP e]) ∧
    (s.reaches mst 0x1B 0x224 → bitsOf v.toNat 0 3 = 1 → s.m.descState e = dReady →
      s.m.is (Fld.DECSCHED_DESC_STATE_REF e) = false → ∃ t : Mach,
      s.does (.descFree mst v) (t.letGo e true).settled ∧
      t.get (Fld.DECSCHED_DESC_STATE_KEEP e) = 0 ∧ s.m.onlyIn t [Fld.DECSCHED_DESC_STATE_KEEP e]) ∧
    (s.reaches mst 0x1B 0x224 → bitsOf v.toNat 0 3 = 1 → s.m.descState e = dReady →
      s.m.is (Fld.DECSCHED_DESC_STATE_REF e) = true → ∃ t : Mach,
      s.does (.descFree mst v) t.settled ∧
      t.get (Fld.DECSCHED_DESC_STATE_KEEP e) = 0 ∧ s.m.onlyIn t [Fld.DECSCHED_DESC_STATE_KEEP e]) ∧
    (s.reaches mst 0x1B 0x224 → bitsOf v.toNat 0 3 = 1 → s.m.descState e = dFilling → ∃ t : Mach,
      s.does (.descFree mst v) t.settled ∧ t.get Fld.DECSCHED_STATUS_CMD_REJECT = 1 ∧
      s.m.onlyIn t [Fld.DECSCHED_STATUS_CMD_REJECT]) ∧
    (s.reaches mst 0x1B 0x224 → bitsOf v.toNat 0 3 ∈ [3, 5, 6, 7] → ∃ t : Mach,
      s.does (.registerWrite mst 0x1B 0x224 v) t.settled ∧ t.get Fld.DECSCHED_STATUS_CMD_REJECT = 1 ∧
      s.m.onlyIn t [Fld.DECSCHED_STATUS_CMD_REJECT]) ∧
    (s.shows mst 0x1B 0x028 → s.m.decode.retire = d :: r → d < 2 ^ 14 →
      s.does (.decschedRetireRead mst)
        ({ s.m with decode := { s.m.decode with retire := r, retireOverflow := false } }.send
          (.data mst (wordLE (BitVec.ofNat 32
            (2 ^ 31 + s.m.decode.retireOverflow.toNat * 2 ^ 30 + d)))))) ∧
    (s.reaches mst 0x1B 0 → v.getLsbD 0 = true → ∃ t : Mach,
      s.does (.fabricEnable mst v) t.settled ∧ t.get Fld.DECSCHED_CTRL_EN = 1 ∧
      s.m.onlyRegs t [Reg.DECSCHED_CTRL]) ∧
    (s.reaches mst 0x1B 0 → v.getLsbD 0 = false → ∃ t : Mach,
      s.does (.fabricDisable mst v) t.settled ∧ t.get Fld.DECSCHED_CTRL_EN = 0 ∧
      s.m.onlyRegs t [Reg.DECSCHED_CTRL]) ∧
    (decOk c = true → s.reaches mst (0x20 + c) 0 → ∃ t : Mach,
      s.does (.registerWrite mst (0x20 + c) 0 v) t.shed.settled ∧
      (v.getLsbD 0 = false → s.does (.decCellDisable mst c v) t.shed.settled) ∧
      t.get (Fld.DEC_CTRL_EN c) = (v.getLsbD 0).toNat ∧ s.m.onlyRegs t [Reg.DEC_CTRL c])

/-! ### Output heads, layers and leases (spec/08, spec/09) -/

/-- HeadsAreEnabled. EN = 1 enables a head whose timing passes the checks, and shows its lock and its
pipeline delay, and when its first line 0 is to come; with the first failed check it stays disabled with
TIMING_REJECT and its cause. EN = 0 ends the lock of a head that is not scanning, and a start to come.
SLATE_FORCE is as written (R265, R268, R269, R289). -/
def Obligations.HeadsAreEnabled : Prop :=
  ∀ (s : State) (mst h c : Nat) (v : Word), headOk h = true → s.reaches mst (0x80 + h) 0 →
    let w := s.m.wr (Reg.HEAD_CTRL h) ((s.m.rd (Reg.HEAD_CTRL h) &&& 0x3FFFFFFC) ||| (v &&& 0xC0000003))
    let en := Fld.HEAD_CTRL_EN h
    let others (t : Mach) := ∀ k, k ≠ h → t.head k = s.m.head k
    (v.getLsbD 31 = true → s.m.is en = false → w.timingCause h = none → ∃ t : Mach,
      s.does (.headEnable mst h v) (t.stored s.m mst (0x80 + h) 0 v) ∧ t.is en = true ∧
      t.get (Fld.HEAD_STATUS_LOCK h) = (if w.frameLocked h then 1 else 0) ∧
      t.get (Fld.HEAD_PIPE_DELAY_DELAY h) = (w.pipeNs h).toNat % 2 ^ 16 ∧
      t.head h = { s.m.head h with target := some (w.startTarget h), teAt := none, teLost := false, okRun := 0 } ∧
      others t ∧ { s.m with heads := t.heads }.onlyRegs t [Reg.HEAD_CTRL h, Reg.HEAD_STATUS h, Reg.HEAD_PIPE_DELAY h]) ∧
    (v.getLsbD 31 = true → s.m.is en = false → w.timingCause h = some c → ∃ t : Mach,
      s.does (.headEnable mst h v) (t.stored s.m mst (0x80 + h) 0 v) ∧ t.is en = false ∧
      t.get (Fld.HEAD_STATUS_TIMING_REJECT h) = 1 ∧ t.get (Fld.HEAD_STATUS_TIMING_CAUSE h) = c % 16 ∧
      s.m.onlyRegs t [Reg.HEAD_CTRL h, Reg.HEAD_STATUS h]) ∧
    (v.getLsbD 31 = false → s.m.is en = true → s.m.scanning h = true → ∃ t : Mach,
      s.does (.headDisable mst h v) (t.stored s.m mst (0x80 + h) 0 v) ∧ t.is en = false ∧
      t.head h = { s.m.head h with target := none } ∧ others t ∧
      { s.m with heads := t.heads }.onlyRegs t [Reg.HEAD_CTRL h]) ∧
    (v.getLsbD 31 = false → s.m.is en = true → s.m.scanning h = false → ∃ t : Mach,
      s.does (.headDisable mst h v) (t.stored s.m mst (0x80 + h) 0 v) ∧ t.is en = false ∧
      t.get (Fld.HEAD_STATUS_LOCK h) = 0 ∧
      t.head h = { s.m.head h with target := none, teAt := none } ∧ others t ∧
      { s.m with heads := t.heads }.onlyRegs t [Reg.HEAD_CTRL h, Reg.HEAD_STATUS h]) ∧
    (v.getLsbD 30 = true → v.getLsbD 31 = s.m.is en → ∃ t : Mach,
      s.does (.headSlateForce mst h v) (t.stored s.m mst (0x80 + h) 0 v) ∧
      t.get (Fld.HEAD_CTRL_SLATE_FORCE h) = 1 ∧ t.rd (Reg.HEAD_CTRL h) = w.rd (Reg.HEAD_CTRL h) ∧
      s.m.onlyRegs t [Reg.HEAD_CTRL h])

/-- HeadsScan. An enabled head whose start is due starts at its latch line with a clear record, and with
TE_SYNC and no delay goes on to line 0 at once; each later line starts after the one before, line 0 after
the last; at the end of a frame its CRC and window results become final and EV_HEADn_FRAME_DONE is raised
(R265, R269, R270, R282, R284, R300). The line that starts after line y is y + 1, and line 0 after the last
line of the frame, for a head without a tearing-effect input (R270). -/
def Obligations.HeadsScan : Prop :=
  (∀ (s : State) (h : Nat) (env : LineEnv) (r : FrameResult), s.m.on = true → headOk h = true → lineOk env = true →
     (s.m.startDue h = true → ∃ t : Mach,
       let u := (t.enterSlate h 0).lineBody h (s.m.latchLine h) env
       s.does (.headStart h env) (if u.teSync h && (u.head h).teAt == some (u.latchLine h)
         then u.lineBody h 0 { env with fronts := [] } else u).settled ∧
       t.get (Fld.HEAD_STATUS_SCANNING h) = 1 ∧ (t.head h).vtot = s.m.vTotal h ∧
       (t.head h).frames = 0 ∧ (t.head h).line = s.m.latchLine h ∧ (t.head h).startAt = s.m.now ∧
       (t.head h).target = none ∧
       let was := if s.m.scanning h then s.m.headStop h else s.m
       { was with heads := t.heads }.onlyIn t [Fld.HEAD_STATUS_SCANNING h] ∧
       ∀ k, k ≠ h → t.head k = was.head k) ∧
     (s.m.scanning h = true → s.m.nextLine h ≠ 0 →
       s.does (.headLineStart h env) ((((s.m.enterSlate h env.cut).tapLines h).endLine h).lineBody h
         (s.m.nextLine h) env).settled) ∧
     (s.m.scanning h = true → s.m.nextLine h = 0 →
       let t := (((s.m.enterSlate h env.cut).tapLines h).endLine h).lineBody h 0 env
       s.does (.headLineStart h env) (forEach (t.tapsOf h) t fun m e => m.tapFrame e h).settled) ∧
     ((s.m.head h).result = some r → r.wins = [] → s.m.balloted h = false → ∃ t : Mach,
       s.does (.frameDone h) ((t.raise (4 * h + 2)).noteReferee h r).settled ∧
       t.get (Fld.HEAD_FRAME_CRC_CRC h) = r.crc.toNat ∧ t.get (Fld.HEAD_CW_STATUS_MISMATCH h) = 0 ∧
       (t.head h).result = none ∧ (∀ k, k ≠ h → t.head k = s.m.head k) ∧
       { s.m with heads := t.heads }.onlyRegs t [Reg.HEAD_FRAME_CRC h, Reg.HEAD_CW_STATUS h])) ∧
  (∀ (m : Mach) (h : Nat), m.teSync h = false →
     m.nextLine h = if (m.head h).line + 1 < (m.head h).vtot then (m.head h).line + 1 else 0)

/-- CommitsAreMarked. A commit marks its heads' sets for their next latch and shows COMMIT_PENDING: HEADn's
with its TAG, LAYERPOOL's and FRESH's for each head named; and COMMIT_LATE when the latch for the frame has
passed (R96, R238, R273, R275). -/
def Obligations.CommitsAreMarked : Prop :=
  ∀ (s : State) (mst h : Nat) (v : Word), headOk h = true →
    let named (k : Nat) := k < 20 ∧ v.getLsbD k = true
    (s.reaches mst (0x80 + h) 0x10 → v.getLsbD 0 = true → ∃ t : Mach,
      s.does (.headCommit mst h v) (t.stored s.m mst (0x80 + h) 0x10 v) ∧
      t.get (Fld.HEAD_STATUS_COMMIT_PENDING h) = 1 ∧
      (s.m.commitLate h = true → t.get (Fld.HEAD_STATUS_COMMIT_LATE h) = 1) ∧
      t.head h = { s.m.head h with commitHead := true, tag := bitsOf v.toNat 16 16 } ∧
      (∀ k, k ≠ h → t.head k = s.m.head k) ∧
      { s.m with heads := t.heads }.onlyRegs t [Reg.HEAD_STATUS h]) ∧
    (s.reaches mst 0x1D 0x10 → ∃ t : Mach,
      s.does (.layerpoolCommit mst v) (t.stored s.m mst 0x1D 0x10 v) ∧
      (∀ k, named k → (t.head k).commitLayers = true ∧
        t.get (Fld.HEAD_STATUS_COMMIT_PENDING k) = 1 ∧
        (s.m.commitLate k = true → t.get (Fld.HEAD_STATUS_COMMIT_LATE k) = 1)) ∧
      (∀ k, ¬ named k → t.head k = s.m.head k ∧ t.rd (Reg.HEAD_STATUS k) = s.m.rd (Reg.HEAD_STATUS k)) ∧
      { s.m with heads := t.heads }.onlyRegs t ((List.range 20).map Reg.HEAD_STATUS)) ∧
    (s.reaches mst 0x19 0x10 → ∃ t : Mach,
      s.does (.freshCommit mst v) (t.stored s.m mst 0x19 0x10 v) ∧
      (∀ k, named k → (t.head k).commitFresh = true ∧
        t.get (Fld.HEAD_STATUS_COMMIT_PENDING k) = 1 ∧
        (s.m.commitLate k = true → t.get (Fld.HEAD_STATUS_COMMIT_LATE k) = 1)) ∧
      (∀ k, ¬ named k → t.head k = s.m.head k ∧ t.rd (Reg.HEAD_STATUS k) = s.m.rd (Reg.HEAD_STATUS k)) ∧
      { s.m with heads := t.heads }.onlyRegs t ((List.range 20).map Reg.HEAD_STATUS))

/-- SlotsAndLeases. A write assigns a slot that is not BUSY to the head it names; one that names a head
above 19, or would give a head a 33rd slot, is refused with OWN_REFUSED and leaves the slot as it was; a
read of LEASE.ENDED removes its oldest entry (R236, R237, R261). A write of a checked master that protection
allows and of which a part overlaps an active lease stores nothing, wherever that part lies, and is
captured, counted and raised; one that the pair link brought is also reported on the standby, and a write of
a master that is not checked meets no lease (R259, R263, R425). -/
def Obligations.SlotsAndLeases : Prop :=
  (∀ (s : State) (mst x : Nat) (v : Word), x < 384 →
     let off := 0x1000 + 0x40 * x
     let head := bitsOf v.toNat 0 5
     let old := Fld.LAYER_OWN_ASSIGNED x
     (s.reaches mst 0x1D off → s.m.slotBusy x = false → head < 20 →
       v.getLsbD 31 = false ∨ (s.m.is old = true ∧ s.m.owner x = head) ∨
         (s.m.slotsOf head).length < 32 → ∃ t : Mach,
       s.does (.layerAssign mst x v) (t.stored s.m mst 0x1D off v) ∧ t.owner x = head ∧
       t.is old = v.getLsbD 31 ∧ s.m.onlyRegs t [Reg.LAYER_OWN x]) ∧
     (s.reaches mst 0x1D off → s.m.slotBusy x = false →
       20 ≤ head ∨ (v.getLsbD 31 = true ∧ ¬ (s.m.is old = true ∧ s.m.owner x = head) ∧
         32 ≤ (s.m.slotsOf head).length) → ∃ t : Mach,
       s.does (.layerAssign mst x v) (t.stored s.m mst 0x1D off v) ∧
       t.get Fld.LAYERPOOL_STATUS_OWN_REFUSED = 1 ∧ s.m.onlyIn t [Fld.LAYERPOOL_STATUS_OWN_REFUSED]) ∧
     (∀ (h y p : Nat) (r : List (Nat × Nat × Nat)), s.shows mst 0x1A 0x30 →
       s.m.leases.ended = (h, y, p) :: r → h < 20 → y < 384 → p < 2 →
       s.does (.leaseEndedRead mst)
         ({ s.m with leases := { s.m.leases with ended := r, endedOverflow := false } }.send
           (.data mst (wordLE (BitVec.ofNat 32 (2 ^ 31 + s.m.leases.endedOverflow.toNat * 2 ^ 30 +
             h * 2 ^ 20 + p * 2 ^ 19 + y))))))) ∧
  (∀ (m : Mach) (mst a b i : Nat) (data : List Byte) (l : Lease),
     (∀ p ∈ partsOf a data.length, m.memDenied mst p.1 true = none) →
     m.leaseHits (partsOf a data.length) = some (b, i, l) →
     let t := m.leaseViolation mst b (i, l)
     (leaseChecked mst = true →
       m.memWrite mst a data = (if mst = 0x04 then
         ((t.put Fld.PAIR_STATUS_MIRROR_REFUSED 1).count Fld.PAIR_CNT_MIRROR_REFUSED_COUNT).raise 0xC7
       else t) ∧ m.sameBytes (m.memWrite mst a data)) ∧
     (leaseChecked mst = false → m.writeChecked mst a data.length = (m, partsOf a data.length)) ∧
     ∃ p ∈ partsOf a data.length, p.1 = b ∧ overlaps b (b + p.2 - 1) l.first l.last = true)

/-! ### Display links (spec/09) -/

/-- DisplayPortTrains. TRAIN starts training with the link idle; its end shows the settings it settled on,
or TRAIN_FAIL, and sends the AUX request that waited for it; HPD low ends the link with UNPLUG; high again
it shows, and retrains where asked; an IRQ_HPD shows, and retrains where the link is lost and it is asked
(R295, R296). -/
def Obligations.DisplayPortTrains : Prop :=
  ∀ (s : State) (mst h rate lanes sinkRate sinkLanes : Nat) (psr psr2 lost : Bool) (v : Word), s.m.on = true →
    dpOk h = true →
    let training (t : Mach) := t.get (Fld.HEAD_DP_STATUS_TRAIN_BUSY h) = 1 ∧
      t.get (Fld.HEAD_DP_STATUS_TRAINED h) = 0 ∧ t.get (Fld.HEAD_STATUS_LINK_UP h) = 0
    let retrains := s.m.is (Fld.HEAD_DP_CTRL_AUTO_RETRAIN h) = true
    let waited (t : Mach) := if (s.m.head h).auxWaits
      then (t.updHead h fun r => { r with auxWaits := false }).auxSend h else t
    (s.reaches mst (0x80 + h) 0x200 → v.getLsbD 31 = true →
      s.m.is (Fld.HEAD_CTRL_EN h) = false ∨ (v ^^^ s.m.rd (Reg.HEAD_DP_CTRL h)) &&& 0x7FFFFFFF = 0 →
      ∃ t : Mach, s.does (.dpTrain mst h v) t.settled ∧ training t ∧
        t.get (Fld.HEAD_DP_CTRL_RATE h) = bitsOf v.toNat 0 3 ∧
        t.get (Fld.HEAD_DP_CTRL_LANES h) = bitsOf v.toNat 4 2 ∧
        s.m.onlyRegs t [Reg.HEAD_DP_CTRL h, Reg.HEAD_DP_STATUS h, Reg.HEAD_STATUS h]) ∧
    (s.m.is (Fld.HEAD_DP_STATUS_TRAIN_BUSY h) = true → s.m.trainAllowed h rate lanes sinkRate sinkLanes = true →
      ∃ t : Mach,
      s.does (.dpTrainDone h true ⟨rate, lanes⟩ ⟨sinkRate, sinkLanes⟩ psr psr2) (waited t) ∧
      t.get (Fld.HEAD_DP_STATUS_TRAIN_BUSY h) = 0 ∧ t.get (Fld.HEAD_DP_STATUS_TRAINED h) = 1 ∧
      t.get (Fld.HEAD_DP_STATUS_RATE_ACT h) = rate ∧ t.get (Fld.HEAD_DP_STATUS_LANES_ACT h) = lanes ∧
      t.is (Fld.HEAD_DP_STATUS_PSR_CAP h) = psr ∧ t.is (Fld.HEAD_DP_STATUS_PSR2_CAP h) = psr2 ∧
      s.m.onlyRegs t [Reg.HEAD_DP_STATUS h]) ∧
    (s.m.is (Fld.HEAD_DP_STATUS_TRAIN_BUSY h) = true → ∃ t : Mach,
      s.does (.dpTrainDone h false ⟨rate, lanes⟩ ⟨sinkRate, sinkLanes⟩ psr psr2) (waited t) ∧
      t.get (Fld.HEAD_DP_STATUS_TRAIN_BUSY h) = 0 ∧ t.get (Fld.HEAD_DP_STATUS_TRAIN_FAIL h) = 1 ∧
      s.m.onlyRegs t [Reg.HEAD_DP_STATUS h]) ∧
    (∃ t : Mach, s.does (.dpUnplug h) t ∧ t.get (Fld.HEAD_DP_STATUS_HPD h) = 0 ∧
      t.get (Fld.HEAD_DP_STATUS_UNPLUG h) = 1 ∧ t.get (Fld.HEAD_DP_STATUS_TRAINED h) = 0 ∧
      t.get (Fld.HEAD_STATUS_LINK_UP h) = 0 ∧ t.head h = { s.m.head h with unplugged := true } ∧
      { s.m with heads := t.heads }.onlyRegs t [Reg.HEAD_DP_STATUS h, Reg.HEAD_STATUS h]) ∧
    (∃ t : Mach, s.does (.dpReplug h) t ∧ t.get (Fld.HEAD_DP_STATUS_HPD h) = 1 ∧
      t.head h = { s.m.head h with unplugged := false } ∧
      (retrains ∧ (s.m.head h).unplugged = true → training t) ∧
      { s.m with heads := t.heads }.onlyRegs t [Reg.HEAD_DP_STATUS h, Reg.HEAD_STATUS h]) ∧
    (∃ t : Mach, s.does (.dpIrqHpd h lost) t ∧ t.get (Fld.HEAD_DP_STATUS_IRQ_HPD h) = 1 ∧
      (retrains ∧ lost = true → training t) ∧
      s.m.onlyRegs t [Reg.HEAD_DP_STATUS h, Reg.HEAD_STATUS h])

/-- AuxTransactionsRun. GO with a request sends it with its address and length, a write with its data, and
shows BUSY; during training it waits, and while BUSY it starts nothing; a reply, which to a read brings its
data, a time-out and the last DEFER end it with their code and count, a DEFER before that sends it again
(R297). -/
def Obligations.AuxTransactionsRun : Prop :=
  ∀ (s : State) (mst h count : Nat) (bytes : List Byte) (v : Word) (c : Instr), s.m.on = true →
    dpOk h = true →
    let cmd := bitsOf v.toNat 24 4
    let len := bitsOf v.toNat 20 4 + 1
    let held (t : Mach) := (List.range 4).flatMap fun k => wordLE (t.rd (Reg.HEAD_AUX_DATA h k))
    let row := (c = .auxNativeWrite mst h v ∧ cmd = 8) ∨ (c = .auxNativeRead mst h v ∧ cmd = 9) ∨
      (c = .auxI2cWrite mst h v ∧ (cmd = 0 ∨ cmd = 4)) ∨ (c = .auxI2cRead mst h v ∧ (cmd = 1 ∨ cmd = 5))
    let ended (t : Mach) (reply n : Nat) := t.get (Fld.HEAD_AUX_STATUS_BUSY h) = 0 ∧
      t.get (Fld.HEAD_AUX_STATUS_DONE h) = 1 ∧ t.get (Fld.HEAD_AUX_STATUS_REPLY h) = reply ∧
      t.get (Fld.HEAD_AUX_STATUS_COUNT h) = n ∧
      t.head h = { s.m.head h with auxDeferred := false, auxRetries := 0 }
    let only (t : Mach) := { s.m with heads := t.heads }.onlyRegs t [Reg.HEAD_AUX_STATUS h]
    (s.reaches mst (0x80 + h) 0x208 → v.getLsbD 31 = true →
      s.m.is (Fld.HEAD_AUX_STATUS_BUSY h) = false → row → ∃ t : Mach,
      let training := s.m.is (Fld.HEAD_DP_STATUS_TRAIN_BUSY h)
      s.does c (if training then t else t.send (.aux h cmd (bitsOf v.toNat 0 20) len
        (if cmd % 2 = 0 then (held s.m).take len else []))).settled ∧
      t.get (Fld.HEAD_AUX_STATUS_BUSY h) = 1 ∧
      t.head h = { s.m.head h with
        auxRetries := 0, auxDeferred := false, auxWaits := training || (s.m.head h).auxWaits } ∧
      (∀ k, k ≠ h → t.head k = s.m.head k) ∧
      { s.m with heads := t.heads }.onlyRegs t [Reg.HEAD_AUX_CTRL h, Reg.HEAD_AUX_STATUS h]) ∧
    (s.reaches mst (0x80 + h) 0x208 → v.getLsbD 31 = true →
      s.m.is (Fld.HEAD_AUX_STATUS_BUSY h) = true → row → ∃ t : Mach,
      s.does c t.settled ∧ s.m.onlyRegs t [Reg.HEAD_AUX_CTRL h]) ∧
    (s.m.auxOpen h = true → count ≤ 16 → bytes.length ≤ 16 →
      s.m.get (Fld.HEAD_AUX_CTRL_CMD h) % 2 = 1 → ∃ t : Mach,
      s.does (.auxReply h 0 count bytes) t ∧ ended t 0 count ∧ (held t).take bytes.length = bytes ∧
      { s.m with heads := t.heads }.onlyRegs t
        (Reg.HEAD_AUX_STATUS h :: (List.range 4).map (Reg.HEAD_AUX_DATA h))) ∧
    (s.m.auxOpen h = true → count ≤ 16 → bytes.length ≤ 16 →
      s.does (.auxReply h 2 count bytes) (s.m.updHead h fun r => { r with auxDeferred := true })) ∧
    (s.m.auxOpen h = true → count ≤ 16 → bytes.length ≤ 16 →
      s.m.get (Fld.HEAD_AUX_CTRL_CMD h) % 2 = 0 → ∃ t : Mach,
      s.does (.auxReply h 0 count bytes) t ∧ ended t 0 count ∧ only t) ∧
    (s.m.auxOpen h = true → count ≤ 16 → bytes.length ≤ 16 → ∃ t : Mach,
      s.does (.auxReply h 1 count bytes) t ∧ ended t 1 count ∧ only t) ∧
    (s.m.auxOpen h = true → ∃ t : Mach, s.does (.auxTimeout h) t ∧ ended t 3 0 ∧ only t) ∧
    (s.m.is (Fld.HEAD_AUX_STATUS_BUSY h) = true → (s.m.head h).auxDeferred = true →
      (s.m.head h).auxRetries < 7 →
      s.does (.auxDeferRetry h) ((s.m.updHead h fun r =>
        { r with auxRetries := r.auxRetries + 1, auxDeferred := false }).auxSend h)) ∧
    (s.m.is (Fld.HEAD_AUX_STATUS_BUSY h) = true → (s.m.head h).auxDeferred = true →
      7 ≤ (s.m.head h).auxRetries → ∃ t : Mach,
      s.does (.auxDeferRetry h) t ∧ ended t 2 0 ∧ only t)

/-- DsiCommandsRun. GO with a data type of R298 queues the command with its bytes and shows BUSY, and sends
it at once where the head does not scan; when it has been sent and answered it is DONE, with what was read
and the panel's report; PANEL_RST is as written; a tearing-effect edge sets the line at which the coming
frame starts, and its absence is reported (R298, R300, R301). -/
def Obligations.DsiCommandsRun : Prop :=
  ∀ (s : State) (mst h : Nat) (v : Word) (c : Instr) (d : DsiCommand), s.m.on = true → dsiOk h = true →
    let dt := bitsOf v.toNat 24 6
    let data := (List.range 16).flatMap fun k => wordLE (s.m.rd (Reg.HEAD_DSI_DATA h k))
    (s.reaches mst (0x80 + h) 0x208 → v.getLsbD 31 = true →
      s.m.is (Fld.HEAD_DSI_CMD_STATUS_BUSY h) = false →
      (c = .dcsShortWrite mst h v ∧ dt = 0x05) ∨ (c = .dcsShortWriteParam mst h v ∧ dt = 0x15) ∨
        (c = .dcsLongWrite mst h v ∧ dt = 0x39) ∨ (c = .dcsRead mst h v ∧ dt = 0x06) → ∃ t : Mach,
      s.does c (if s.m.scanning h then t else
        t.send (.dsi h (v.getLsbD 30) dt (data.take (min 64 (bitsOf v.toNat 16 7))))).settled ∧
      t.get (Fld.HEAD_DSI_CMD_STATUS_BUSY h) = 1 ∧ (t.head h).dsi = some ⟨v.getLsbD 30, dt,
        data.take (min 64 (bitsOf v.toNat 16 7)), !s.m.scanning h⟩ ∧
      { s.m with heads := t.heads }.onlyRegs t [Reg.HEAD_DSI_CMD h, Reg.HEAD_DSI_CMD_STATUS h]) ∧
    (∀ (bytes : List Byte) (report : Option Nat), (s.m.head h).dsi = some d → d.sent = true →
      (∀ e, report = some e → e < 0x10000) → ∃ t : Mach,
      s.does (.dsiCmdDone h bytes report) t ∧ t.get (Fld.HEAD_DSI_CMD_STATUS_BUSY h) = 0 ∧
      t.get (Fld.HEAD_DSI_CMD_STATUS_DONE h) = 1 ∧ t.head h = { s.m.head h with dsi := none } ∧
      (∀ k, k ≠ h → t.head k = s.m.head k) ∧
      (∀ e, report = some e → t.get (Fld.HEAD_DSI_CMD_STATUS_ERR h) = 1 ∧
        t.get (Fld.HEAD_DSI_CMD_STATUS_ERR_REPORT h) = e) ∧
      (d.dt = 0x06 → t.get (Fld.HEAD_DSI_CMD_STATUS_RD_LEN h) = min 64 bytes.length ∧
        ((List.range 16).flatMap fun k => wordLE (t.rd (Reg.HEAD_DSI_DATA h k))).take
          (min 64 bytes.length) = bytes.take 64) ∧
      { s.m with heads := t.heads }.onlyRegs t (Reg.HEAD_DSI_CMD_STATUS h ::
        if d.dt = 0x06 then (List.range 16).map (Reg.HEAD_DSI_DATA h) else [])) ∧
    (s.reaches mst (0x80 + h) 0x200 →
      s.m.is (Fld.HEAD_CTRL_EN h) = false ∨ (v ^^^ s.m.rd (Reg.HEAD_DSI_CTRL h)) &&& 0x7FFFFFFF = 0 →
      ∃ t : Mach,
      s.does (.dsiPanelReset mst h v) t.settled ∧
      t.is (Fld.HEAD_DSI_CTRL_PANEL_RST h) = v.getLsbD 31 ∧ s.m.onlyRegs t [Reg.HEAD_DSI_CTRL h]) ∧
    let starts := s.m.scanning h = false ∨ (s.m.head h).target ≠ none
    (s.m.teSync h = true → s.m.is (Fld.HEAD_CTRL_EN h) = true → starts →
      s.does (.dsiTeEdge h) (s.m.updHead h fun r => { r with
        teAt := some (s.m.latchLine h + s.m.get (Fld.HEAD_DSI_CTRL_TE_DELAY h))
        teLost := false })) ∧
    (s.m.teSync h = true → s.m.is (Fld.HEAD_CTRL_EN h) = true → ¬ starts →
      let at' := max ((s.m.head h).line + 1 + s.m.get (Fld.HEAD_DSI_CTRL_TE_DELAY h))
        (s.m.vTotal h - s.m.get (Fld.HEAD_VTIME_B_VBP h))
      s.does (.dsiTeEdge h)
        (s.m.updHead h fun r => { r with teAt := some at', vtot := at', teLost := false })) ∧
    (s.m.teSync h = true → s.m.is (Fld.HEAD_CTRL_EN h) = true → ∃ t : Mach, s.does (.dsiTeLost h) t ∧
      t.get (Fld.HEAD_STATUS_TE_LOST h) = 1 ∧
      t.head h = { s.m.head h with teAt := none, teLost := true, vtot := s.m.vTotal h } ∧
      { s.m with heads := t.heads }.onlyIn t [Fld.HEAD_STATUS_TE_LOST h])

/-! ### Re-encoding (spec/10) -/

/-- EncodersComeAndGo. EN = 1 copies the session's fields and starts a stream that passes the checks, or is
refused with BIND_CONFLICT and the first failing check's code; EN = 0 gives up what has not started, and of
a stream that is not enabled changes nothing; the stream is DRAINED when no cell works for it and no packet
waits; FORCE_IDR asks for an IDR picture; a cell's EN is as written (R311, R319, R323, R324). That packets
of an earlier run are kept at an enable is the model's choice (log entry 18). -/
def Obligations.EncodersComeAndGo : Prop :=
  ∀ (s : State) (mst x c code : Nat) (v : Word), s.m.on = true →
    let e := s.m.get (Fld.ENCSCHED_STREAM_INDEX_INDEX mst)
    let w := s.m.wr (Reg.ENCSCHED_STREAM_CTRL e) ((v &&& 0xFFDF0FFF) |||
      (s.m.rd (Reg.ENCSCHED_STREAM_CTRL e) &&& 0x20F000))
    let asked := w.updEnc e fun q => { EncStream.reset with packets := q.packets, nextAt := q.nextAt }
    let agrees := s.m.is (Fld.ENCSCHED_STREAM_STATUS_DRAINED e) = true ∨
      (v ^^^ s.m.rd (Reg.ENCSCHED_STREAM_CTRL e)) &&& 0x3FDF0FFF = 0
    (s.reaches mst 0x1C 0x104 → v.getLsbD 31 = true → s.m.encEn e = false →
      agrees → asked.encRefusal e = none →
      ∃ t : Mach, s.does (.encStreamEnable mst v) t.settled ∧ t.encEn e = true ∧
        t.get (Fld.ENCSCHED_STREAM_STATUS_STATE e) = 1 ∧
        t.get (Fld.ENCSCHED_STREAM_STATUS_DRAINED e) = 0 ∧
        (t.enc e).tx = some (w.encCopy (bitsOf v.toNat 0 12)) ∧ (t.enc e).pics = [] ∧
        (t.enc e).packets = (s.m.enc e).packets ∧ (t.enc e).pace = s.m.get (Fld.ENCSCHED_STREAM_PACE_PACE e) ∧
        (t.enc e).errEvt = v.getLsbD 30 ∧ (t.enc e).seq = w.get (Fld.ENCSCHED_STREAM_PACE_SEQ_INIT e) ∧
        { s.m with encode := t.encode, freeCount := s.m.freeCount + 1 }.onlyRegs t
          [Reg.ENCSCHED_STREAM_CTRL e, Reg.ENCSCHED_STREAM_STATUS e]) ∧
    (s.reaches mst 0x1C 0x104 → v.getLsbD 31 = true → s.m.encEn e = false →
      agrees → asked.encRefusal e = some code →
      ∃ t : Mach, s.does (.encStreamEnable mst v) t.settled ∧ t.encEn e = false ∧
        t.get (Fld.ENCSCHED_STREAM_STATUS_BIND_CONFLICT e) = 1 ∧
        t.get (Fld.ENCSCHED_STREAM_STATUS_LAST_ERR e) = code ∧
        s.m.onlyRegs t [Reg.ENCSCHED_STREAM_CTRL e, Reg.ENCSCHED_STREAM_STATUS e]) ∧
    (s.reaches mst 0x1C 0x104 → v.getLsbD 31 = false → s.m.encEn e = false → agrees →
      ∃ t : Mach, s.m.onlyRegs t [Reg.ENCSCHED_STREAM_CTRL e] ∧
        s.does (.encStreamDisable mst v) t.settled) ∧
    (s.reaches mst 0x1C 0x104 → v.getLsbD 31 = false → s.m.encEn e = true →
      (v ^^^ s.m.rd (Reg.ENCSCHED_STREAM_CTRL e)) &&& 0x3FDF0FFF = 0 →
      ∃ t : Mach, s.m.onlyRegs t [Reg.ENCSCHED_STREAM_CTRL e] ∧ t.encEn e = false ∧
        s.does (.encStreamDisable mst v) (t.encDisable e).settled ∧
        ((t.encDisable e).enc e).pics = [] ∧ ((t.encDisable e).enc e).waiting = none ∧
        (t.encDisable e).get (Fld.ENCSCHED_STREAM_STATUS_STATE e) = 0) ∧
    (estreamOk x = true → s.m.encEn x = false → s.m.encBusy x = false → (s.m.enc x).packets = [] →
      ∃ t : Mach, s.does (.encStreamDrained x) t.settled ∧
        t.get (Fld.ENCSCHED_STREAM_STATUS_DRAINED x) = 1 ∧
        s.m.onlyIn t [Fld.ENCSCHED_STREAM_STATUS_DRAINED x]) ∧
    (s.reaches mst 0x1C 0x138 → v.getLsbD 0 = true → ∃ t : Mach,
      s.does (.encForceIdr mst v) t.settled ∧ t.enc e = { s.m.enc e with forced := true } ∧
      { s.m with encode := t.encode }.onlyRegs t []) ∧
    (encOk c = true → s.reaches mst (0x60 + c) 0 → v.getLsbD 0 = false → ∃ t : Mach,
      s.does (.encCellDisable mst c v) t.settled ∧ t.get (Fld.ENC_CTRL_EN c) = 0 ∧
      s.m.onlyRegs t [Reg.ENC_CTRL c])

/-- PicturesAreCoded. A slice whose rows are in the ring becomes ready; a picture starts as an IDR picture
where one is due and its floor fits the cap, else as a P picture whose floor fits, and is dropped when
neither does; an IDR picture that was due and does not fit stays due and is counted; a free cell takes the
slice that became ready earliest, with its allotment (R304, R311, R313, R315, R316). -/
def Obligations.PicturesAreCoded : Prop :=
  ∀ (s : State) (e c i n : Nat) (p : EncPic) (r : List EncPic) (tx : EncTx) (sets seis : List Nat),
    s.m.on = true → estreamOk e = true → encOk c = true → s.m.frozen = false →
    let full := s.m.encFullness e (s.m.enc e) (tx.rtpTime p.capture)
    let due := s.m.encIdrDue e (s.m.enc e)
    let fits (m : Mach) (idr : Bool) := m.floorBits e idr * m.ctus e ≤ (m.encCap e (m.enc e) full idr).2
    let starts := s.m.encNext e = some p ∧ (s.m.enc e).tx = some tx ∧ s.m.encEn e = true ∧
      s.m.is Fld.ENCSCHED_CTRL_EN = true
    (s.m.encEn e = true → (s.m.enc e).pics = [p] →
      i = (p.slices.takeWhile fun q => q.readyAt.isSome).length → i < p.slices.length →
      s.m.sliceEnd e i ≤ p.rows →
      let now := p.slices.zipIdx.map fun k =>
        if k.2 = i then { k.1 with readyAt := some s.m.nowNs } else k.1
      s.does (.encSliceReady e)
        (s.m.updEnc e fun q => { q with pics := [{ p with slices := now }] }).settled) ∧
    (starts → due = true → fits s.m true →
      let t := s.m.encBegin e p tx full true sets seis
      s.does (.encPictureStart e sets seis) t.settled ∧ (∃ q r', (t.enc e).pics = q :: r' ∧
        q.started = true ∧ q.idr = true ∧ (q.target, q.cap) = s.m.encCap e (s.m.enc e) full true) ∧
      (t.enc e).coded = (s.m.enc e).coded + 1 ∧ (t.enc e).forced = false ∧ (t.enc e).due = false ∧
      t.sameBytes s.m) ∧
    let other := starts ∧ ¬ (due = true ∧ fits s.m true)
    let tried := if due then (s.m.encCnt e 7).updEnc e fun q => { q with due := true } else s.m
    let gone := tried.encDrop e
    (other → fits tried false →
      let t := tried.encBegin e p tx full false sets seis
      s.does (.encPictureStart e sets seis) t.settled ∧ (∃ q r', (t.enc e).pics = q :: r' ∧
        q.started = true ∧ q.idr = false ∧ (q.target, q.cap) = tried.encCap e (tried.enc e) full false) ∧
      (t.enc e).coded = (s.m.enc e).coded + 1 ∧ (t.enc e).due = due ∧ t.sameBytes s.m) ∧
    (other → ¬ fits tried false → p.desc.isSome = true → s.does (.encPictureStart e sets seis)
      (gone.updEnc e fun q => { q with waiting := none }).settled) ∧
    (other → ¬ fits tried false → p.desc = none → s.does (.encPictureStart e sets seis)
      ((gone.updEnc e fun q => { q with
        pics := q.pics.drop 1
        capturing := q.capturing && decide (1 < (gone.enc e).pics.length) }).encGone e p).settled) ∧
    (s.m.is Fld.ENCSCHED_CTRL_EN = true → s.m.is (Fld.ENC_CTRL_EN c) = true →
      (s.m.encCell c).cur = none → s.m.earliestSlice s.m.encOn = some (e, i, n) →
      (s.m.enc e).pics = p :: r →
      let switch := (s.m.encCell c).holds.any (· != e)
      let taken := p.slices.zipIdx.map fun q =>
        if q.2 = i then { q.1 with cell := some c, allot := s.m.allotment e p i } else q.1
      ∃ t : Mach, s.does (.encSliceStart c) t.settled ∧
        t.encCell c = { s.m.encCell c with
          cur := some (e, i), live := true, holds := some e, busyFrom := some s.m.nowNs
          loadUntil := if switch then s.m.nowNs + 1500 else 0 } ∧
        (t.enc e).pics = { p with slices := taken } :: r ∧
        (∀ k, k ≠ c → t.encCell k = s.m.encCell k) ∧ (∀ k, k ≠ e → t.enc k = s.m.enc k) ∧
        t.get (Fld.ENC_CNT_SWITCH_COUNT c) = (if switch
          then min (s.m.get (Fld.ENC_CNT_SWITCH_COUNT c) + 1) (2 ^ 32 - 1)
          else s.m.get (Fld.ENC_CNT_SWITCH_COUNT c)) ∧
        { s.m with encode := t.encode }.onlyRegs t [Reg.ENC_CNT_SWITCH c])

/-- SlicesAndPacketsEnd. A slice whose allotment covers the floor of its CTUs never uses more bits, whatever
its CTUs would use (R314, R316). A finished slice has been read and its part of the reference picture is
written; it frees its cell, its bits are those of its CTUs within the allotment, and the slices finished in
order are packetised; a cell whose own access freezes the DRAM stops there; a slice of a stopped stream
leaves nothing but the freed cell; a packet whose time by PACE has come, and before which no frame of HQ5
goes, leaves a port that has its link and is counted, else it is dropped with ENC_E_PORT; before its time
nothing leaves (R304, R310, R314, R322, R324, R325, R376). -/
def Obligations.SlicesAndPacketsEnd : Prop :=
  (∀ (f allot : Nat) (ctus : List CtuCode), f * ctus.length ≤ allot →
     (codeCtus f allot 0 ctus).1 ≤ allot ∧
     (codeCtus f allot 0 ctus).2.1 + (codeCtus f allot 0 ctus).2.2.length = ctus.length) ∧
  (∀ (s : State) (c e i : Nat) (ctus : List CtuCode) (luma chroma : List Nat)
     (p : EncPic) (r : List EncPic) (tx : EncTx) (k : EncPacket) (ks : List EncPacket), s.m.on = true → encOk c = true →
     ctus.all ctuOk = true → s.m.frozen = false → estreamOk e = true →
     let cell := s.m.encCell c
     let pace := (s.m.enc e).pace
     let next (k : EncPacket) := if pace = 0 then 0
       else s.m.nowNs + (k.frame.length * 8000 + pace - 1) / pace
     let leaves := (s.m.enc e).packets = k :: ks ∧ s.m.hq5First k.port = false ∧
       (s.m.enc e).nextAt ≤ s.m.nowNs
     let rest := s.m.updEnc e fun q => { q with packets := ks, nextAt := next k }
     let n := min (s.m.get (Fld.ENCSCHED_STREAM_CNT_COUNT e 4) + 1) (2 ^ 32 - 1)
     (∀ m : Mach, (m.encCellEnds c).encCell c = { m.encCell c with
         cur := none, busyFrom := none
         busyLog := recent m.nowNs (m.encCell c).busyLog ++ (match (m.encCell c).busyFrom with
           | some t => [(t, m.nowNs)]
           | none => []) } ∧
       (∀ k, k ≠ c → (m.encCellEnds c).encCell k = m.encCell k) ∧
       m.encCellEnds c = { m with encode := (m.encCellEnds c).encode } ∧
       ∀ x, (m.encCellEnds c).enc x = m.enc x) ∧
     (cell.cur = some (e, i) → cell.live = false →
       s.does (.encSliceDone c ctus luma chroma) (s.m.encCellEnds c).settled) ∧
     (cell.cur = some (e, i) → cell.live = true → (s.m.enc e).pics = p :: r →
       (s.m.enc e).tx = some tx →
       let src := s.m.encRead e c p i
       let ref := src.1.encRefRead e c p i
       let built := ref.1.encRebuild e c p i luma chroma
       let m := (built.encCellEnds c).count (Fld.ENC_CNT_SLICE_COUNT c)
       let allot := (p.slices[i]?.map fun q => q.allot).getD 0
       let coded := codeCtus (m.floorBits e p.idr) allot 0
         ((List.range (m.sliceCtus e i)).map fun j => ctus.getD j ⟨0, 0, []⟩)
       let qps := (coded.2.2.map fun k => m.encQp e p k.qp).foldl (· + ·) 0 +
         coded.2.1 * (if p.idr then p.qpHi else m.encQp e p p.qpP)
       let nal := m.sliceUnit e p i (m.ctuForms e p coded) (src.2 ++ ref.2).flatten coded.1
       let short := coded.2.1 != 0
       let n := if short then m.encCnt e 3 coded.2.1 else m
       let t := if short && !p.short then ((n.encCnt e 2).raise evEncBudgetShort).encEvent e else n
       let done (l : List EncSlice) := l.zipIdx.map fun j =>
         if j.2 = i then { j.1 with bits := some coded.1, nal := nal } else j.1
       let u := t.updOldest e fun q => { q with
         short := q.short || short, qpSum := q.qpSum + qps, slices := done q.slices }
       (ref.1.freezing = true → s.does (.encSliceDone c ctus luma chroma) ref.1.settled) ∧
       (ref.1.freezing = false → built.freezing = true →
         s.does (.encSliceDone c ctus luma chroma) built.settled) ∧
       (ref.1.freezing = false → built.freezing = false → s.does (.encSliceDone c ctus luma chroma)
         ((u.encFlush e tx (u.sliceCount e)).encFinish e).settled)) ∧
     (leaves → k.lastOf = none → s.m.is (Fld.ETH_STATUS_LINK k.port) = true → ∃ t : Mach,
       s.does (.encPacketSend e) t.settled ∧ t.sent = .eth k.port k.frame :: s.m.sent ∧
       t.enc e = { s.m.enc e with packets := ks, nextAt := next k } ∧ (∀ x, x ≠ e → t.enc x = s.m.enc x) ∧
       t.get (Fld.ENCSCHED_STREAM_CNT_COUNT e 4) = n ∧
       { s.m with encode := t.encode, sent := t.sent }.onlyRegs t [Reg.ENCSCHED_STREAM_CNT e 4]) ∧
     (∀ t, leaves → k.lastOf = some t → s.m.is (Fld.ETH_STATUS_LINK k.port) = true →
       s.does (.encPacketSend e) ((((rest.send (.eth k.port k.frame)).encCnt e 4).monSample 10 e (some 0x1F)
         ((s.m.nowNs - t) / 1000)).settled)) ∧
     (leaves → s.m.is (Fld.ETH_STATUS_LINK k.port) = false → ∃ t : Mach,
       s.does (.encPacketSend e) (t.encEvent e).settled ∧
       t.enc e = { s.m.enc e with packets := ks, nextAt := next k } ∧ (∀ x, x ≠ e → t.enc x = s.m.enc x) ∧
       t.get (Fld.ENCSCHED_STREAM_CNT_COUNT e 6) =
         min (s.m.get (Fld.ENCSCHED_STREAM_CNT_COUNT e 6) + 1) (2 ^ 32 - 1) ∧
       t.get (Fld.ENCSCHED_STREAM_STATUS_LAST_ERR e) = 9 ∧
       { s.m with encode := t.encode }.onlyRegs t
         [Reg.ENCSCHED_STREAM_CNT e 6, Reg.ENCSCHED_STREAM_STATUS e]) ∧
     ((s.m.enc e).packets = k :: ks →
       s.m.hq5First k.port = true ∨ s.m.nowNs < (s.m.enc e).nextAt →
       s.does (.encPacketSend e) s.m.settled))

/-! ### Network time and the DPLL (spec/11) -/

/-- TimeIsCounted. TIME_CLK ticks count LOCAL by INCR, and in Keep the TCXO does, until the internal reset
is released; what waits for ticks elsewhere, frees, chain ports and the mirror's buffer, follows; a step of
LOCAL leaves the other views as they are; a write of GO samples the three views at once (R327, R329, R330,
R331). A frame or 1PPS output rises on a tick that its grid, its head's line 0 or the second names, half a
period or more after it last rose, and on no other; it falls once WIDTH has passed since its edge, and not
before. In GRID mode the instant k × FR_DEN × 10^9 / FR_NUM + PHASE of its view is such a tick, for every k
(R352 to R354). -/
def Obligations.TimeIsCounted : Prop :=
  ((∀ (s : State) (n : Nat), s.m.on = true → 0 < n → s.does (.timeClkTick n)
     ((((s.m.tickN n).freesPass.chainSends n).mirrorDrains n).resume)) ∧
   (∀ (s : State) (n : Nat), s.m.pwr.phase = .keep ∨ s.m.pwr.phase = .railsRise →
     s.does (.timeClkTick n) (s.m.keepTickN n)) ∧
   (∀ m : Mach, m.dpll.remain = 0 →
     m.tick.time.now = (m.time.now + m.incr) % timeSpan ∧ m.tick.time.ticks = m.time.ticks + 1 ∧
     m.tick = { m with time := m.tick.time }) ∧
   (∀ (m : Mach) (d : Nat) (amount : Int), d < 2 →
     (m.moveLocal amount).now = wrapTime (m.now + amount) ∧
     (m.moveLocal amount).view (d + 1) = m.view (d + 1)) ∧
   (∀ (s : State) (mst : Nat) (v : Word), s.reaches mst 0x0C 8 → v.getLsbD 0 = true → ∃ t : Mach,
     s.does (.timeSnap mst v) t.settled ∧
     (∀ k, k < 3 →
       t.get (Fld.TIME_SNAP_SEC_LO_SEC_LO k) = secOf (s.m.view k) % 2 ^ 32 ∧
       t.get (Fld.TIME_SNAP_HI_SEC_HI k) = secOf (s.m.view k) / 2 ^ 32 % 2 ^ 16 ∧
       t.get (Fld.TIME_SNAP_HI_FRAC k) = fracOf (s.m.view k) ∧
       t.get (Fld.TIME_SNAP_NS_NS k) = nsOf (s.m.view k)) ∧
     s.m.onlyRegs t ((List.range 3).flatMap fun k =>
       [Reg.TIME_SNAP_SEC_LO k, Reg.TIME_SNAP_HI k, Reg.TIME_SNAP_NS k]))) ∧
  (∀ (s : State) (k : Nat), s.m.on = true → fourOk k = true →
     let past (edge : Option Nat) (ns : Nat) := ∀ t, edge = some t → ns / 4 ≤ s.m.time.ticks - t
     (s.does (.frameOutEdge k) (if s.m.frameDue k
       then { s.m with pins := { s.m.pins with
         frameOut := insertNat s.m.pins.frameOut k
         frameEdge := tabSet s.m.pins.frameEdge k s.m.time.ticks } } else s.m)) ∧
     (s.m.frameDue k = true → s.m.is (Fld.TIME_FRAME_OUT_CFG_EN k) = true ∧
       ∀ t, tabFind s.m.pins.frameEdge k = some t →
         s.m.framePeriodOut k ≤ ((s.m.time.ticks - t : Nat) : Rat) * 8) ∧
     (∀ (num den phase : Nat) (j : Int), num = s.m.get (Fld.TIME_FRAME_OUT_FRATE_FR_NUM k) →
       den = s.m.get (Fld.TIME_FRAME_OUT_FRATE_FR_DEN k) →
       phase = s.m.get (Fld.TIME_FRAME_OUT_PHASE_PHASE k) → 0 < num → 0 < den →
       s.m.is (Fld.TIME_FRAME_OUT_CFG_EN k) = true → s.m.is (Fld.TIME_FRAME_OUT_CFG_MODE k) = false →
       tabFind s.m.pins.frameEdge k = none → s.m.get (Fld.TIME_FRAME_OUT_CFG_DOM k) = 0 →
       ((s.m.now : Rat) / unitNs = (nearest (((j : Rat) * den * 1000000000 / num + phase) * 65536) : Rat) / 65536) →
       0 < s.m.incr → s.m.frameDue k = true) ∧
     (past (tabFind s.m.pins.frameEdge k) (s.m.get (Fld.TIME_FRAME_OUT_CFG_WIDTH k)) →
       ∃ t : Mach, s.does (.frameOutPulseEnd k) t ∧ k ∉ t.pins.frameOut ∧
       (∀ j, j ≠ k → (j ∈ t.pins.frameOut ↔ j ∈ s.m.pins.frameOut)) ∧
       t = { s.m with pins := { s.m.pins with frameOut := t.pins.frameOut } }) ∧
     (¬ past (tabFind s.m.pins.frameEdge k) (s.m.get (Fld.TIME_FRAME_OUT_CFG_WIDTH k)) →
       s.does (.frameOutPulseEnd k) s.m) ∧
     (s.does .ppsOutEdge (if s.m.ppsDue
       then { s.m with pins := { s.m.pins with ppsOut := true, ppsEdge := some s.m.time.ticks } }
       else s.m)) ∧
     (past s.m.pins.ppsEdge (s.m.get Fld.TIME_PPS_OUT_CFG_WIDTH * 1000) →
       s.does .ppsOutPulseEnd { s.m with pins := { s.m.pins with ppsOut := false } }) ∧
     (¬ past s.m.pins.ppsEdge (s.m.get Fld.TIME_PPS_OUT_CFG_WIDTH * 1000) →
       s.does .ppsOutPulseEnd s.m))

/-- DomainsFollowSamples. A write of ERR_NS gives a sample: counted as rejected with EV_TIME_REJECT where
the domain is off, takes none from software, ns is out of range or it is an outlier of a LOCKED domain, else
accepted, with its error shown and outside LOCKED a large one taken as a step; EN as written, and 0 sets the
domain to FREE_RUN with its tracker clear; without a sample for TIMEOUT its input is invalid, a LOCKED
domain holds over, an ACQUIRING one is LOST, and so is one that has held over for HOLD_MAX (R332, R334,
R489). -/
def Obligations.DomainsFollowSamples : Prop :=
  ∀ (s : State) (mst d : Nat) (v : Word), s.m.on = true → domOk d = true →
    let en := s.m.is (Fld.TIME_DOM_CFG_EN d)
    let ns := bitsOf v.toNat 0 30
    let w := s.m.wr (Reg.TIME_DOM_ERR_NS d) ((v &&& 0x3FFFFFFF) |||
      (s.m.rd (Reg.TIME_DOM_ERR_NS d) &&& 0xC0000000))
    let e := errOf (s.m.get (Fld.TIME_DOM_ERR_SEC_LO_SEC_LO d) +
        s.m.get (Fld.TIME_DOM_ERR_HI_SEC_HI d) * 2 ^ 32) ns (s.m.get (Fld.TIME_DOM_ERR_HI_FRAC d)) +
      (s.m.dom d).applied
    let outlier := s.m.domOwn d = .locked ∧
      s.m.get (Fld.TIME_DOM_LIMITS_OUTLIER d) * 1000 * unitNs ≤ absInt e
    let stepMin := max 1 (s.m.get (Fld.TIME_DOM_LIMITS_STEP_MIN d)) * 1000000 * unitNs
    (s.reaches mst 0x0C (0x118 + 0x40 * d) →
      en = false ∨ s.m.is (Fld.TIME_DOM_CFG_SRC d) = true ∨ 1000000000 ≤ ns →
      s.does (.domainSample mst d v) ((w.count (Fld.TIME_DOM_CNT_REJECTED d)).raise evTimeReject).settled) ∧
    (s.reaches mst 0x0C (0x118 + 0x40 * d) → en = true → s.m.is (Fld.TIME_DOM_CFG_SRC d) = false →
      ns < 1000000000 → outlier → s.does (.domainSample mst d v) (w.domReject d true).settled) ∧
    (∀ m : Mach, ∃ t : Mach, t = ((m.count (Fld.TIME_DOM_CNT_REJECTED d)).raise evTimeReject).updDom d
        (fun x => { x with outlierRun := x.outlierRun + 1 }) ∧
      m.domReject d true = if 4 ≤ (t.dom d).outlierRun ∧ (t.dom d).st = .locked ∧ t.dpll.active ≠ some d
        then t.setDomState d .acquiring else t) ∧
    (s.reaches mst 0x0C (0x118 + 0x40 * d) → en = true → s.m.is (Fld.TIME_DOM_CFG_SRC d) = false →
      ns < 1000000000 → ¬ outlier →
      let t := w.domAccept d e
      s.does (.domainSample mst d v) t.settled ∧
      t.get (Fld.TIME_DOM_LAST_ERR_ERR d) = sat32 (toNs e) ∧
      (t.dom d).lastAcc = some s.m.time.ticks ∧
      (s.m.domOwn d ≠ .locked → s.m.is (Fld.TIME_DOM_CFG_STEP_EN d) = true → stepMin ≤ absInt e →
        (t.dom d).ofs = (s.m.dom d).ofs + e)) ∧
    (s.reaches mst 0x0C (0x100 + 0x40 * d) → v.getLsbD 31 = true → en = false → ∃ t : Mach,
      s.does (.domainEnable mst d v) t.settled ∧ t.is (Fld.TIME_DOM_CFG_EN d) = true ∧
      t.is (Fld.TIME_DOM_CFG_SRC d) = v.getLsbD 30 ∧ s.m.onlyRegs t [Reg.TIME_DOM_CFG d]) ∧
    (s.reaches mst 0x0C (0x100 + 0x40 * d) → v.getLsbD 31 = false →
      (en = true → v = s.m.rd (Reg.TIME_DOM_CFG d) &&& 0x7FFFFFFF) → ∃ t : Mach,
      s.m.onlyRegs t [Reg.TIME_DOM_CFG d] ∧ t.is (Fld.TIME_DOM_CFG_EN d) = false ∧
      s.does (.domainDisable mst d v) (t.domDisable d).settled ∧
      ((t.domDisable d).dom d).st = .freeRun ∧ ((t.domDisable d).dom d).trk = .reset ∧
      ((t.domDisable d).dom d).applied = 0) ∧
    let silent := s.m.setValid d false
    (silent.dpll.active ≠ some d → (silent.dom d).st = .locked →
      s.does (.domainTimeout d) (silent.setDomState d .holdover)) ∧
    (silent.dpll.active ≠ some d → (silent.dom d).st = .acquiring →
      s.does (.domainTimeout d) (silent.setDomState d .lost)) ∧
    (s.m.dpll.active ≠ some d → (s.m.dom d).st = .holdover →
      s.does (.domainHoldMax d) (s.m.setDomState d .lost))

/-- ChainTimeIsExchanged. A request stamped t1 becomes ready at the UP port; one from below is answered with
t2, t3 and the domains; the reply gives the offset of R341 to CHAIN_RX and to the domains that take it; an
edge of 1PPS_IN of the polarity asked for is stamped, and shown with its event (R336, R339, R341, R343). -/
def Obligations.ChainTimeIsExchanged : Prop :=
  ∀ (s : State) (t1 t2 t3 part after : Nat) (ofsA ofsB : Int) (stA stB : DomState) (falling : Bool),
    s.m.on = true → partOk part = true →
    let o := s.m.chainOffset t1 t2 t3 (s.m.instant part)
    let heard := { s.m with time := { s.m.time with exchange := none } }.setValid 9 true
    let fed := (heard.chainDomain 0 o ofsA stA).chainDomain 1 o ofsB stB
    (s.m.portUp true = true → s.does (.chainTimeExchange part)
      ({ s.m with time := { s.m.time with exchange := some (s.m.instant part) } }.updPort true fun p =>
        { p with ready := p.ready ++ [ChainMsg.timeRequest] })) ∧
    (s.m.portUp false = true → s.does (.chainTimeRequest part after) (s.m.updPort false fun p =>
      { p with ready := p.ready ++ [ChainMsg.timeReply (s.m.instant part) (s.m.instant (part + after))
        s.m.time.domA.ofs s.m.time.domB.ofs (s.m.domReport 0) (s.m.domReport 1)] })) ∧
    (s.m.portUp true = true → s.m.time.exchange = some t1 →
      s.does (.chainTimeReply t2 t3 ofsA ofsB stA stB part)
        (if fed.dpll.active = some 9 then fed.dpllSample 9 o else fed)) ∧
    (s.m.get Fld.TIME_CHAIN_ASYM_ADJ = 0 →
      ((t2 : Int) - t1 + (t3 - s.m.instant part)) % 2 = 0 →
      2 * o = (t2 : Int) - t1 + (t3 - s.m.instant part)) ∧
    (s.m.is Fld.TIME_PPS_IN_CTRL_EN = true → s.m.is Fld.TIME_PPS_IN_CTRL_POL = falling → ∃ t : Mach,
      s.does (.ppsInEdge falling part) (t.raise evPpsIn) ∧ t.get Fld.TIME_PPS_IN_CTRL_NEW = 1 ∧
      t.get Fld.TIME_PPS_IN_SEC_LO_SEC_LO = secOf (s.m.instant part) % 2 ^ 32 ∧
      t.get Fld.TIME_PPS_IN_HI_SEC_HI = secOf (s.m.instant part) / 2 ^ 32 % 2 ^ 16 ∧
      t.get Fld.TIME_PPS_IN_HI_FRAC = fracOf (s.m.instant part) ∧
      t.get Fld.TIME_PPS_IN_NS_NS = nsOf (s.m.instant part) ∧
      s.m.onlyRegs t [Reg.TIME_PPS_IN_CTRL, Reg.TIME_PPS_IN_SEC_LO, Reg.TIME_PPS_IN_HI,
        Reg.TIME_PPS_IN_NS])

/-- DpllFollowsItsInput. An input is valid as its signal and its row of R343 say, a clock input only within
INTOL; qualified after QUAL_TIME; the active input is the one R344 selects, whose divided edges are samples;
EN as written, and 0 leaves no input active; HOLD_MAX ends HOLDOVER as LOST (R343 to R348). A write of
PHASE_STEP with MODE = 0 moves the target's view alone, by S ns at once, and is reported as a step; with
MODE = 1 it adds S to what remains to be slewed, at SLOPE ns in each second (250,000,000 ticks), whose end
raises EV_PHASE_DONE; target 3 is ignored (R329, R349, R489). -/
def Obligations.DpllFollowsItsInput : Prop :=
  (∀ (s : State) (mst k part : Nat) (valid : Bool) (fofs : Int) (v : Word), s.m.on = true →
     let measured := if 2 ≤ k ∧ k < 9 then s.m.updDpll fun x => { x with fofs := tabSet x.fofs k fofs }
       else s.m
     let next := measured.setValid k (valid && measured.inputMay k)
     (inputOk k = true → s.does (.dpllInputValidity k valid fofs) next ∧
       next.dpll.valid.contains k = (valid && measured.inputMay k) ∧
       (2 ≤ k → k < 9 → s.m.get Fld.DPLL_QUAL_INTOL * 1000 < absInt fofs →
         next.dpll.valid.contains k = false)) ∧
     (inputOk k = true → s.m.dpll.valid.contains k = true →
       s.does (.dpllInputQualified k)
         (s.m.updDpll fun x => { x with qualified := insertNat x.qualified k }).reselect) ∧
     (∀ m : Mach, m.reselect.dpll.active = m.wantedInput) ∧
     (2 ≤ k → k < 9 → partOk part = true → s.m.dpll.active = some k →
       5 ≤ k ∨ s.m.get (Fld.DPLL_IN_FREQ_NUM_NUM k) ≠ 0 →
       s.does (.dpllClockEdge k part) (s.m.dpllSample k (s.m.edgeError k (s.m.instant part)))) ∧
     (s.reaches mst 0x0D 0 → v.getLsbD 31 = true → ∃ t : Mach,
       s.does (.dpllEnable mst v) t.reselect.settled ∧ t.is Fld.DPLL_CTRL_EN = true ∧
       s.m.onlyRegs t [Reg.DPLL_CTRL]) ∧
     (s.reaches mst 0x0D 0 → v.getLsbD 31 = false → ∃ t : Mach,
       s.m.onlyRegs t [Reg.DPLL_CTRL] ∧ t.is Fld.DPLL_CTRL_EN = false ∧
       s.does (.dpllDisable mst v) t.dpllDisable.settled ∧ t.dpllDisable.dpll.active = none ∧
       t.dpllDisable.dpll.applied = 0 ∧
       t.dpllDisable.dpll.st = (if s.m.dpll.st = .acquiring ∨ s.m.dpll.st = .locked
         then .freeRun else s.m.dpll.st)) ∧
     (s.m.dpll.st = .holdover → s.m.dpll.active = none →
       s.does .dpllHoldMax (s.m.setDpllState .lost))) ∧
  (∀ (s : State) (mst : Nat) (v : Word), s.m.on = true →
     let target := s.m.get Fld.DPLL_PHASE_CTRL_TARGET
     let amount : Int := v.toInt * (unitNs : Int)
     (s.reaches mst 0x0D 0x44 → s.m.is Fld.DPLL_PHASE_CTRL_MODE = false → target < 3 → ∃ t r : Mach,
       s.m.onlyRegs t [] ∧ r = (t.applyPhase target amount).stepReport target 3 amount ∧
       s.does (.phaseStep mst v) r.settled ∧ r.get Fld.TIME_STATUS_STEPPED = 1 ∧
       r.view target = wrapTime (s.m.view target + amount) ∧
       ∀ k, k < 3 → k ≠ target → r.view k = s.m.view k) ∧
     (s.reaches mst 0x0D 0x44 → s.m.is Fld.DPLL_PHASE_CTRL_MODE = true → target < 3 → ∃ t : Mach,
       s.does (.phaseSlew mst v) t.settled ∧
       t.dpll = { s.m.dpll with
         remain := s.m.dpll.remain + amount, slewTarget := target, slewing := true } ∧
       { s.m with dpll := t.dpll }.onlyRegs t []) ∧
     (s.reaches mst 0x0D 0x44 → target = 3 → ∃ t : Mach, s.m.onlyRegs t [] ∧
       s.does (if s.m.is Fld.DPLL_PHASE_CTRL_MODE then .phaseSlew mst v else .phaseStep mst v) t.settled) ∧
     (∀ slope ticks : Nat, slewUnits slope (ticks + 250000000) = slewUnits slope ticks + slope * unitNs) ∧
     (s.m.dpll.slewing = true → s.m.dpll.remain = 0 →
       s.does .phaseSlewDone ((s.m.updDpll fun x => { x with slewing := false }).raise evPhaseDone)))

/-! ### DRAM, frame store, repair and vault (spec/12, spec/13, spec/14) -/

/-- FrequencyChanges. A request ends at once while frozen or at its own point, else waits; it starts in a
window or ends without one; it completes with TSET turned over, or returns and reports its lanes; a
retraining counts, shows its margin, the smallest eye, and reports lanes that do not pass, and where none
may run MR4's report of the die still counts: HOT is 1 while any die is hot; a refresh interval owes at most
8 (R362, R364 to R366, R371 to R373). -/
def Obligations.FrequencyChanges : Prop :=
  ∀ (s : State) (mst k c blackout : Nat) (v : Word) (hot round : Bool) (r : ChannelTraining)
    (rs : List LaneFailure), s.m.on = true →
    let changing := (∃ j, s.m.dram.fc = .running j) ∨ s.m.dram.fc = .returning
    let dies := if hot then insertNat s.m.dram.hot r.channel else s.m.dram.hot.filter (· ≠ r.channel)
    let mayTrain := s.m.is Fld.DRAMC_CTRL_RETRAIN_EN = true ∧ s.m.anyPanic = false ∧ s.m.frozen = false ∧
      ¬ changing ∧ s.m.is Fld.DRAMC_STATUS_SREF = false
    let target := bitsOf v.toNat 24 2
    let busy := s.m.is Fld.DRAMC_STATUS_FC_BUSY
    let asked := s.reaches mst 0x06 0x20 ∧ v.getLsbD 31 = true ∧ busy = false ∧
      (s.m.boot.romStarted && !s.m.boot.trained) = false
    let ended (t : Mach) (result : Nat) := t.dram = { s.m.dram with fc := .idle } ∧
      t.get Fld.DRAMC_FC_STATUS_RESULT = result ∧ t.get Fld.DRAMC_FC_STATUS_DONE = 1 ∧
      t.get Fld.DRAMC_STATUS_FC_BUSY = 0
    let only (t : Mach) (keys : List Nat) := { s.m with dram := t.dram }.onlyRegs t keys
    let keys := [Reg.DRAMC_FC_CTRL, Reg.DRAMC_FC_STATUS, Reg.DRAMC_STATUS]
    let owed := tabGet 0 s.m.dram.debt c + if round then 0 else 1
    (asked → s.m.frozen = true → ∃ t : Mach, s.does (.dramFreqChangeRequest mst v) t.settled ∧
      ended t 5 ∧ only t keys) ∧
    (asked → s.m.frozen = false → target = s.m.get Fld.DRAMC_STATUS_OP → ∃ t : Mach,
      s.does (.dramFreqChangeRequest mst v) t.settled ∧ ended t 2 ∧ only t keys) ∧
    (asked → s.m.frozen = false → target ≠ s.m.get Fld.DRAMC_STATUS_OP → ∃ t : Mach,
      s.does (.dramFreqChangeRequest mst v) t.settled ∧
      t.dram = { s.m.dram with fc := .requested target } ∧ t.get Fld.DRAMC_STATUS_FC_BUSY = 1 ∧
      only t [Reg.DRAMC_FC_CTRL, Reg.DRAMC_STATUS]) ∧
    (s.m.dram.fc = .requested k → 13000 < s.m.tolMin → s.m.anyPanic = false → s.m.frozen = false →
      s.does .dramFreqChangeStart { s.m with dram := { s.m.dram with fc := .running k } }) ∧
    (s.m.dram.fc = .requested k → ∃ t : Mach, s.does .dramFreqChangeNoWindow t ∧ ended t 3 ∧
      only t keys) ∧
    (s.m.dram.fc = .running k → blackout ≤ 6000 → ∃ t : Mach,
      s.does (.dramFreqChangeDone true blackout) (t.raise evDramFcDone).fcRelease.settled ∧ ended t 1 ∧
      t.get Fld.DRAMC_STATUS_OP = k % 4 ∧
      t.is Fld.DRAMC_STATUS_TSET = !s.m.is Fld.DRAMC_STATUS_TSET ∧
      t.get Fld.DRAMC_FC_STATUS_BLACKOUT = blackout ∧ only t keys) ∧
    (s.m.dram.fc = .running k → blackout ≤ 6000 → s.does (.dramFreqChangeDone false blackout)
      { s.m with dram := { s.m.dram with fc := .returning } }.settled) ∧
    (s.m.dram.fc = .returning → rs ≠ [] → rs.all laneFailureOk = true → blackout ≤ 13000 → ∃ t : Mach,
      s.does (.dramFreqChangeReverted rs blackout)
        (((rs.foldl (fun m r => m.lanesFail 2 r) t).put Fld.DRAMC_STATUS_TRAIN_FAIL 1).raise
          evDramTrainFail).fcRelease.settled ∧ ended t 4 ∧
      t.get Fld.DRAMC_FC_STATUS_BLACKOUT = blackout ∧ only t keys) ∧
    (trainingOk r = true → mayTrain → ∃ t : Mach,
      s.does (.dramRetrain r hot) (if failingLanes r = 0 then t else t.raise evDramTrainFail) ∧
      t.dram = { s.m.dram with hot := dies } ∧ t.is Fld.DRAMC_STATUS_HOT = !dies.isEmpty ∧
      t.get (Fld.DRAMC_CH_TRAIN_MARGIN (r.channel / 4) (r.channel % 4)) = smallestEye r ∧
      (∀ e ∈ r.eyes, smallestEye r ≤ min e.read (min e.write e.command)) ∧
      t.get (Fld.DRAMC_CH_RETRAIN_CNT_COUNT (r.channel / 4) (r.channel % 4)) =
        min (s.m.get (Fld.DRAMC_CH_RETRAIN_CNT_COUNT (r.channel / 4) (r.channel % 4)) + 1) (2 ^ 32 - 1) ∧
      (failingLanes r ≠ 0 → t.get Fld.DRAMC_STATUS_TRAIN_FAIL = 1 ∧
        t.get (Fld.DRAMC_CH_TRAIN_FAIL_KIND (r.channel / 4) (r.channel % 4)) = 3 ∧
        t.get (Fld.DRAMC_CH_TRAIN_FAIL_BYTE (r.channel / 4) (r.channel % 4)) = failingLanes r) ∧
      only t [Reg.DRAMC_STATUS, Reg.DRAMC_CH_TRAIN (r.channel / 4) (r.channel % 4),
        Reg.DRAMC_CH_RETRAIN_CNT (r.channel / 4) (r.channel % 4)]) ∧
    (trainingOk r = true → ¬ mayTrain → ∃ t : Mach, s.does (.dramRetrain r hot) t ∧
      t.dram = { s.m.dram with hot := dies } ∧ t.is Fld.DRAMC_STATUS_HOT = !dies.isEmpty ∧
      { s.m with dram := t.dram }.onlyIn t [Fld.DRAMC_STATUS_HOT]) ∧
    (channelOk c = true → ∃ t : Mach, s.does (.dramRefresh c round) t ∧
      tabGet 0 t.dram.debt c = (if s.m.anyPanic then min owed 7 else 0) ∧
      t.get Fld.DRAMC_REFRESH_FORCED = (if s.m.anyPanic ∧ 8 ≤ owed
        then min (s.m.get Fld.DRAMC_REFRESH_FORCED + 1) (2 ^ 16 - 1)
        else s.m.get Fld.DRAMC_REFRESH_FORCED) ∧
      only t [Reg.DRAMC_REFRESH])

/-- FreezesAndDiagnosis. A command error freezes the controller with its cause, at once or after a frequency
change in progress; RELEASE with its confirmation ends the freeze; the diagnostic port, while frozen, reads
a burst's words as stored or writes them, and no other byte changes (R366, R374, R376, R377). -/
def Obligations.FreezesAndDiagnosis : Prop :=
  ∀ (s : State) (mst cmd addr a k : Nat) (v : Word), s.m.on = true →
    let cause : FreezeCause := ⟨true, dramChannel addr, mst, cmd, addr,
      (Config.freeValue s.m.freeCount).toNat % 256, addr / 8 % 8⟩
    let noted := s.m.free.2.pushOffline addr true
    let idle := (s.m.updDram fun d => { d with diag := none }).put Fld.DRAMC_DIAG_CTRL_BUSY 0
    let burst := s.m.get Fld.DRAMC_DIAG_ADDR_HI_ADDR_HI * 2 ^ 32 +
      s.m.get Fld.DRAMC_DIAG_ADDR_LO_ADDR_LO * 64
    let given (k : Nat) := wordLE (s.m.rd (Reg.DRAMC_DIAG_DATA (2 * k))) ++
      wordLE (s.m.rd (Reg.DRAMC_DIAG_DATA (2 * k + 1)))
    let changing := (∃ j, s.m.dram.fc = .running j) ∨ s.m.dram.fc = .returning
    (mstOk mst = true → cmd < 4 → addr < 0x700000000 → s.m.frozen = false → ¬ changing →
      let t := noted.freezeNow cause
      s.does (.dramCommandError mst cmd addr) t.releaseHeld.settled ∧ t.frozen = true ∧
      t.get Fld.DRAMC_FREEZE_INFO_VALID = 1 ∧ t.get Fld.DRAMC_FREEZE_INFO_KIND = 1 ∧
      t.get Fld.DRAMC_FREEZE_INFO_MASTER = mst % 2 ^ 8 ∧ t.get Fld.DRAMC_FREEZE_INFO_CMD = cmd ∧
      t.get Fld.DRAMC_FREEZE_INFO_CHANNEL = addr / 256 % 16 ∧
      t.get Fld.DRAMC_FREEZE_ADDR_LO_ADDR_LO = addr % 2 ^ 32 ∧
      t.get Fld.DRAMC_FREEZE_ADDR_HI_ADDR_HI = addr / 2 ^ 32 ∧ s.m.sameBytes t) ∧
    (mstOk mst = true → cmd < 4 → addr < 0x700000000 → s.m.frozen = false →
      changing →
      s.does (.dramCommandError mst cmd addr) (noted.updDram fun d =>
        { d with pendingFreeze := some (s.m.dram.pendingFreeze.getD cause) }).settled) ∧
    (s.reaches mst 0x06 0x50 → v.getLsbD 0 = true → bitsOf v.toNat 16 16 = 0xA5C3 →
      s.m.frozen = true → ∃ t : Mach,
      s.does (.dramFreezeRelease mst v) (t.fabricThaw.ingestThaw.encThaw).settled ∧
      t.frozen = false ∧ t.get Fld.DRAMC_FREEZE_INFO_VALID = 0 ∧
      s.m.onlyIn t [Fld.DRAMC_STATUS_FROZEN, Fld.DRAMC_FREEZE_INFO_VALID]) ∧
    (s.reaches mst 0x06 0x50 → v.getLsbD 0 = true → bitsOf v.toNat 16 16 ≠ 0xA5C3 → ∃ t : Mach,
      s.does (.dramFreezeRelease mst v) t.settled ∧ s.m.onlyRegs t []) ∧
    (s.reaches mst 0x06 0x60 → v.getLsbD 31 = true → v.getLsbD 29 = false → s.m.frozen = true →
      s.m.dram.diag = none → ∃ t : Mach, s.does (.diagRawRead mst v) t.settled ∧
      t.dram = { s.m.dram with diag := some (false, burst) } ∧ t.get Fld.DRAMC_DIAG_CTRL_BUSY = 1 ∧
      { s.m with dram := t.dram }.onlyRegs t [Reg.DRAMC_DIAG_CTRL]) ∧
    (s.reaches mst 0x06 0x60 → v.getLsbD 31 = true → v.getLsbD 29 = true → s.m.frozen = true →
      s.m.dram.diag = none → ∃ t : Mach, s.does (.diagWrite mst v) t.settled ∧
      t.dram = { s.m.dram with diag := some (true, burst) } ∧ t.get Fld.DRAMC_DIAG_CTRL_BUSY = 1 ∧
      { s.m with dram := t.dram }.onlyRegs t [Reg.DRAMC_DIAG_CTRL]) ∧
    (s.m.dram.diag = some (false, a) → s.m.frozen = true →
      let t := idle.diagRead a (List.range 8)
      s.does .diagDone t ∧ (a + 64 ≤ 0x700000000 → s.m.flips = [] → k < 8 →
        t.get (Fld.DRAMC_DIAG_DATA_DATA (2 * k)) = leNat (s.m.bytes (a + 8 * k) 4) ∧
        t.get (Fld.DRAMC_DIAG_DATA_DATA (2 * k + 1)) = leNat (s.m.bytes (a + 8 * k + 4) 4) ∧
        s.m.sameBytes t)) ∧
    (s.memoryOk → s.m.dram.diag = some (true, a) → s.m.frozen = true → a < 0x700000000 → ∃ t : Mach,
      s.does .diagDone t ∧ t.get Fld.DRAMC_DIAG_CTRL_BUSY = 0 ∧
      (∀ j, j < 8 → t.bytes (a + 8 * j) 8 = given j) ∧
      ∀ b, b < a ∨ a + 64 ≤ b → t.byte b = s.m.byte b)

/-- UnwritingAndRepair. UNWRITE leaves the lines of its range unwritten and no other byte changed, and is
BUSY until it completes; one of length 0 clears nothing, and one that comes while BUSY is refused (R383). A
write-back reads and corrects the words of its line, and a position that needs correction again is a hard
fault; a sweep reads its next line; REPAIR takes its oldest fault into a spare row or a reserve granule, and
the copy's end is reported; a read of OFFLINE removes its oldest entry; ARM gives up a test that is armed,
arms one of a word that exists, and is refused otherwise (R389, R391, R393, R394, R397, R399). -/
def Obligations.UnwritingAndRepair : Prop :=
  (∀ (s : State) (mst : Nat) (v : Word), s.m.on = true →
     let first := s.m.get Fld.FSTORE_UNWRITE_START_START
     let count := bitsOf v.toNat 6 21
     let a := fsBase + first * 64
     let cleared (line : Nat) := ∃ i, first ≤ i ∧ i < first + count ∧ (s.m.fsPhys (64 * i)).2 = false ∧
       line = (s.m.fsPhys (64 * i)).1 / 64
     (s.reaches mst 0x0A 0x44 → v.getLsbD 31 = true →
       s.m.is Fld.FSTORE_STATUS_UNWRITE_BUSY = false → (s.m.rangeDenied mst a (count * 64)).2 = false →
       leaseChecked mst = false ∨ s.m.leaseHit a (count * 64) = none → 0 < count → ∃ t : Mach,
       s.does (.fsUnwrite mst v) t.settled ∧ t.get Fld.FSTORE_STATUS_UNWRITE_BUSY = 1 ∧
       t.dram = { s.m.dram with unwrite := some (first, count) } ∧
       (∀ line, cleared line → line ∉ t.written) ∧
       (∀ line, ¬ cleared line → (line ∈ t.written ↔ line ∈ s.m.written)) ∧
       (∀ b, ¬ (fsBase ≤ b ∧ cleared ((b - fsBase) / 64)) → t.byte b = s.m.byte b) ∧
       { s.m with dram := t.dram, written := t.written, mem := t.mem }.onlyRegs t
         [Reg.FSTORE_UNWRITE_LEN, Reg.FSTORE_STATUS]) ∧
     (s.reaches mst 0x0A 0x44 → v.getLsbD 31 = true →
       s.m.is Fld.FSTORE_STATUS_UNWRITE_BUSY = false → count = 0 →
       (s.m.rangeDenied mst a (count * 64)).2 = false →
       leaseChecked mst = false ∨ s.m.leaseHit a (count * 64) = none → ∃ t : Mach,
       s.does (.fsUnwrite mst v) t.settled ∧ s.m.onlyRegs t [Reg.FSTORE_UNWRITE_LEN]) ∧
     (s.reaches mst 0x0A 0x44 → v.getLsbD 31 = true →
       s.m.is Fld.FSTORE_STATUS_UNWRITE_BUSY = true → ∃ t : Mach,
       s.does (.fsUnwrite mst v) t.settled ∧ t.get Fld.FSTORE_STATUS_CMD_REJECT = 1 ∧
       s.m.onlyRegs t [Reg.FSTORE_UNWRITE_LEN, Reg.FSTORE_STATUS]) ∧
     (∃ t : Mach, s.does .fsUnwriteDone t ∧ t.get Fld.FSTORE_STATUS_UNWRITE_BUSY = 0 ∧
       t.dram = { s.m.dram with unwrite := none } ∧
       { s.m with dram := t.dram }.onlyIn t [Fld.FSTORE_STATUS_UNWRITE_BUSY])) ∧
  (∀ (s : State) (mst p g x page : Nat) (v : Word) (e : CorrPending) (es : List CorrPending)
     (ps : List Nat) (u : Bool) (us : List (Nat × Bool)) (upsets : List (Nat × Nat)), s.m.on = true →
     let set (r : Repair) : Mach := { s.m with repair := r }
     let idle := (s.m.updRepair fun x => { x with job := none }).put Fld.REPAIR_STATUS_REPAIR_BUSY 0
     let w := s.m.wr (Reg.REPAIR_INJ_CTRL) ((v &&& 0xE0FF7F00) |||
       (s.m.rd Reg.REPAIR_INJ_CTRL &&& 0x1F0080FF))
     let top := if w.get Fld.REPAIR_INJ_CTRL_TARGET = 2 then 38 else 71
     let b0 := bitsOf v.toNat 16 7
     let b1 := bitsOf v.toNat 8 7
     let badBits := top < b0 ∨ (v.getLsbD 23 = true ∧ (top < b1 ∨ b0 = b1))
     (s.m.repair.corr = e :: es → e.fs = true ∨ s.m.scrubBlocked = false →
       let words := (List.range 8).map fun i => (e.addr / 64 * 64 + 8 * i, e.key / 64 * 64 + 8 * i)
       let n := set { s.m.repair with corr := es }
       let q := n.scrubLine e.fs (e.key :: es.map fun p => p.key) words
       let t := q.1.setFlips e.key (positionMask e.pos)
       let u := if e.captured && t.is Fld.REPAIR_CE_INFO_VALID then t.put Fld.REPAIR_CE_INFO_HARD 1 else t
       s.does (.scrubWriteback false) q.1 ∧
       (q.2 = true → s.m.flipMask e.key ≠ 0 → s.m.injected e.key = false → s.does (.scrubWriteback true)
         (if e.fs then u.fsHardFault (e.key - fsBase) else u.dramHardFault e.addr false)) ∧
       ((∀ w ∈ words, w.2 ≠ e.key → s.m.flipMask w.2 = 0) → e.key % 8 = 0 → s.m.flipMask e.key ≠ 0 →
         s.m.injected e.key = false → beyondCorrection (s.m.flipMask e.key) = false →
         q = ((n.setBytes e.key (s.m.wordBytes 8 e.key
           (deliveredMask 64 (s.m.flipMask e.key) (s.m.eccOf e.key).1))).setFlips e.key 0, true))) ∧
     (s.m.scrubBlocked = false → s.m.get Fld.REPAIR_CTRL_DRAM_PERIOD ≠ 0 →
       (upsets.all fun u => decide (u.1 < 8 ∧ u.2 < 2 ^ 72)) = true →
       let a := s.m.repair.dramSweep * 64
       let n := set { s.m.repair with dramSweep := (s.m.repair.dramSweep + 1) % (0x700000000 / 64) }
       let r := (n.upsetLine a upsets).dramWords mstScrub 3 (wordParts 8 a 64)
       s.m.memDenied mstScrub a false = none →
       s.does (.scrubRead 0 false upsets)
         (if r.2.isSome then r.1.dramSampled (some 3) 1 else r.1.dramEnded)) ∧
     ((upsets.all fun u => decide (u.1 < 8 ∧ u.2 < 2 ^ 72)) = true →
       s.does (.scrubRead 1 false upsets) (s.m.scrubFs upsets) ∧
       s.does (.scrubRead 2 false upsets) ((set { s.m.repair with
         vaultSweep := (s.m.repair.vaultSweep + 1) % 256 }).vaultRead s.m.repair.vaultSweep).1) ∧
     (s.m.repair.job = none → s.m.repair.faults = p :: ps →
       let k := macroOf p
       (s.m.sparesLeft k ≠ 0 → ∃ t : Mach, s.does .repairStart t ∧
         t.get Fld.REPAIR_STATUS_REPAIR_BUSY = 1 ∧
         t.repair = { s.m.repair with
           faults := ps, job := some (.spareRow p)
           sparesTaken := tabSet s.m.repair.sparesTaken k (tabGet 0 s.m.repair.sparesTaken k + 1) } ∧
         (set t.repair).onlyIn t [Fld.REPAIR_STATUS_REPAIR_BUSY]) ∧
       (s.m.sparesLeft k = 0 →
         s.does .repairStart ((set { s.m.repair with faults := ps }).remapGranule p))) ∧
     (s.m.repair.job = some (.spareRow p) →
       s.does (.spareRowCopyDone false) ((forEach (rowLines p) idle fun m l => m.copiedLine l).raise
         evSpareRow) ∧
       s.does (.spareRowCopyDone true) (idle.remapGranule p)) ∧
     (s.m.repair.job = some (.granule g x) →
       s.does (.granuleCopyDone false) ((((idle.moveGranule (s.m.get (Fld.REPAIR_GMAP_PHYS g)) x).put
         (Fld.REPAIR_GMAP_STATE g) 2).put (Fld.REPAIR_GMAP_PHYS g) x).raise evGranuleRemap) ∧
       s.does (.granuleCopyDone true) (idle.retire g)) ∧
     (s.shows mst 0x0B 0x40 → s.m.repair.offline = (page, u) :: us → page < 2 ^ 23 →
       s.does (.repairOfflineRead mst)
         ((set { s.m.repair with offline := us, offlineOverflow := false }).send
           (.data mst (wordLE (BitVec.ofNat 32 (2 ^ 31 + s.m.repair.offlineOverflow.toNat * 2 ^ 30 +
             u.toNat * 2 ^ 29 + page)))))) ∧
     (s.reaches mst 0x0B 0x50 → v.getLsbD 31 = true →
       w.injectKey = some x → ¬ badBits → ∃ t : Mach,
       s.does (.eccInjArm mst v) t.settled ∧ t.get Fld.REPAIR_INJ_CTRL_ARM = 1 ∧
       t.repair = { s.m.repair with inject := some ⟨x, false⟩ } ∧
       { s.m.disarm with repair := t.repair }.onlyRegs t [Reg.REPAIR_INJ_CTRL]) ∧
     (s.reaches mst 0x0B 0x50 → v.getLsbD 31 = true →
       w.injectKey = none ∨ badBits → ∃ t : Mach,
       s.does (.eccInjArm mst v) t.settled ∧ t.get Fld.REPAIR_INJ_CTRL_ARM = 0 ∧
       t.get Fld.REPAIR_INJ_STATUS_RESULT = 5 ∧ t.get Fld.REPAIR_INJ_STATUS_DONE = 1 ∧
       t.repair.inject = none ∧ s.m.disarm.onlyRegs t [Reg.REPAIR_INJ_CTRL, Reg.REPAIR_INJ_STATUS]))

/-- VaultVotes. A read of a vault word gives the bitwise majority of its copies and leaves all three at it,
and where they disagree counts, captures the first word and raises EV_VAULT_DISAGREE; a write before the
lock stores all three, and after it nothing; an injection inverts one bit of one copy whose companions
agree, and is refused otherwise; a read of FENCE answers when every earlier access has completed (R401,
R403, R410). -/
def Obligations.VaultVotes : Prop :=
  ∀ (s : State) (mst k : Nat) (v : Word), s.m.on = true →
    let w := s.m.vaultMajority k
    let j := bitsOf v.toNat 16 8
    let copy := bitsOf v.toNat 24 2
    let bit : Word := BitVec.ofNat 32 (2 ^ bitsOf v.toNat 0 5)
    let c := s.m.vaultCopies j
    let flip (i : Nat) (x : Word) := if copy = i then x ^^^ bit else x
    let agree := ∀ p ∈ [c.1, c.2.1, c.2.2].zipIdx, p.2 ≠ copy → p.1 = s.m.vaultMajority j
    (vaultOk k = true → s.shows mst 0x02 (0x1000 + 4 * k) →
      let t := (s.m.vaultRead k).1
      s.does (.vaultRead mst k) (t.send (.data mst (wordLE w))) ∧ t.vaultCopies k = (w, w, w) ∧
      (∀ i, i ≠ k → t.vaultCopies i = s.m.vaultCopies i) ∧
      (s.m.vaultCopies k = (w, w, w) → t = s.m) ∧
      (s.m.vaultCopies k ≠ (w, w, w) → ∃ r : Mach, t = r.raise evVaultDisagree ∧
        r.get Fld.VAULT_STATUS_DISAGREE = 1 ∧ r.get Fld.VAULT_DISAGREE_COUNT_COUNT =
          min (s.m.get Fld.VAULT_DISAGREE_COUNT_COUNT + 1) (2 ^ 32 - 1) ∧
        r.get Fld.VAULT_STATUS_FIRST_WORD = (if s.m.is Fld.VAULT_STATUS_DISAGREE
          then s.m.get Fld.VAULT_STATUS_FIRST_WORD else k) ∧
        { s.m with vault := r.vault }.onlyRegs r [Reg.VAULT_STATUS, Reg.VAULT_DISAGREE_COUNT])) ∧
    (vaultOk k = true → s.reaches mst 0x02 (0x1000 + 4 * k) →
      let t := s.m.vaultStore k v
      s.does (.vaultWrite mst k v) t.settled ∧ t.vaultCopies k = (v, v, v) ∧
      (∀ i, i ≠ k → t.vaultCopies i = s.m.vaultCopies i) ∧ t = { s.m with vault := t.vault }) ∧
    (vaultOk k = true → mstOk mst = true → s.m.locked = true →
      s.does (.vaultWrite mst k v) ((s.m.put Fld.VAULT_STATUS_WRITE_DROPPED 1).violate violLocked 2 mst
        (regAddr 0x02 (0x1000 + 4 * k))).resume) ∧
    (s.reaches mst 0x02 8 → v.getLsbD 31 = true → copy < 3 → agree → ∃ t : Mach,
      s.does (.vaultInject mst v) t.settled ∧
      t.vaultCopies j = (flip 0 c.1, flip 1 c.2.1, flip 2 c.2.2) ∧
      (∀ i, i ≠ j → t.vaultCopies i = s.m.vaultCopies i) ∧
      { s.m with vault := t.vault }.onlyRegs t []) ∧
    (s.reaches mst 0x02 8 → v.getLsbD 31 = true → copy = 3 ∨ ¬ agree → ∃ t : Mach,
      s.does (.vaultInject mst v) t.settled ∧ t.get Fld.VAULT_STATUS_INJ_REFUSED = 1 ∧
      s.m.onlyIn t [Fld.VAULT_STATUS_INJ_REFUSED]) ∧
    (s.shows mst 0x01 8 → s.m.drained s.m.nextAccess = true →
      s.does (.protFence mst) (s.m.send (.data mst (wordLE 1)))) ∧
    (s.shows mst 0x01 8 → s.m.drained s.m.nextAccess = false →
      s.does (.protFence mst) { s.m with fences := s.m.fences ++ [(mst, s.m.nextAccess, .data)] }) ∧
    (s.m.fences = [(mst, k, .data)] → s.m.drained k = true →
      s.does .protFenceDone ({ s.m with fences := [] }.send (.data mst (wordLE 1))))

/-! ### Paired operation (spec/14) -/

/-- PossessionChanges. EN = 1 with a valid referee enables the pair, else is refused; EN = 0 leaves it; the
line's level is followed, and an eligible unit takes possession by a decision or after the quiet time, with
its cause recorded; side B releases in a split; a kick, HANDOVER, which needs its confirmation, and
CLEAR_FAULT act alone, two at once are refused; an unkicked watchdog releases (R416, R418 to R421, R432,
R434, R437, R438). -/
def Obligations.PossessionChanges : Prop :=
  ∀ (s : State) (mst cause : Nat) (v : Word) (c : Option Nat), s.m.on = true →
    let m := s.m
    let w := m.wr (Reg.PAIR_CTRL) ((v &&& 0xE00F0000) ||| (m.rd Reg.PAIR_CTRL &&& 0x1FF0FFFF))
    let command := v.toNat % 8
    let confirmed := bitsOf v.toNat 16 16 = 0xA5C3
    let set (p : Pair) : Mach := { m with pair := p }
    let agrees := (v ^^^ m.rd Reg.PAIR_CTRL) &&& 0x600F0000 = 0
    let fresh (p : Pair) : Pair := { Pair.reset with refFailed := p.refFailed }
    let heard (possession : Bool) : Mach := set { m.pair with
      partnerPoss := possession
      announced := if possession then none else m.pair.announced }
    let taken (t : Mach) (k : Nat) := t.pair.poss = true ∧ t.get Fld.PAIR_STATUS_POSS_LOW = 1 ∧
      t.get Fld.PAIR_LAST_CAUSE_DIR = 1 ∧ t.get Fld.PAIR_LAST_CAUSE_CAUSE = k % 2 ^ 8 ∧
      t.pair.grant = none ∧ t.get Fld.PAIR_STATUS_SYNCED = 0
    let released (t : Mach) (k : Nat) := t.pair.poss = false ∧ t.get Fld.PAIR_LAST_CAUSE_DIR = 0 ∧
      t.get Fld.PAIR_LAST_CAUSE_CAUSE = k % 2 ^ 8 ∧ t.pair.announced = some k ∧
      t.get Fld.PAIR_STATUS_SYNCED = 0
    (s.reaches mst 0x15 0 → v.getLsbD 31 = true → m.paired = false →
      (m.vaultMajority 0x30).getLsbD 31 = true →
      s.does (.pairEnable mst v) { w with pair := fresh m.pair }.updProtected.settled) ∧
    (s.reaches mst 0x15 0 → v.getLsbD 31 = true → m.paired = false →
      (m.vaultMajority 0x30).getLsbD 31 = false → ∃ t : Mach,
      s.does (.pairEnable mst v) t.settled ∧ t.paired = false ∧
      t.get Fld.PAIR_STATUS_NO_REFEREE = 1 ∧ m.onlyRegs t [Reg.PAIR_CTRL, Reg.PAIR_STATUS]) ∧
    (s.reaches mst 0x15 0 → m.paired = true → v.getLsbD 31 = false → agrees → ∃ t r : Mach,
      m.onlyRegs t [Reg.PAIR_CTRL] ∧ t.paired = false ∧
      r = (if m.pair.poss then t.recordCause false causeHost else t).allBallotsDropped ∧
      s.does (.pairDisable mst v)
        ({ r with pair := fresh r.pair }.put Fld.PAIR_STATUS_SYNCED 0).updProtected.settled) ∧
    (m.pair.poss = false → m.pair.grant = some cause → m.eligible = true →
      let t := (m.put Fld.PAIR_STATUS_POSS_LOW 0).acquire cause
      s.does .possNRise t ∧ taken t cause) ∧
    (m.pair.poss = false → m.pair.grant = none ∨ m.eligible = false →
      s.does .possNRise (m.put Fld.PAIR_STATUS_POSS_LOW 0)) ∧
    (m.pair.poss = false → s.does .possNFall
      ((set { m.pair with announced := none }).put Fld.PAIR_STATUS_POSS_LOW 1)) ∧
    (m.pair.poss = false → m.is Fld.PAIR_STATUS_POSS_LOW = false → m.eligible = true →
      m.pair.announced = none → s.does .possQuietExpiry (m.acquire m.quietCause) ∧
      taken (m.acquire m.quietCause) m.quietCause) ∧
    (m.pairTalks = true →
      s.does .pairStatusSend (m.send (.pair (.status m.pair.poss m.pair.announced)))) ∧
    (m.pairTalks = true → m.pair.poss = true → m.is Fld.PAIR_CTRL_SIDE = true →
      let t := (((heard true).put Fld.PAIR_STATUS_SPLIT 1).raise evPairSplit).handOver causeSplit
      s.does (.pairStatusReceive true c) t ∧ released t causeSplit) ∧
    (m.pairTalks = true → m.pair.poss = false →
      s.does (.pairStatusReceive false (some cause)) ((heard false).grantTo cause).updProtected) ∧
    (m.pairTalks = true → m.pair.poss = true → s.does (.pairStatusReceive false c)
      (heard false).updProtected) ∧
    (m.pairTalks = true → m.pair.poss = true → m.is Fld.PAIR_CTRL_SIDE = false →
      s.does (.pairStatusReceive true c) (heard true).updProtected) ∧
    (m.pairTalks = true → m.pair.poss = false → s.does (.pairStatusReceive true c)
      (heard true).updProtected ∧ s.does (.pairStatusReceive false none) (heard false).updProtected) ∧
    (m.paired = true → m.pair.poss = true → 0 < m.wdogTicks →
      m.pair.kick + m.wdogTicks ≤ m.time.ticks →
      s.does .pairWdogExpiry (m.handOver causeWdog) ∧ released (m.handOver causeWdog) causeWdog) ∧
    (s.reaches mst 0x15 8 → command = 1 → ∃ t : Mach, s.does (.pairWdogKick mst v) t.settled ∧
      (set { m.pair with kick := m.time.ticks }).onlyRegs t []) ∧
    (s.reaches mst 0x15 8 → command = 2 → confirmed → m.pair.poss = true →
      m.is Fld.PAIR_STATUS_PROTECTED = true → ∃ t : Mach, m.onlyRegs t [] ∧
      s.does (.pairHandover mst v) (t.handOver causeHost).settled ∧
      released (t.handOver causeHost) causeHost) ∧
    (s.reaches mst 0x15 8 → command = 2 →
      ¬ confirmed ∨ m.pair.poss = false ∨ m.is Fld.PAIR_STATUS_PROTECTED = false → ∃ t : Mach,
      s.does (.pairHandover mst v) t.settled ∧ t.get Fld.PAIR_STATUS_CMD_REJECT = 1 ∧
      m.onlyIn t [Fld.PAIR_STATUS_CMD_REJECT]) ∧
    (s.reaches mst 0x15 8 → command ∈ [3, 5, 6, 7] → ∃ t : Mach,
      s.does (.registerWrite mst 0x15 8 v) t.settled ∧ t.get Fld.PAIR_STATUS_CMD_REJECT = 1 ∧
      m.onlyIn t [Fld.PAIR_STATUS_CMD_REJECT]) ∧
    (s.reaches mst 0x15 8 → command = 4 → ∃ t : Mach, m.onlyRegs t [] ∧
      s.does (.pairClearFault mst v) (((if m.pair.poss then t else t.syncLost).put
        Fld.PAIR_STATUS_SELF_FAULTY 0).updProtected).settled)

/-- PartnersAreWatched. Link and power changes show; a mirrored write is performed as PAIR on the standby;
ballots and signatures of the partner are taken or compared; the referees decide as the table of R433 says,
and a frame without the partner's message by what the partner's last signature has stated within 100 µs
(R415, R422, R424 to R426, R430, R433, R436). That a signature message alone states ELIGIBLE is the model's
reading (log entry 22). -/
def Obligations.PartnersAreWatched : Prop :=
  ∀ (s : State) (good : Bool) (slot off e addr : Nat) (v : Word) (bytes : List Byte) (d : RegDesc)
    (is : List Nat) (b : Ballot) (r o : SigMsg) (diff : Option Nat), s.m.on = true →
    let m := s.m
    let noted := m.updPair fun p => { p with
      heard := some m.time.ticks
      partnerEligible := r.eligible
      partnerRefFailed := if r.refereePass then p.partnerRefFailed.filter (· != r.head)
        else insertNat p.partnerRefFailed r.head }
    let shown := noted.putB Fld.PAIR_STATUS_PARTNER_REF_FAIL !noted.pair.partnerRefFailed.isEmpty
    let told := if r.selfFaulty then shown else shown.put Fld.PAIR_STATUS_PARTNER_FAULTY 0
    (m.is Fld.PAIR_STATUS_LINK_UP = false →
      s.does .pairLinkUp ((m.put Fld.PAIR_STATUS_LINK_UP 1).raise evPairLink).updProtected) ∧
    (m.is Fld.PAIR_STATUS_LINK_UP = true →
      let n := ((m.put Fld.PAIR_STATUS_LINK_UP 0).raise evPairLink).allBallotsDropped.updPair fun p =>
        { p with ownSigs := [], partnerSigs := [], mirrorFill := 0 }
      s.does .pairLinkDown (m.pair.ownSigs.foldl (fun m o => m.frameAlone o) n).updProtected) ∧
    s.does (.pairPgChange good) (m.putB Fld.PAIR_STATUS_PARTNER_PG good).updProtected ∧
    (m.pairTalks = true → m.pair.poss = false → mirrorOk (.register slot off e v) = true →
      mirroredReg slot off = true → m.regDenied mstPair slot off true = none →
      findReg slot off = some (d, is) →
      s.does (.pairMirrorWrite (.register slot off e v))
        (m.writeAt mstPair slot off e d v []).watched.settled) ∧
    (m.pairTalks = true → m.pair.poss = false → mirrorOk (.memory addr bytes) = true →
      s.does (.pairMirrorWrite (.memory addr bytes))
        (m.memAccess mstPair addr bytes.length (some bytes) .data).settled) ∧
    (m.pairTalks = true → headOk b.head = true →
      s.does (.ballotReceive b) (if m.pair.poss then m else m.ballotArrives b)) ∧
    (m.pairTalks = true → headOk r.head = true → m.pair.ownSigs.find? (sameFrame r) = some o →
      s.does (.signatureReceive r) ((told.updPair fun p =>
        { p with ownSigs := p.ownSigs.filter fun x => !sameFrame r x }).compareFrame o r)) ∧
    (m.pairTalks = true → headOk r.head = true → m.pair.ownSigs.find? (sameFrame r) = none →
      s.does (.signatureReceive r) (told.updPair fun p => { p with partnerSigs :=
        (p.partnerSigs.filter fun q => q.head != r.head) ++ [r] }).updProtected) ∧
    (m.pair.poss = true → o.refereePass = false → r.refereePass = true →
      let t := m.arbitrate o r diff
      t.pair.poss = false ∧ t.is Fld.PAIR_STATUS_SELF_FAULTY = true ∧
      t.get Fld.PAIR_LAST_CAUSE_CAUSE = causeReferee) ∧
    (m.pair.poss = true → o.refereePass = true → r.refereePass = false →
      m.arbitrate o r diff = m.put Fld.PAIR_STATUS_PARTNER_FAULTY 1) ∧
    (m.pair.poss = false → r.refereePass = true → o.refereePass = false →
      m.arbitrate o r diff = m.put Fld.PAIR_STATUS_SELF_FAULTY 1) ∧
    (m.pair.poss = false → r.refereePass = false → o.refereePass = true →
      m.arbitrate o r diff = if m.pair.partnerPoss then m.grantTo causeReferee else m) ∧
    (r.refereePass = true → o.refereePass = true → m.arbitrate o r diff = if diff.isSome
      then (m.count Fld.PAIR_CNT_UNRESOLVED_COUNT).raise evPairMismatch else m) ∧
    (r.refereePass = false → o.refereePass = false → m.arbitrate o r diff = m.raise evPairMismatch) ∧
    (let told := m.pair.partnerEligible = true ∧ ∃ k, m.pair.heard = some k ∧ m.time.ticks ≤ k + 25000
     (m.pair.poss = true → o.refereePass = false → told →
       m.frameAlone o = (m.put Fld.PAIR_STATUS_SELF_FAULTY 1).handOver causeReferee) ∧
     (m.pair.poss = false ∨ o.refereePass = true ∨ ¬ told → m.frameAlone o = m))

/-! ### Touch keys (spec/15) -/

/-- TouchScansRun. EN = 1 with settings in range starts the calibration at an enabled hop (log entry 9),
whose end records every element's counts and every hop's noise, gives the enabled elements their signal as
their baseline, releases all that are not in FAULT and starts the scans; a paced scan or the test that takes
its place starts; its end records the noise and may hop; an element pressed for DEB_ON scans is down; a wake
scan in Keep follows its channels, and a touch ends Keep (R443 to R445, R447, R450, R452). REBASE and
REBASE_ALL mark elements for the next scan; GO and TEST_PERIOD ask for tests, whose end judges what was
measured, shows the result, marks the failing channels and puts their elements in FAULT; EN = 0 ends a test
that runs; a read of CHANGE removes its oldest entry (R445, R449 to R451). That a test cut short sets DONE
and raises its event is the model's choice (log entry 9). -/
def Obligations.TouchScansRun : Prop :=
  (∀ (s : State) (mst e kind : Nat) (noise noiseNext : List Int) (v cfg : Word) (rest : List Nat)
     (counts : List (Nat × Nat)) (cal : TouchCalibration) (cfgs : List (Nat × Word)),
     let m := s.m
     let w := m.wr (Reg.TOUCH_CTRL) ((v &&& 0xC03F3F00) ||| (m.rd Reg.TOUCH_CTRL &&& 0x3FC0C0FF))
     let set (t : Touch) : Mach := { m with touch := t }
     let first := m.touchHops.headD 0
     let es := m.touchElems cal.counts
     let sample (e : Nat) := let c := tabGet 0 (tabGet [] cal.counts e) first % 65536
       if m.touchMatrix then 65535 - c else c
     let ready := m.on = true ∧ m.is Fld.TOUCH_STATUS_SCANNING = true ∧ m.touch.calibrating = false ∧
       m.touch.scan = none ∧ m.touch.test = none
     let delta : Int := signedOf 16 (m.get (Fld.TOUCH_ELEM_STATUS_DELTA e))
     let woken := m.wakeScan counts
     (s.reaches mst 0x16 0 → v.getLsbD 31 = true → m.is Fld.TOUCH_CTRL_EN = false →
       w.touchRangeOk = true → w.touchTooLong = false → ∃ t : Mach,
       s.does (.touchEnable mst v) t.settled ∧ t.is Fld.TOUCH_CTRL_EN = true ∧
       t.touch = { m.touch with calibrating := true } ∧
       t.get Fld.TOUCH_STATUS_HOP = (if m.touchHops.contains (m.get Fld.TOUCH_STATUS_HOP)
         then m.get Fld.TOUCH_STATUS_HOP else first) ∧
       t.rd Reg.TOUCH_STATUS >>> 3 = m.rd Reg.TOUCH_STATUS >>> 3 ∧
       (set t.touch).onlyRegs t [Reg.TOUCH_CTRL, Reg.TOUCH_STATUS]) ∧
     (s.reaches mst 0x16 0 → v.getLsbD 31 = true → m.is Fld.TOUCH_CTRL_EN = false →
       w.touchRangeOk = false ∨ w.touchTooLong = true → ∃ t : Mach,
       s.does (.touchEnable mst v) t.settled ∧ t.is Fld.TOUCH_CTRL_EN = false ∧
       t.get Fld.TOUCH_STATUS_TIMING_REJECT = 1 ∧
       m.onlyRegs t [Reg.TOUCH_CTRL, Reg.TOUCH_STATUS]) ∧
     (m.on = true → m.touch.calibrating = true → m.is Fld.TOUCH_CTRL_EN = true →
       m.touch.scan = none → m.touch.test = none → ∃ t : Mach,
       s.does (.touchCalibrationDone cal) (t.raiseTouch (m.elemStates es)) ∧
       t.get Fld.TOUCH_STATUS_SCANNING = 1 ∧ t.touch.calibrating = false ∧
       (∀ k ∈ m.touchHops, ∀ l, tabFind cal.noise k = some l →
         t.get (Fld.TOUCH_HOP_NOISE k) = m.listenNoise l) ∧
       ∀ x ∈ es, (t.elem x).cal = tabGet [] cal.counts x ∧ (t.elem x).down = false ∧
         (m.get (Fld.TOUCH_ELEM_STATUS_STATE x) ≠ stFault →
           t.get (Fld.TOUCH_ELEM_STATUS_STATE x) = stReleased) ∧
         (x ∈ (m.scanned m.elemCfgs).map Prod.fst →
           t.get (Fld.TOUCH_ELEM_DATA_SIGNAL x) = sample x ∧
           t.get (Fld.TOUCH_ELEM_DATA_BASELINE x) = sample x)) ∧
     (ready → m.touch.go = none → m.touch.auto = [] →
       s.does .touchScanStart (set { m.touch with scan := some m.elemCfgs })) ∧
     (ready → m.touch.go = some kind → s.does .touchScanStart
       ((set { m.touch with go := none, test := some kind }).put Fld.TOUCH_STATUS_TEST_BUSY 1)) ∧
     (ready → m.touch.go = none → m.touch.auto = kind :: rest → s.does .touchScanStart
       ((set { m.touch with auto := rest, test := some kind }).put Fld.TOUCH_STATUS_TEST_BUSY 1)) ∧
     (m.on = true → m.touch.scan = some cfgs → ∃ t : Mach,
       s.does (.touchScanEnd counts noise noiseNext)
         (t.raiseTouch (m.elemStates ((cfgs.filter fun p => decide (p.1 < m.touchCount)).map
           Prod.fst))).touchHop ∧
       t.touch.scan = none ∧
       t.get (Fld.TOUCH_HOP_NOISE (m.get Fld.TOUCH_STATUS_HOP)) = m.listenNoise noise) ∧
     ((m.elem e).down = false → (m.elem e).rebase = false → (bitsOf cfg.toNat 12 12 : Int) ≤ delta →
       m.get Fld.TOUCH_DEB_DEB_ON ≤ (m.elem e).onRun + 1 → ((m.elemStep e cfg).elem e).down = true) ∧
     (m.pwr.phase = .keep → woken.2 = false →
       s.does (.touchWakeScan counts) woken.1 ∧ woken.1 = set woken.1.touch) ∧
     (m.pwr.phase = .keep → woken.2 = true → s.does (.touchWakeScan counts) (woken.1.keepExit 3))) ∧
  (∀ (s : State) (mst e st kind : Nat) (v : Word) (readings : List TouchReading) (refOpen : Bool)
     (r : List (Nat × Nat)), s.m.on = true →
     let m := s.m
     let set (t : Touch) : Mach := { m with touch := t }
     let x := m.get (Fld.TOUCH_ELEM_INDEX_INDEX mst)
     let failed := (readings.filter fun r => (m.testChannels kind).contains r.channel).any
       (readingFails kind)
     let ended (t : Mach) := t.get Fld.TOUCH_STATUS_TEST_BUSY = 0 ∧
       t.get Fld.TOUCH_TEST_STATUS_DONE = 1 ∧ t.touch.test = none
     let asked := bitsOf v.toNat 28 2
     (s.reaches mst 0x16 0x80 → v.getLsbD 0 = true → v.getLsbD 1 = false → x < m.touchCount →
       ∃ t : Mach, s.does (.touchRebase mst v) t.settled ∧
       t.elem x = { m.elem x with rebase := true } ∧ (∀ k, k ≠ x → t.elem k = m.elem k) ∧
       (set t.touch).onlyRegs t []) ∧
     (s.reaches mst 0x16 0x80 → v.getLsbD 0 = false → v.getLsbD 1 = true →
       m.is Fld.TOUCH_CTRL_EN = true → ∃ t : Mach, s.does (.touchRebaseAll mst v) t.settled ∧
       t.touch.calibrating = true ∧ t.get Fld.TOUCH_STATUS_SCANNING = 0 ∧
       (∀ p ∈ m.elemCfgs, (t.elem p.1).rebase = true) ∧
       (set t.touch).onlyIn t [Fld.TOUCH_STATUS_SCANNING]) ∧
     (s.reaches mst 0x16 0x50 → v.getLsbD 31 = true → ∃ t : Mach,
       s.does (.touchTestGo mst v) t.settled ∧
       t.touch = (if m.is Fld.TOUCH_STATUS_TEST_BUSY then m.touch
         else { m.touch with go := some (if asked = 3 then 0 else asked) }) ∧
       (set t.touch).onlyRegs t [Reg.TOUCH_TEST_CTRL]) ∧
     (m.get Fld.TOUCH_TEST_CTRL_TEST_PERIOD ≠ 0 → m.is Fld.TOUCH_CTRL_EN = true →
       s.does .touchTestPeriod (set { m.touch with auto := m.touch.auto ++ [0, 1] })) ∧
     (m.touch.test = some kind → kind = 2 → m.refcapRefused = true ∨ refOpen = true → ∃ t : Mach,
       s.does (.touchTestDone readings refOpen) (t.raise evTouchTestDone) ∧ ended t ∧
       t.get Fld.TOUCH_TEST_STATUS_RESULT = 3 ∧ t.touch = { m.touch with test := none } ∧
       (set t.touch).onlyRegs t [Reg.TOUCH_STATUS, Reg.TOUCH_TEST_STATUS]) ∧
     (m.touch.test = some kind → kind ≠ 2 ∨ (m.refcapRefused = false ∧ refOpen = false) →
       ∃ t : Mach, s.does (.touchTestDone readings refOpen) (t.raise evTouchTestDone) ∧ ended t ∧
       t.get Fld.TOUCH_TEST_STATUS_RESULT = (if failed then 2 else 1) ∧
       ∀ k, k < m.touchCount →
         (t.elemFails k = true → t.get (Fld.TOUCH_ELEM_STATUS_STATE k) = stFault) ∧
         (t.elemFails k = false → t.get (Fld.TOUCH_ELEM_STATUS_STATE k) ≠ stFault)) ∧
     (s.reaches mst 0x16 0 → v.getLsbD 31 = false → (v ^^^ m.rd Reg.TOUCH_CTRL) &&& 0x403F3F00 = 0 →
       m.is Fld.TOUCH_CTRL_EN = true → m.touch.test = some kind → ∃ t : Mach,
       s.does (.registerWrite mst 0x16 0 v) (t.raise evTouchTestDone).settled ∧ ended t ∧
       t.is Fld.TOUCH_CTRL_EN = false ∧ t.get Fld.TOUCH_STATUS_SCANNING = 0 ∧
       t.touch.calibrating = false ∧ t.touch.scan = none ∧
       { set t.touch with freeCount := m.freeCount + 1 }.onlyRegs t
         [Reg.TOUCH_CTRL, Reg.TOUCH_STATUS, Reg.TOUCH_TEST_STATUS]) ∧
     (s.shows mst 0x16 0x84 → m.touch.change = (e, st) :: r → e < 2 ^ 10 → st < 4 →
       s.does (.touchChangeRead mst)
         ((set { m.touch with change := r, changeOverflow := false }).send (.data mst
           (wordLE (BitVec.ofNat 32
             (2 ^ 31 + m.touch.changeOverflow.toNat * 2 ^ 30 + st * 2 ^ 24 + e)))))))

/-! ### Compression and check units (spec/16) -/

/-- JobsRun. SUBMIT queues the staged descriptor and gives its ticket, 0 where the queue is full; the engine
starts the next job round robin; a job ends as its descriptor, its operation and its context say, and its
end writes the record, counts, advances DONE_SEQ and frees the queue (R456, R457, R459, R460, R461). SUBMIT
queues a descriptor with its ticket; a CRC, an ALIVE or a GUARD job is verified step by step and waits to
end with its code; its end writes the record, shows the code, and then raises the events, that of a guarded
command among them; data written to an idle unit run through its CRC; LOAD_INIT and RESYNC act (R468 to
R475). -/
def Obligations.JobsRun : Prop :=
  (∀ (s : State) (mst q consumed : Nat) (v : Word) (j : QueuedJob) (parts : List (List Byte)) (fin : Bool)
     (c : DeflCtx) (code : Nat) (n : DeflEnd), s.m.on = true →
     let m := s.m
     let k := bitsOf v.toNat 0 4
     let job : QueuedJob := ⟨(m.deflQ k).nextSeq, mst, m.staged16 (Reg.DEFL_STAGE mst)⟩
     let d := deflDesc j.desc
     let l := m.deflLoad d
     let started : Mach := (m.updDefl fun x => { x with last := q }).updDeflQ q fun r =>
       { r with jobs := r.jobs.drop 1, running := some j }
     let running := q < 16 ∧ (m.deflQ q).running = some j
     let ends (t : Mach) := s.does (.deflJobDone q parts fin consumed) t
     (s.reaches mst 0x17 0x40 → (m.deflQ k).depth < 16 → ∃ t : Mach,
       s.does (.deflSubmit mst v) t.settled ∧
       t.get (Fld.DEFL_TICKET_TICKET mst) = 2 ^ 31 + k * 2 ^ 24 + (m.deflQ k).nextSeq % 65536 ∧
       t.deflQ k = { m.deflQ k with
         jobs := (m.deflQ k).jobs ++ [job], nextSeq := ((m.deflQ k).nextSeq + 1) % 65536 } ∧
       (∀ i, i ≠ k → t.deflQ i = m.deflQ i) ∧
       { m with defl := t.defl }.onlyRegs t [Reg.DEFL_TICKET mst]) ∧
     (s.reaches mst 0x17 0x40 → 16 ≤ (m.deflQ k).depth → ∃ t : Mach,
       s.does (.deflSubmit mst v) t.settled ∧ t.get (Fld.DEFL_TICKET_TICKET mst) = 0 ∧
       m.onlyRegs t [Reg.DEFL_TICKET mst]) ∧
     (m.deflNext = some (q, j) → byteAt j.desc 0 = 0 → s.does .deflCompress started) ∧
     (m.deflNext = some (q, j) → byteAt j.desc 0 ≠ 0 → s.does .deflDecompress started) ∧
     (running → d.ok j.desc = false → ends (m.deflEnd q j d ⟨dDesc, 0, 0, 0⟩)) ∧
     (running → d.ok j.desc = true → d.nbc = true →
       ends (if d.op = 0 then m.deflNbcIn q j d parts consumed else m.deflNbcOut q j d)) ∧
     (running → d.ok j.desc = true → d.nbc = false → l.2 = .error code →
       ends (l.1.deflEnd q j d ⟨code, 0, 0, 0⟩)) ∧
     (running → d.ok j.desc = true → d.nbc = false → l.2 = .ok c → ends (if d.op = 0
       then l.1.deflCompress q j d c (parts.headD []) (parts.drop 1) fin consumed
       else l.1.deflInflate q j d c consumed)) ∧
     (q < 16 →
       let w := m.memWrite mstDefl (d.status % 2 ^ 40) (toLE 4 (ticketOf q j.seq) ++
         [BitVec.ofNat 8 n.code, BitVec.ofNat 8 n.flags] ++ toLE 2 d.count ++ toLE 4 n.consumed ++
         toLE 4 n.produced)
       let t := m.deflEnd q j d n
       (t.deflQ q).running = none ∧ t.get (Fld.DEFL_Q_STATUS_DONE_SEQ q) = j.seq % 2 ^ 16 ∧
       t.get Fld.DEFL_CNT_JOBS_COUNT = min (w.get Fld.DEFL_CNT_JOBS_COUNT + 1) (2 ^ 32 - 1) ∧
       w.sameBytes t)) ∧
  (∀ (s : State) (mst u code : Nat) (v : Word) (j : QueuedJob) (bytes : List Byte) (x : CheckRun),
     s.m.on = true → unitOk u = true →
     let m := s.m
     let k := bitsOf v.toNat 0 3
     let job : QueuedJob := ⟨(m.checkUnit k).nextSeq, mst, m.staged16 (Reg.CHECK_STAGE mst)⟩
     let d := checkDesc j.desc
     let first := if d.flags.testBit 0 then m.checkInit u else m
     let r := first.checkRead j d
     let fed := r.1.checkFeed u bytes
     let bad := d.flags.testBit 1 && fed.checkResult u != d.expect
     let msg := m.checkMessage u j d
     let pairs := guardPairs msg.2.2.1
     let written := (msg.1.checkPassed u (msg.2.2.2.getD 0)).guardWrite u j pairs
     let idle := m.checkBusy u = false
     let value (t : Mach) (n : Nat) := t.get (Fld.CHECK_U_VALUE_VALUE u) = n % 2 ^ 32 ∧
       m.onlyRegs t [Reg.CHECK_U_VALUE u]
     (s.reaches mst 0x18 0x40 → (m.checkUnit k).depth < 8 → ∃ t : Mach,
       s.does (.checkSubmit mst v) t.settled ∧
       t.get (Fld.CHECK_TICKET_TICKET mst) = 2 ^ 31 + k * 2 ^ 24 + (m.checkUnit k).nextSeq % 65536 ∧
       t.checkUnit k = { m.checkUnit k with
         jobs := (m.checkUnit k).jobs ++ [job], nextSeq := ((m.checkUnit k).nextSeq + 1) % 65536 } ∧
       (∀ i, i ≠ k → t.checkUnit i = m.checkUnit i) ∧
       { m with checks := t.checks }.onlyRegs t [Reg.CHECK_TICKET mst]) ∧
     (s.reaches mst 0x18 0x40 → 8 ≤ (m.checkUnit k).depth → ∃ t : Mach,
       s.does (.checkSubmit mst v) t.settled ∧ t.get (Fld.CHECK_TICKET_TICKET mst) = 0 ∧
       m.onlyRegs t [Reg.CHECK_TICKET mst]) ∧
     (m.checkNext u (fun n => n != 1 && n != 2) = some j → d.ok j.desc = false →
       s.does (.checkJobCrc u) (m.checkRan u j cDesc none)) ∧
     (m.checkNext u (fun n => n != 1 && n != 2) = some j → d.ok j.desc = true → r.2 = .error code →
       s.does (.checkJobCrc u) (r.1.checkRan u j code none)) ∧
     (m.checkNext u (fun n => n != 1 && n != 2) = some j → d.ok j.desc = true → r.2 = .ok bytes →
       s.does (.checkJobCrc u) (fed.checkRan u j (if bad then cMismatch else cOk) none)) ∧
     (m.checkNext u (· == 1) = some j → s.does (.checkJobAlive u) ((if msg.2.1 = cOk
       then msg.1.checkPassed u (msg.2.2.2.getD 0) else msg.1).checkRan u j msg.2.1 msg.2.2.2)) ∧
     (m.checkNext u (· == 2) = some j → msg.2.1 ≠ cOk →
       s.does (.checkJobGuard u) (msg.1.checkRan u j msg.2.1 msg.2.2.2)) ∧
     (m.checkNext u (· == 2) = some j → msg.2.1 = cOk →
       (∃ p ∈ pairs, (msg.1.guardBad j.mst p.1).isSome = true) →
       s.does (.checkJobGuard u) ((msg.1.guardDeny j.mst pairs).checkRan u j cDenied msg.2.2.2)) ∧
     (m.checkNext u (· == 2) = some j → msg.2.1 = cOk →
       (∀ p ∈ pairs, msg.1.guardBad j.mst p.1 = none) → (written.checkUnit u).jobs.head? = some j →
       s.does (.checkJobGuard u) (written.checkRan u j cOk msg.2.2.2 true)) ∧
     ((m.checkUnit u).running = some x →
       let w := m.memWrite x.job.mst (checkDesc x.job.desc).status (toLE 4 (ticketOf u x.job.seq) ++
         [BitVec.ofNat 8 x.code, 0] ++ toLE 2 x.alive ++ toLE 4 x.result ++
         wordLE (m.rd (Reg.CHECK_U_VALUE u)))
       let event (on : Bool) (k : Nat) (t : Mach) : Mach := if on then t.raise k else t
       ∃ t e : Mach, s.does (.checkJobDone u) (event (x.code != cOk) evCheckFail e) ∧
       (let n := event x.guarded evCheckGuard
           (event ((checkDesc x.job.desc).flags.testBit 2) evCheckDone t)
        e = if x.code = cOk then n else n.count (Fld.CHECK_U_CNT_FAIL_COUNT u)) ∧
       (t.checkUnit u).running = none ∧ t.get (Fld.CHECK_U_LAST_CODE u) = x.code % 2 ^ 8 ∧
       t.get (Fld.CHECK_U_LAST_SEQ u) = x.job.seq % 2 ^ 16 ∧
       t.get (Fld.CHECK_U_CNT_FAIL_COUNT u) = w.get (Fld.CHECK_U_CNT_FAIL_COUNT u) ∧ w.sameBytes t) ∧
     (s.reaches mst 0x18 (unitOff u 0x18) → idle → ∃ t : Mach,
       s.does (.checkDataWrite mst u v) t.settled ∧
       value t ((m.crcForm u).bytes (m.checkValue u) (wordLE v))) ∧
     (s.reaches mst 0x18 (unitOff u 0x1C) → idle → ∃ t : Mach,
       s.does (.checkData8Write mst u v) t.settled ∧
       value t ((m.crcForm u).byte (m.checkValue u) (v.setWidth 8))) ∧
     (s.reaches mst 0x18 (unitOff u 0x20) → idle → v.getLsbD 0 = true → v.getLsbD 1 = false →
       ∃ t : Mach, s.does (.checkLoadInit mst u v) t.settled ∧ value t (m.crcForm u).init) ∧
     (s.reaches mst 0x18 (unitOff u 0x20) → idle → v.getLsbD 0 = false → v.getLsbD 1 = true →
       ∃ t : Mach, s.does (.checkResync mst u v) t.settled ∧
       t.get (Fld.CHECK_U_ALIVE_VALID u) = 0 ∧ m.onlyIn t [Fld.CHECK_U_ALIVE_VALID u]))

/-! ### Events and monitor channels (spec/03, spec/17) -/

/-- EventsAndMonitors. A raise sets the source's latch, and its alarm latch where masked in, marks every
line that follows the source, sends a message where it is routed to a free vector, and is counted; a
reserved source is never raised; a write of DOORBELL raises the sources it names; the end of a pulse frees
its ball (R28, R478, R480 to R483). A sample of a channel that is not frozen shows as its last, widens its
range and counts in its bin, and above the threshold of an alarm sets its bit, with EV_MON_ALARM when it was
not set; the load channels take theirs each millisecond; CLEAR and a write of CFG empty the channel (R484 to
R486). -/
def Obligations.EventsAndMonitors : Prop :=
  ((∀ (m : Mach) (src : Nat), reservedSource src = true → m.raise src = m) ∧
   (∀ (m : Mach) (src : Nat), reservedSource src = false →
     let t := m.raise src
     let vector := m.get (Fld.EVT_ROUTE_VECTOR src)
     t.bit (Fld.EVT_LATCH_RAISED (src / 32)) (src % 32) = true ∧
     (m.bit (Fld.EVT_ALARM_MASK_MASK (src / 32)) (src % 32) = true →
       t.bit (Fld.EVT_ALARM_LATCH_LATCH (src / 32)) (src % 32) = true) ∧
     (∀ p ∈ m.linesOf src, t.bit (Fld.SEQ_EVT_PEND_PEND p.1) p.2 = true) ∧
     (m.is (Fld.EVT_ROUTE_MSIX_EN src) = true → m.pcie.linkUp = true → m.pcie.d3hot = false →
       (m.vec vector).pendingBit = false → (m.vec vector).masked = false →
       .msix vector ∈ t.sent) ∧
     t.get (Fld.EVT_CNT_RAISED src) = min (m.get (Fld.EVT_CNT_RAISED src) + 1) (2 ^ 16 - 1) ∧
     m.sameBytes t) ∧
   (∀ (s : State) (mst : Nat) (v : Word), s.reaches mst 0x03 8 → ∃ t : Mach, s.m.onlyRegs t [] ∧
     s.does (.evtDoorbellWrite mst v) (forEach ((List.range 15).filter fun d => v.getLsbD d) t
       fun m d => m.raise (0xF0 + d)).settled) ∧
   (∀ (s : State) (k : Nat), s.m.on = true → fourOk k = true → ∃ t : Mach,
     s.does (.evtOutPulseEnd k) t ∧ tabGet [] t.pins.evtOut k = [] ∧
     (∀ j, j ≠ k → tabGet [] t.pins.evtOut j = tabGet [] s.m.pins.evtOut j) ∧
     t = { s.m with pins := { s.m.pins with evtOut := t.pins.evtOut } })) ∧
  (∀ (s : State) (mst c n dramLoad : Nat) (v : Word), s.m.on = true → monOk c = true →
     let m := s.m
     let t := m.monTake c n
     let x := min n (2 ^ 32 - 1)
     let b := monBin (m.is (Fld.MON_CH_CFG_MODE c)) (m.get (Fld.MON_CH_BASE_BASE c))
       (m.get (Fld.MON_CH_CFG_SHIFT c)) x
     let up (f : Fld) := t.get f = min (m.get f + 1) (2 ^ 32 - 1)
     let keys := [Reg.MON_CH_MIN c, Reg.MON_CH_MAX c, Reg.MON_CH_COUNT c, Reg.MON_CH_LAST c] ++
       (List.range 64).map (Reg.MON_CH_BIN c)
     let empty (t : Mach) := t.get (Fld.MON_CH_MIN_MIN c) = 2 ^ 32 - 1 ∧
       t.get (Fld.MON_CH_MAX_MAX c) = 0 ∧ t.get (Fld.MON_CH_COUNT_COUNT c) = 0 ∧
       t.get (Fld.MON_CH_LAST_LAST c) = 0 ∧ ∀ i, i < 64 → t.get (Fld.MON_CH_BIN_COUNT c i) = 0
     (m.is (Fld.MON_CH_CTRL_FREEZE c) = false → t.get (Fld.MON_CH_LAST_LAST c) = x ∧
       t.get (Fld.MON_CH_MIN_MIN c) = min x (m.get (Fld.MON_CH_MIN_MIN c)) ∧
       t.get (Fld.MON_CH_MAX_MAX c) = max x (m.get (Fld.MON_CH_MAX_MAX c)) ∧
       up (Fld.MON_CH_COUNT_COUNT c) ∧ up (Fld.MON_CH_BIN_COUNT c b) ∧
       ∀ i, i < 64 → i ≠ b → t.get (Fld.MON_CH_BIN_COUNT c i) = m.get (Fld.MON_CH_BIN_COUNT c i)) ∧
     (m.is (Fld.MON_CH_CTRL_FREEZE c) = true → t = m) ∧
     (m.is (Fld.MON_CH_CTRL_FREEZE c) = false → m.is (Fld.MON_CH_ALARM_EN c) = true →
       m.get (Fld.MON_CH_ALARM_THRESH c) < x → t.bit Fld.MON_STATUS_ALARM c = true ∧ ∃ r : Mach,
         t = (if m.bit Fld.MON_STATUS_ALARM c then r else r.raise evMonAlarm) ∧
         m.onlyRegs r (Reg.MON_STATUS :: keys)) ∧
     (m.is (Fld.MON_CH_CTRL_FREEZE c) = false →
       m.is (Fld.MON_CH_ALARM_EN c) = false ∨ x ≤ m.get (Fld.MON_CH_ALARM_THRESH c) →
       m.onlyRegs t keys) ∧
     (dramLoad ≤ 100 → s.does (.monPeriodicSample dramLoad)
       ((m.monSampleAll 12 m.fabricLoad).monSampleAll 13 dramLoad)) ∧
     (s.reaches mst 0x04 (0x108 + 0x20 * c) → v.getLsbD 0 = true → ∃ t : Mach,
       s.does (.monClear mst c v) t.settled ∧ empty t ∧
       t.is (Fld.MON_CH_CTRL_FREEZE c) = v.getLsbD 1 ∧ m.onlyRegs t (Reg.MON_CH_CTRL c :: keys)) ∧
     (s.reaches mst 0x04 (0x100 + 0x20 * c) → ∃ t : Mach,
       s.does (.monCfgWrite mst c v) t.settled ∧ empty t ∧
       t.rd (Reg.MON_CH_CFG c) = (v &&& 0x9F9F0FFF) ||| (m.rd (Reg.MON_CH_CFG c) &&& 0x6060F000) ∧
       m.onlyRegs t (Reg.MON_CH_CFG c :: keys)))
end

