-- ==== Sys2Proof/Laws/Exec.lean ====
section
/-! SUPPORT. How a command's effect on the block becomes its outcome: one lemma per form of meaning. -/

namespace Sys2Proof.Machine

theorem always_next (s : State) (f : Mach → Mach) : always s f = .next (s.becomes (f s.m)) := rfl

theorem onCore_next {s : State} {f : Mach → Mach} (h : s.m.on = true) :
    onCore s f = .next (s.becomes (f s.m)) := by simp [onCore, always, State.becomes, h]

theorem onCore_off {s : State} {f : Mach → Mach} (h : s.m.on = false) : onCore s f = .next s := by
  simp [onCore, always, h]

theorem guarded_true (o : Out) : guarded true o = o := rfl

theorem guarded_of {wf : Bool} {o : Out} (h : wf = true) : guarded wf o = o := by simp [guarded, h]

theorem guarded_false (o : Out) : guarded false o = .fault .illFormed := rfl

/-- A form over the module alone answers a next state with the same queue. -/
theorem onCore_ok (s : State) (f : Mach → Mach) : ∃ m, onCore s f = .next (s.becomes m) := ⟨_, rfl⟩

theorem onFabric_next {s : State} {f : Mach → Mach} (h : s.m.on = true) :
    onFabric s f = .next (s.becomes (f s.m).settled) := onCore_next h

theorem onSeq_next {n : Nat} {s : State} {f : Mach → Mach} (hn : seqOk n = true) (h : s.m.on = true) :
    onSeq n s f = .next (s.becomes (f s.m)) := by rw [onSeq, guarded_of hn, onCore_next h]

/-- An admitted write of a register with an entry: the write, its mirroring, and the watches. -/
theorem Mach.regWrite_admitted {m : Mach} {mst slot off e : Nat} {d : RegDesc} (v : Word)
    (ha : m.regDenied mst slot off true = none) (hk : m.standbyDrops mst slot off = false)
    (hr : m.regAt mst slot off = some (d, e)) :
    (m.regWrite mst slot off v).1 =
      ((m.writeAt mst slot off e d v []).mirrorReg m mst slot off e v).watched := by
  simp [Mach.regWrite, Mach.regWriteAux, ha, Mach.regStore, hk, hr, Mach.watched]

/-- Where nothing waits, to settle is to run the watches. -/
theorem Mach.settled_of_none_held {m : Mach} (h : m.watched.dram.held = []) : m.settled = m.watched := by
  simp [Mach.settled, Mach.resume, h]

/-- A row that writes a register, with a value that spells it. -/
theorem writeRow_next {s : State} {wf : Bool} {mst slot off e : Nat} {d : RegDesc} {v : Word}
    {spells : Mach → Bool} (hw : wf = true) (h : s.reaches mst slot off)
    (hs : spells s.m = true) (hr : s.m.regAt mst slot off = some (d, e)) :
    writeRow wf mst slot off v spells s = .next (s.becomes
      ((s.m.writeAt mst slot off e d v []).mirrorReg s.m mst slot off e v).settled) := by
  rw [writeRow, guarded_of (by simp [h.master, hw]), onCore_next h.on]
  have hw := Mach.regWrite_admitted v h.admitted h.kept hr
  rw [Mach.regWrite] at hw
  simp [hs, Mach.regIssue, h.first, hw, Mach.settled]

/-- A sequencer instruction that is about to issue acts. -/
theorem onSeq_issue {s : State} {n : Nat} {op : SeqOp} {m : Mach} (f : Mach → Mach)
    (h : s.issues n op m) : onSeq n s (fun m => m.seqIssue n op f) = .next (s.becomes (f m)) := by
  obtain ⟨w, hf, hd⟩ := h.word
  rw [onSeq_next h.here h.on]
  simp [Mach.seqIssue, Mach.seqIssueIf, h.ready, h.clear, hf, hd]

end Sys2Proof.Machine
end

