-- ==== Sys2Proof/Laws/Memory.lean ====
section
/-! SUPPORT. Memory: what a read gives after a store, and that every operation that changes memory
keeps its canonical form. -/

namespace Sys2Proof.Machine

/-! ### One byte -/

theorem memGet_memSet (l : List Host.Cell) (a c : Nat) (b : Byte) (h : Memory.wf l = true) :
    memGet (memSet l a b) c = if a = c then b else memGet l c := by
  induction l with
  | nil =>
    have e : memSet [] a b = if b = 0#8 then [] else [(a, b)] := rfl
    rw [e]
    split <;> by_cases hc : a = c <;> simp_all [memGet]
  | cons e r ih =>
    obtain ⟨x, y⟩ := e
    have hr : Memory.wf r = true := by
      cases r with
      | nil => rfl
      | cons e' r' => obtain ⟨x', y'⟩ := e'; simp [Memory.wf] at h; exact h.2
    have low : ∀ d, d ≤ x → memGet r d = 0 := by
      clear ih hr
      induction r generalizing x y with
      | nil => intros; rfl
      | cons e' r' ih' =>
        obtain ⟨x', y'⟩ := e'
        simp only [Memory.wf, Bool.and_eq_true, decide_eq_true_eq] at h
        intro d hd
        have : x' ≠ d := by omega
        simp only [memGet, this, if_false]
        exact ih' x' y' h.2 d (by omega)
    simp only [memSet]
    split
    · rename_i h1
      by_cases hb : b = 0
      · simp only [hb, if_true]
        by_cases hc : a = c
        · subst hc
          have : x ≠ a := by omega
          simp [memGet, this, low a (by omega)]
        · simp [hc]
      · simp only [hb, if_false, memGet]
    · split
      · rename_i h1 h2; subst h2
        by_cases hb : b = 0
        · by_cases hc : a = c
          · subst hc; simp [hb, low a (Nat.le_refl _)]
          · simp [hb, hc, memGet]
        · rw [if_neg hb]; by_cases hc : a = c <;> simp [hc, memGet]
      · rename_i h1 h2
        simp only [memGet, ih hr]
        by_cases hx : x = c
        · subst hx; simp [h2]
        · simp [hx]

/-- Every listed address is above a bound. -/
def memAbove (n : Nat) (l : List Host.Cell) : Prop := ∀ c ∈ l, n < c.1

theorem memWf_cons {x : Nat} {y : Byte} {r : List Host.Cell} :
    Memory.wf ((x, y) :: r) = true ↔ y ≠ 0 ∧ memAbove x r ∧ Memory.wf r = true := by
  induction r generalizing x y with
  | nil => simp [Memory.wf, memAbove]
  | cons e r ih =>
    obtain ⟨x', y'⟩ := e
    simp only [Memory.wf, Bool.and_eq_true, bne_iff_ne, ne_eq, decide_eq_true_eq, memAbove,
      List.mem_cons, forall_eq_or_imp]
    constructor
    · rintro ⟨⟨h1, h2⟩, h3⟩
      refine ⟨h1, ⟨h2, fun c hc => ?_⟩, h3⟩
      have := (ih.1 h3).2.1 c hc
      omega
    · rintro ⟨h1, ⟨h2, _⟩, h3⟩
      exact ⟨⟨h1, h2⟩, h3⟩

theorem memAbove_memSet {n a : Nat} {b : Byte} {l : List Host.Cell} (h : memAbove n l) (ha : n < a) :
    memAbove n (memSet l a b) := by
  induction l with
  | nil => by_cases hb : b = 0 <;> simp [memSet, memAbove, hb, ha]
  | cons e r ih =>
    obtain ⟨x, y⟩ := e
    have hx : n < x := h (x, y) (by simp)
    have hr : memAbove n r := fun c hc => h c (by simp [hc])
    simp only [memSet]
    split
    · split
      · exact h
      · intro c hc
        rcases List.mem_cons.1 hc with rfl | hc
        · exact ha
        · exact h c hc
    · split
      · split
        · exact hr
        · intro c hc
          rcases List.mem_cons.1 hc with rfl | hc
          · exact ha
          · exact hr c hc
      · intro c hc
        rcases List.mem_cons.1 hc with rfl | hc
        · exact hx
        · exact ih hr c hc

theorem memSet_wf (l : List Host.Cell) (a : Nat) (b : Byte) (h : Memory.wf l = true) :
    Memory.wf (memSet l a b) = true := by
  induction l with
  | nil =>
    have e : memSet [] a b = if b = 0#8 then [] else [(a, b)] := rfl
    rw [e]
    split <;> simp_all [Memory.wf]
  | cons e r ih =>
    obtain ⟨x, y⟩ := e
    obtain ⟨h1, h2, h3⟩ := memWf_cons.1 h
    simp only [memSet]
    split
    · rename_i hax
      split
      · exact h
      · rename_i hb
        refine memWf_cons.2 ⟨hb, fun c hc => ?_, h⟩
        rcases List.mem_cons.1 hc with rfl | hc
        · exact hax
        · have := h2 c hc; omega
    · split
      · rename_i h4 h5; subst h5
        split
        · exact h3
        · rename_i hb; exact memWf_cons.2 ⟨hb, h2, h3⟩
      · rename_i h4 h5
        exact memWf_cons.2 ⟨h1, memAbove_memSet h2 (by omega), ih h3⟩

theorem memFilter_wf (p : Host.Cell → Bool) (l : List Host.Cell) (h : Memory.wf l = true) :
    Memory.wf (l.filter p) = true := by
  induction l with
  | nil => rfl
  | cons e r ih =>
    obtain ⟨x, y⟩ := e
    obtain ⟨h1, h2, h3⟩ := memWf_cons.1 h
    by_cases hp : p (x, y) = true
    · rw [List.filter_cons_of_pos hp]
      exact memWf_cons.2 ⟨h1, fun c hc => h2 c (List.mem_filter.1 hc).1, ih h3⟩
    · rw [List.filter_cons_of_neg hp]; exact ih h3

/-! ### The module's memory -/

theorem Mach.byte_setByte (m : Mach) (a c : Nat) (b : Byte) (h : Memory.wf m.mem = true) :
    (m.setByte a b).byte c = if a = c then b else m.byte c := memGet_memSet _ _ _ _ h

theorem Mach.setByte_wf (m : Mach) (a : Nat) (b : Byte) (h : Memory.wf m.mem = true) :
    Memory.wf (m.setByte a b).mem = true := memSet_wf _ _ _ h

theorem Mach.setBytes_wf (m : Mach) (a : Nat) (l : List Byte) (h : Memory.wf m.mem = true) :
    Memory.wf (m.setBytes a l).mem = true := by
  induction l generalizing m a with
  | nil => exact h
  | cons b r ih => exact ih _ _ (m.setByte_wf a b h)

theorem Mach.byte_setBytes_outside (m : Mach) (a c : Nat) (l : List Byte)
    (h : Memory.wf m.mem = true) (hc : c < a ∨ a + l.length ≤ c) :
    (m.setBytes a l).byte c = m.byte c := by
  induction l generalizing m a with
  | nil => rfl
  | cons b r ih =>
    simp only [List.length_cons] at hc
    rw [Mach.setBytes, ih _ _ (m.setByte_wf a b h) (by omega), m.byte_setByte a c b h, if_neg (by omega)]

theorem Mach.byte_setBytes_inside (m : Mach) (a i : Nat) (l : List Byte)
    (h : Memory.wf m.mem = true) (hi : i < l.length) :
    (m.setBytes a l).byte (a + i) = l[i] := by
  induction l generalizing m a i with
  | nil => simp at hi
  | cons b r ih =>
    cases i with
    | zero =>
      rw [Mach.setBytes, Mach.byte_setBytes_outside _ _ _ _ (m.setByte_wf a b h) (by omega),
        m.byte_setByte a _ b h]
      simp
    | succ k =>
      have := ih (m.setByte a b) (a + 1) k (m.setByte_wf a b h) (by simpa using hi)
      rw [show a + 1 + k = a + (k + 1) by omega] at this
      simpa [Mach.setBytes] using this

theorem Mach.clearLines_wf (m : Mach) (first count : Nat) (h : Memory.wf m.mem = true) :
    Memory.wf (m.clearLines first count).mem = true := memFilter_wf _ _ h

theorem memGet_filter (p : Host.Cell → Bool) (l : List Host.Cell) (c : Nat)
    (h : ∀ y, p (c, y) = true) : memGet (l.filter p) c = memGet l c := by
  induction l with
  | nil => rfl
  | cons e r ih =>
    obtain ⟨x, y⟩ := e
    by_cases hx : x = c
    · subst hx; rw [List.filter_cons_of_pos (h y)]; simp [memGet]
    · by_cases hp : p (x, y) = true
      · rw [List.filter_cons_of_pos hp]; simp [memGet, hx, ih]
      · rw [List.filter_cons_of_neg hp]; simp [memGet, hx, ih]

/-- Storing bytes changes memory alone. -/
theorem Mach.setBytes_eq (m : Mach) (a : Nat) (l : List Byte) :
    m.setBytes a l = { m with mem := (m.setBytes a l).mem } := by
  induction l generalizing m a with
  | nil => rfl
  | cons b r ih => rw [Mach.setBytes, ih]; rfl

/-- Clearing frame-store lines leaves every byte outside them. -/
theorem Mach.byte_clearLines_outside (m : Mach) (first count c : Nat)
    (hc : c < fsBase + first * 64 ∨ fsBase + first * 64 + count * 64 ≤ c) :
    (m.clearLines first count).byte c = m.byte c := by
  apply memGet_filter
  intro y
  simp
  omega

/-! ### Reads -/

theorem Mach.bytes_length (m : Mach) (a n : Nat) : (m.bytes a n).length = n := by
  induction n generalizing a with
  | zero => rfl
  | succ n ih => simp [Mach.bytes, ih]

/-- What a read gives depends on memory alone. -/
theorem Mach.bytes_congr {m t : Mach} (h : m.mem = t.mem) (a n : Nat) : m.bytes a n = t.bytes a n := by
  induction n generalizing a with
  | zero => rfl
  | succ n ih => simp only [Mach.bytes, Mach.byte, h, ih]

theorem Mach.bytes_add (m : Mach) (a n k : Nat) : m.bytes a (n + k) = m.bytes a n ++ m.bytes (a + n) k := by
  induction n generalizing a with
  | zero => simp [Mach.bytes]
  | succ n ih => simp [Mach.bytes, ih, Nat.succ_add, show a + (n + 1) = a + 1 + n by omega]

/-- Read after write. -/
theorem Mach.bytes_setBytes (m : Mach) (a : Nat) (l : List Byte) (h : Memory.wf m.mem = true) :
    (m.setBytes a l).bytes a l.length = l := by
  induction l generalizing m a with
  | nil => rfl
  | cons b r ih =>
    have e := Mach.byte_setBytes_inside m a 0 (b :: r) h (by simp)
    simp only [List.length_cons, Mach.bytes, Mach.setBytes] at e ⊢
    rw [ih _ _ (m.setByte_wf a b h)]
    simpa using e

/-- The parts of a cut, joined, are the range. -/
theorem Mach.cut_bytes (m : Mach) (base : Nat) {size fuel a n : Nat} (hs : 0 < size)
    (hf : n + a % size ≤ size * fuel) :
    (cut size fuel a n).flatMap (fun p => m.bytes (base + p.1) p.2) = m.bytes (base + a) n := by
  induction fuel generalizing a n with
  | zero => have : n = 0 := by omega
            subst this; rfl
  | succ fuel ih =>
    by_cases hn : n = 0
    · simp [cut, hn, Mach.bytes]
    · have lt := Nat.mod_lt a hs
      simp only [cut, hn, if_false, List.flatMap_cons]
      rw [Nat.mul_succ] at hf
      by_cases hle : n ≤ size - a % size
      · have e : cut size fuel (a + n) 0 = [] := by cases fuel <;> simp [cut]
        simp [Nat.min_eq_left hle, e]
      · have hz : (a + (size - a % size)) % size = 0 := by
          rw [show a + (size - a % size) = size * (a / size + 1) by
            have := Nat.div_add_mod a size
            rw [Nat.mul_add]; omega]
          exact Nat.mul_mod_right _ _
        rw [Nat.min_eq_right (by omega), ih (by omega), ← Nat.add_assoc, ← m.bytes_add]
        congr 1; omega

theorem Mach.sliceOf_bytes (m : Mach) {w k p n : Nat} (h1 : w ≤ p) (h2 : p + n ≤ w + k) :
    sliceOf (m.bytes w k) w p n = m.bytes p n := by
  have e : m.bytes w k = m.bytes w (p - w) ++ (m.bytes p n ++ m.bytes (p + n) (w + k - (p + n))) := by
    have e2 := m.bytes_add w (p - w) (n + (w + k - (p + n)))
    rw [show w + (p - w) = p by omega] at e2
    rw [← m.bytes_add, ← e2]
    congr 1; omega
  have l1 := m.bytes_length w (p - w)
  have l2 := m.bytes_length p n
  simp [sliceOf, e, l1, l2]

/-- Each part of a cut lies in one unit. -/
theorem cut_inside {size fuel a n : Nat} (hs : 0 < size) :
    ∀ q ∈ cut size fuel a n, q.1 % size + q.2 ≤ size := by
  induction fuel generalizing a n with
  | zero => simp [cut]
  | succ fuel ih =>
    intro q hq
    by_cases hn : n = 0
    · simp [cut, hn] at hq
    · simp only [cut, hn, if_false, List.mem_cons] at hq
      rcases hq with rfl | hq
      · have := Nat.mod_lt a hs
        show a % size + min n (size - a % size) ≤ size
        omega
      · exact ih q hq

/-- Where no stored bit is inverted, a read of a word gives its bytes and changes nothing. -/
theorem Mach.readWord_clean {m : Mach} (h : m.flips = []) (fs : Bool) (mst addr key : Nat) :
    m.readWord fs mst addr key = (m, some (m.bytes key 8), 0) := by
  simp [Mach.readWord, Mach.flipMask, h, tabGet]

theorem Mach.dramWords_clean {m : Mach} (h : m.flips = []) (mst cmd : Nat) (l : List (Nat × Nat))
    (hl : ∀ q ∈ l, q.1 % 8 + q.2 ≤ 8) :
    m.dramWords mst cmd l = (m, some (l.flatMap fun q => m.bytes q.1 q.2)) := by
  induction l with
  | nil => rfl
  | cons q r ih =>
    have hq := hl q (by simp)
    simp only [Mach.dramWords, m.readWord_clean h, ih fun x hx => hl x (by simp [hx]), Option.map_some,
      List.flatMap_cons]
    rw [m.sliceOf_bytes (by omega) (by omega)]

theorem Mach.fsWords_clean {m : Mach} (h : m.flips = []) (mst : Nat) (d : Int) (l : List (Nat × Nat))
    (hl : ∀ q ∈ l, q.1 % 8 + q.2 ≤ 8) :
    m.fsWords mst d l = (m, some (l.flatMap fun q => m.bytes (fsBase + q.1) q.2)) := by
  induction l with
  | nil => rfl
  | cons q r ih =>
    have hq := hl q (by simp)
    simp only [Mach.fsWords, m.readWord_clean h, ih fun x hx => hl x (by simp [hx]), Option.map_some,
      List.flatMap_cons]
    have e : sliceOf (m.bytes (fsBase + q.1 / 8 * 8) 8) (q.1 / 8 * 8) q.1 q.2 =
        sliceOf (m.bytes (fsBase + q.1 / 8 * 8) 8) (fsBase + q.1 / 8 * 8) (fsBase + q.1) q.2 := by
      simp only [sliceOf]; congr 2; omega
    rw [e, m.sliceOf_bytes (by omega) (by omega)]

/-- Where no stored bit is inverted, reading written lines that stand at their own place gives their
bytes and changes nothing. -/
theorem Mach.fsReads_clean {m : Mach} (h : m.flips = []) (mst : Nat) (l : List (Nat × Nat))
    (hl : ∀ q ∈ l, m.fsPhys q.1 = (q.1, false) ∧ m.lineWritten q.1 = true) :
    m.fsReads mst l = (m, l.flatMap (fun q => m.bytes (fsBase + q.1) q.2), true) := by
  induction l with
  | nil => rfl
  | cons q r ih =>
    obtain ⟨h1, h2⟩ := hl q (by simp)
    have e := m.fsWords_clean h mst 0 (wordParts 8 q.1 q.2) (cut_inside (by decide))
    have c : (wordParts 8 q.1 q.2).flatMap (fun p => m.bytes (fsBase + p.1) p.2) = m.bytes (fsBase + q.1) q.2 :=
      m.cut_bytes fsBase (by decide) (by have := Nat.mod_lt q.1 (y := 8) (by decide); omega)
    simp [Mach.fsReads, Mach.fsReadLine, h1, h2, e, c, ih fun x hx => hl x (by simp [hx])]

/-! ### Reset -/

theorem reset_memory_wf : Memory.wf Mach.reset.mem = true := rfl

end Sys2Proof.Machine
end

