-- ==== Sys2Proof/Laws/Registers.lean ====
section
/-! SUPPORT. What reads of tables, registers and fields give after writes. -/

namespace Sys2Proof.Machine

variable {α : Type}

/-! ### Tables -/

theorem tabFind_tabSet (t : List (Nat × α)) (i j : Nat) (v : α) :
    tabFind (tabSet t i v) j = if i = j then some v else tabFind t j := by
  induction t with
  | nil => simp [tabSet, tabFind]
  | cons e r ih =>
    obtain ⟨k, w⟩ := e
    by_cases h1 : i < k
    · simp [tabSet, h1, tabFind]
    · by_cases h2 : k = i
      · subst h2; by_cases h : k = j <;> simp [tabSet, tabFind, h]
      · by_cases h3 : k = j
        · subst h3; simp [tabSet, tabFind, h1, h2, Ne.symm h2]
        · simp [tabSet, tabFind, h1, h2, h3, ih]

theorem tabGet_eq_tabFind (d : α) (t : List (Nat × α)) (i : Nat) :
    tabGet d t i = (tabFind t i).getD d := by
  induction t with
  | nil => rfl
  | cons e r ih =>
    obtain ⟨k, w⟩ := e
    by_cases h : k = i <;> simp [tabGet, tabFind, h, ih]

theorem tabGet_tabSet (d : α) (t : List (Nat × α)) (i j : Nat) (v : α) :
    tabGet d (tabSet t i v) j = if i = j then v else tabGet d t j := by
  simp only [tabGet_eq_tabFind, tabFind_tabSet]
  split <;> rfl

@[simp] theorem tabGet_tabSet_self (d : α) (t : List (Nat × α)) (i : Nat) (v : α) :
    tabGet d (tabSet t i v) i = v := by simp [tabGet_tabSet]

/-! ### Words -/

theorem bitsOf_testBit (x lo width b : Nat) :
    (bitsOf x lo width).testBit b = (decide (b < width) && x.testBit (lo + b)) := by
  simp [bitsOf, Nat.testBit_mod_two_pow, Nat.testBit_div_two_pow, Nat.add_comm]

theorem bitsOf_lt (x lo width : Nat) : bitsOf x lo width < 2 ^ width :=
  Nat.mod_lt _ (Nat.two_pow_pos _)

theorem setBits_getLsbD (w : Word) (lo width v b : Nat) (h : lo + width ≤ 32) :
    (setBits w lo width v).getLsbD b =
      if lo ≤ b ∧ b < lo + width then v.testBit (b - lo) else w.getLsbD b := by
  have e : w.toNat % 2 ^ lo + v % 2 ^ width * 2 ^ lo + w.toNat / 2 ^ (lo + width) * 2 ^ (lo + width)
      = 2 ^ lo * (2 ^ width * (w.toNat / 2 ^ (lo + width)) + v % 2 ^ width) + w.toNat % 2 ^ lo := by
    rw [Nat.pow_add]; ring
  rw [setBits, BitVec.getLsbD_ofNat, e, Nat.testBit_two_pow_mul_add _ (Nat.mod_lt _ (Nat.two_pow_pos _))]
  by_cases h1 : b < lo
  · have : ¬ lo ≤ b := by omega
    have : b < 32 := by omega
    simp [*, Nat.testBit_mod_two_pow, BitVec.testBit_toNat]
  · rw [if_neg h1, Nat.testBit_two_pow_mul_add _ (Nat.mod_lt _ (Nat.two_pow_pos _))]
    by_cases h2 : b - lo < width
    · have h3 : lo ≤ b ∧ b < lo + width := by omega
      have : b < 32 := by omega
      simp [*, Nat.testBit_mod_two_pow]
    · have h3 : ¬ (lo ≤ b ∧ b < lo + width) := by omega
      have h4 : b - lo - width + (lo + width) = b := by omega
      simp only [h2, h3, if_false, Nat.testBit_div_two_pow, h4]
      by_cases h5 : b < 32
      · simp [h5, BitVec.testBit_toNat]
      · simp [h5, BitVec.getLsbD_of_ge w b (by omega)]

/-! ### Registers -/

theorem Mach.rd_wr (m : Mach) (k k' : Nat) (w : Word) :
    (m.wr k w).rd k' = if k = k' then w else m.rd k' := by
  simp only [Mach.rd, Mach.wr, tabFind_tabSet]
  split <;> rename_i h
  · split at h <;> simp_all
  · split at h <;> simp_all

@[simp] theorem Mach.rd_wr_self (m : Mach) (k : Nat) (w : Word) : (m.wr k w).rd k = w := by
  simp [Mach.rd_wr]

theorem Mach.rd_wr_ne (m : Mach) {k k' : Nat} (w : Word) (h : k ≠ k') :
    (m.wr k w).rd k' = m.rd k' := by simp [Mach.rd_wr, h]

/-- A field lies within its register. -/
def Fld.fits (f : Fld) : Prop := f.lo + f.width ≤ 32

/-- Two fields share no bit. -/
def Fld.apart (f g : Fld) : Prop :=
  f.key ≠ g.key ∨ f.lo + f.width ≤ g.lo ∨ g.lo + g.width ≤ f.lo

theorem Mach.rd_put_getLsbD (m : Mach) (f : Fld) (v k b : Nat) (h : f.fits) :
    ((m.put f v).rd k).getLsbD b =
      if f.key = k ∧ f.lo ≤ b ∧ b < f.lo + f.width then v.testBit (b - f.lo)
      else (m.rd k).getLsbD b := by
  by_cases hk : f.key = k
  · subst hk; simp [Mach.put, setBits_getLsbD _ _ _ _ _ h]
  · simp [Mach.put, Mach.rd_wr_ne _ _ hk, hk]

/-- The bits of a field decide its value. -/
theorem Mach.get_eq_of_bits {m m' : Mach} {f : Fld}
    (h : ∀ b, f.lo ≤ b → b < f.lo + f.width → (m'.rd f.key).getLsbD b = (m.rd f.key).getLsbD b) :
    m'.get f = m.get f := by
  apply Nat.eq_of_testBit_eq
  intro b
  simp only [Mach.get, bitsOf_testBit]
  by_cases hb : b < f.width
  · have := h (f.lo + b) (by omega) (by omega)
    simpa [hb, BitVec.getLsbD] using this
  · simp [hb]

theorem Mach.get_put_self (m : Mach) (f : Fld) (v : Nat) (h : f.fits) :
    (m.put f v).get f = v % 2 ^ f.width := by
  apply Nat.eq_of_testBit_eq
  intro b
  simp only [Mach.get, bitsOf_testBit, Nat.testBit_mod_two_pow]
  by_cases hb : b < f.width
  · have := m.rd_put_getLsbD f v f.key (f.lo + b) h
    simp only [hb, decide_true, Bool.true_and]
    rw [← BitVec.getLsbD, this]
    simp [hb]
  · simp [hb]

theorem Mach.get_put_apart (m : Mach) {f g : Fld} (v : Nat) (h : f.fits) (ha : f.apart g) :
    (m.put f v).get g = m.get g := by
  apply Mach.get_eq_of_bits
  intro b h1 h2
  rw [m.rd_put_getLsbD f v g.key b h, if_neg]
  rintro ⟨h3, h4, h5⟩
  rcases ha with ha | ha | ha
  · exact ha h3
  · omega
  · omega

theorem Mach.get_lt (m : Mach) (f : Fld) : m.get f < 2 ^ f.width := bitsOf_lt _ _ _

/-- A field read of another record field's update is unchanged: only registers decide it. -/
theorem Mach.get_congr {m m' : Mach} (f : Fld) (h : m'.rd f.key = m.rd f.key) : m'.get f = m.get f := by
  simp [Mach.get, h]

end Sys2Proof.Machine
end

