-- ==== Sys2Proof/Laws/State.lean ====
section
/-! SUPPORT. What each update of the module's state leaves: one lemma per field and update, and one per
way of reading registers and memory. -/

namespace Sys2Proof.Machine

variable (s : State) (m : Mach)

/-! ### The queue and the module -/

@[simp] theorem State.becomes_pending (n : Mach) : (s.becomes n).pending = s.pending := rfl
@[simp] theorem State.becomes_m (n : Mach) : (s.becomes n).m = n := rfl

/-! ### wr -/

@[simp] theorem Mach.wr_latched (k : Nat) (w : Word) : (m.wr k w).latched = m.latched := rfl
@[simp] theorem Mach.wr_mem (k : Nat) (w : Word) : (m.wr k w).mem = m.mem := rfl
@[simp] theorem Mach.wr_flips (k : Nat) (w : Word) : (m.wr k w).flips = m.flips := rfl
@[simp] theorem Mach.wr_written (k : Nat) (w : Word) : (m.wr k w).written = m.written := rfl
@[simp] theorem Mach.wr_nextAccess (k : Nat) (w : Word) : (m.wr k w).nextAccess = m.nextAccess := rfl
@[simp] theorem Mach.wr_freeCount (k : Nat) (w : Word) : (m.wr k w).freeCount = m.freeCount := rfl
@[simp] theorem Mach.wr_pwr (k : Nat) (w : Word) : (m.wr k w).pwr = m.pwr := rfl
@[simp] theorem Mach.wr_boot (k : Nat) (w : Word) : (m.wr k w).boot = m.boot := rfl
@[simp] theorem Mach.wr_pcie (k : Nat) (w : Word) : (m.wr k w).pcie = m.pcie := rfl
@[simp] theorem Mach.wr_chain (k : Nat) (w : Word) : (m.wr k w).chain = m.chain := rfl
@[simp] theorem Mach.wr_seqs (k : Nat) (w : Word) : (m.wr k w).seqs = m.seqs := rfl
@[simp] theorem Mach.wr_time (k : Nat) (w : Word) : (m.wr k w).time = m.time := rfl
@[simp] theorem Mach.wr_dpll (k : Nat) (w : Word) : (m.wr k w).dpll = m.dpll := rfl
@[simp] theorem Mach.wr_pins (k : Nat) (w : Word) : (m.wr k w).pins = m.pins := rfl
@[simp] theorem Mach.wr_dram (k : Nat) (w : Word) : (m.wr k w).dram = m.dram := rfl
@[simp] theorem Mach.wr_repair (k : Nat) (w : Word) : (m.wr k w).repair = m.repair := rfl
@[simp] theorem Mach.wr_vault (k : Nat) (w : Word) : (m.wr k w).vault = m.vault := rfl
@[simp] theorem Mach.wr_leases (k : Nat) (w : Word) : (m.wr k w).leases = m.leases := rfl
@[simp] theorem Mach.wr_pair (k : Nat) (w : Word) : (m.wr k w).pair = m.pair := rfl
@[simp] theorem Mach.wr_touch (k : Nat) (w : Word) : (m.wr k w).touch = m.touch := rfl
@[simp] theorem Mach.wr_decode (k : Nat) (w : Word) : (m.wr k w).decode = m.decode := rfl
@[simp] theorem Mach.wr_ingest (k : Nat) (w : Word) : (m.wr k w).ingest = m.ingest := rfl
@[simp] theorem Mach.wr_encode (k : Nat) (w : Word) : (m.wr k w).encode = m.encode := rfl
@[simp] theorem Mach.wr_defl (k : Nat) (w : Word) : (m.wr k w).defl = m.defl := rfl
@[simp] theorem Mach.wr_checks (k : Nat) (w : Word) : (m.wr k w).checks = m.checks := rfl
@[simp] theorem Mach.wr_layers (k : Nat) (w : Word) : (m.wr k w).layers = m.layers := rfl
@[simp] theorem Mach.wr_heads (k : Nat) (w : Word) : (m.wr k w).heads = m.heads := rfl
@[simp] theorem Mach.wr_fences (k : Nat) (w : Word) : (m.wr k w).fences = m.fences := rfl
@[simp] theorem Mach.wr_sent (k : Nat) (w : Word) : (m.wr k w).sent = m.sent := rfl
@[simp] theorem Mach.byte_wr (k : Nat) (w : Word) (c : Nat) : (m.wr k w).byte c = m.byte c := rfl

/-! ### put -/

@[simp] theorem Mach.put_latched (f : Fld) (v : Nat) : (m.put f v).latched = m.latched := rfl
@[simp] theorem Mach.put_mem (f : Fld) (v : Nat) : (m.put f v).mem = m.mem := rfl
@[simp] theorem Mach.put_flips (f : Fld) (v : Nat) : (m.put f v).flips = m.flips := rfl
@[simp] theorem Mach.put_written (f : Fld) (v : Nat) : (m.put f v).written = m.written := rfl
@[simp] theorem Mach.put_nextAccess (f : Fld) (v : Nat) : (m.put f v).nextAccess = m.nextAccess := rfl
@[simp] theorem Mach.put_freeCount (f : Fld) (v : Nat) : (m.put f v).freeCount = m.freeCount := rfl
@[simp] theorem Mach.put_pwr (f : Fld) (v : Nat) : (m.put f v).pwr = m.pwr := rfl
@[simp] theorem Mach.put_boot (f : Fld) (v : Nat) : (m.put f v).boot = m.boot := rfl
@[simp] theorem Mach.put_pcie (f : Fld) (v : Nat) : (m.put f v).pcie = m.pcie := rfl
@[simp] theorem Mach.put_chain (f : Fld) (v : Nat) : (m.put f v).chain = m.chain := rfl
@[simp] theorem Mach.put_seqs (f : Fld) (v : Nat) : (m.put f v).seqs = m.seqs := rfl
@[simp] theorem Mach.put_time (f : Fld) (v : Nat) : (m.put f v).time = m.time := rfl
@[simp] theorem Mach.put_dpll (f : Fld) (v : Nat) : (m.put f v).dpll = m.dpll := rfl
@[simp] theorem Mach.put_pins (f : Fld) (v : Nat) : (m.put f v).pins = m.pins := rfl
@[simp] theorem Mach.put_dram (f : Fld) (v : Nat) : (m.put f v).dram = m.dram := rfl
@[simp] theorem Mach.put_repair (f : Fld) (v : Nat) : (m.put f v).repair = m.repair := rfl
@[simp] theorem Mach.put_vault (f : Fld) (v : Nat) : (m.put f v).vault = m.vault := rfl
@[simp] theorem Mach.put_leases (f : Fld) (v : Nat) : (m.put f v).leases = m.leases := rfl
@[simp] theorem Mach.put_pair (f : Fld) (v : Nat) : (m.put f v).pair = m.pair := rfl
@[simp] theorem Mach.put_touch (f : Fld) (v : Nat) : (m.put f v).touch = m.touch := rfl
@[simp] theorem Mach.put_decode (f : Fld) (v : Nat) : (m.put f v).decode = m.decode := rfl
@[simp] theorem Mach.put_ingest (f : Fld) (v : Nat) : (m.put f v).ingest = m.ingest := rfl
@[simp] theorem Mach.put_encode (f : Fld) (v : Nat) : (m.put f v).encode = m.encode := rfl
@[simp] theorem Mach.put_defl (f : Fld) (v : Nat) : (m.put f v).defl = m.defl := rfl
@[simp] theorem Mach.put_checks (f : Fld) (v : Nat) : (m.put f v).checks = m.checks := rfl
@[simp] theorem Mach.put_layers (f : Fld) (v : Nat) : (m.put f v).layers = m.layers := rfl
@[simp] theorem Mach.put_heads (f : Fld) (v : Nat) : (m.put f v).heads = m.heads := rfl
@[simp] theorem Mach.put_fences (f : Fld) (v : Nat) : (m.put f v).fences = m.fences := rfl
@[simp] theorem Mach.put_sent (f : Fld) (v : Nat) : (m.put f v).sent = m.sent := rfl
@[simp] theorem Mach.byte_put (f : Fld) (v : Nat) (c : Nat) : (m.put f v).byte c = m.byte c := rfl

/-! ### putB -/

@[simp] theorem Mach.putB_latched (f : Fld) (b : Bool) : (m.putB f b).latched = m.latched := rfl
@[simp] theorem Mach.putB_mem (f : Fld) (b : Bool) : (m.putB f b).mem = m.mem := rfl
@[simp] theorem Mach.putB_flips (f : Fld) (b : Bool) : (m.putB f b).flips = m.flips := rfl
@[simp] theorem Mach.putB_written (f : Fld) (b : Bool) : (m.putB f b).written = m.written := rfl
@[simp] theorem Mach.putB_nextAccess (f : Fld) (b : Bool) : (m.putB f b).nextAccess = m.nextAccess := rfl
@[simp] theorem Mach.putB_freeCount (f : Fld) (b : Bool) : (m.putB f b).freeCount = m.freeCount := rfl
@[simp] theorem Mach.putB_pwr (f : Fld) (b : Bool) : (m.putB f b).pwr = m.pwr := rfl
@[simp] theorem Mach.putB_boot (f : Fld) (b : Bool) : (m.putB f b).boot = m.boot := rfl
@[simp] theorem Mach.putB_pcie (f : Fld) (b : Bool) : (m.putB f b).pcie = m.pcie := rfl
@[simp] theorem Mach.putB_chain (f : Fld) (b : Bool) : (m.putB f b).chain = m.chain := rfl
@[simp] theorem Mach.putB_seqs (f : Fld) (b : Bool) : (m.putB f b).seqs = m.seqs := rfl
@[simp] theorem Mach.putB_time (f : Fld) (b : Bool) : (m.putB f b).time = m.time := rfl
@[simp] theorem Mach.putB_dpll (f : Fld) (b : Bool) : (m.putB f b).dpll = m.dpll := rfl
@[simp] theorem Mach.putB_pins (f : Fld) (b : Bool) : (m.putB f b).pins = m.pins := rfl
@[simp] theorem Mach.putB_dram (f : Fld) (b : Bool) : (m.putB f b).dram = m.dram := rfl
@[simp] theorem Mach.putB_repair (f : Fld) (b : Bool) : (m.putB f b).repair = m.repair := rfl
@[simp] theorem Mach.putB_vault (f : Fld) (b : Bool) : (m.putB f b).vault = m.vault := rfl
@[simp] theorem Mach.putB_leases (f : Fld) (b : Bool) : (m.putB f b).leases = m.leases := rfl
@[simp] theorem Mach.putB_pair (f : Fld) (b : Bool) : (m.putB f b).pair = m.pair := rfl
@[simp] theorem Mach.putB_touch (f : Fld) (b : Bool) : (m.putB f b).touch = m.touch := rfl
@[simp] theorem Mach.putB_decode (f : Fld) (b : Bool) : (m.putB f b).decode = m.decode := rfl
@[simp] theorem Mach.putB_ingest (f : Fld) (b : Bool) : (m.putB f b).ingest = m.ingest := rfl
@[simp] theorem Mach.putB_encode (f : Fld) (b : Bool) : (m.putB f b).encode = m.encode := rfl
@[simp] theorem Mach.putB_defl (f : Fld) (b : Bool) : (m.putB f b).defl = m.defl := rfl
@[simp] theorem Mach.putB_checks (f : Fld) (b : Bool) : (m.putB f b).checks = m.checks := rfl
@[simp] theorem Mach.putB_layers (f : Fld) (b : Bool) : (m.putB f b).layers = m.layers := rfl
@[simp] theorem Mach.putB_heads (f : Fld) (b : Bool) : (m.putB f b).heads = m.heads := rfl
@[simp] theorem Mach.putB_fences (f : Fld) (b : Bool) : (m.putB f b).fences = m.fences := rfl
@[simp] theorem Mach.putB_sent (f : Fld) (b : Bool) : (m.putB f b).sent = m.sent := rfl
@[simp] theorem Mach.byte_putB (f : Fld) (b : Bool) (c : Nat) : (m.putB f b).byte c = m.byte c := rfl

/-! ### setByte -/

@[simp] theorem Mach.setByte_regs (a : Nat) (b : Byte) : (m.setByte a b).regs = m.regs := rfl
@[simp] theorem Mach.setByte_latched (a : Nat) (b : Byte) : (m.setByte a b).latched = m.latched := rfl
@[simp] theorem Mach.setByte_flips (a : Nat) (b : Byte) : (m.setByte a b).flips = m.flips := rfl
@[simp] theorem Mach.setByte_written (a : Nat) (b : Byte) : (m.setByte a b).written = m.written := rfl
@[simp] theorem Mach.setByte_nextAccess (a : Nat) (b : Byte) : (m.setByte a b).nextAccess = m.nextAccess := rfl
@[simp] theorem Mach.setByte_freeCount (a : Nat) (b : Byte) : (m.setByte a b).freeCount = m.freeCount := rfl
@[simp] theorem Mach.setByte_pwr (a : Nat) (b : Byte) : (m.setByte a b).pwr = m.pwr := rfl
@[simp] theorem Mach.setByte_boot (a : Nat) (b : Byte) : (m.setByte a b).boot = m.boot := rfl
@[simp] theorem Mach.setByte_pcie (a : Nat) (b : Byte) : (m.setByte a b).pcie = m.pcie := rfl
@[simp] theorem Mach.setByte_chain (a : Nat) (b : Byte) : (m.setByte a b).chain = m.chain := rfl
@[simp] theorem Mach.setByte_seqs (a : Nat) (b : Byte) : (m.setByte a b).seqs = m.seqs := rfl
@[simp] theorem Mach.setByte_time (a : Nat) (b : Byte) : (m.setByte a b).time = m.time := rfl
@[simp] theorem Mach.setByte_dpll (a : Nat) (b : Byte) : (m.setByte a b).dpll = m.dpll := rfl
@[simp] theorem Mach.setByte_pins (a : Nat) (b : Byte) : (m.setByte a b).pins = m.pins := rfl
@[simp] theorem Mach.setByte_dram (a : Nat) (b : Byte) : (m.setByte a b).dram = m.dram := rfl
@[simp] theorem Mach.setByte_repair (a : Nat) (b : Byte) : (m.setByte a b).repair = m.repair := rfl
@[simp] theorem Mach.setByte_vault (a : Nat) (b : Byte) : (m.setByte a b).vault = m.vault := rfl
@[simp] theorem Mach.setByte_leases (a : Nat) (b : Byte) : (m.setByte a b).leases = m.leases := rfl
@[simp] theorem Mach.setByte_pair (a : Nat) (b : Byte) : (m.setByte a b).pair = m.pair := rfl
@[simp] theorem Mach.setByte_touch (a : Nat) (b : Byte) : (m.setByte a b).touch = m.touch := rfl
@[simp] theorem Mach.setByte_decode (a : Nat) (b : Byte) : (m.setByte a b).decode = m.decode := rfl
@[simp] theorem Mach.setByte_ingest (a : Nat) (b : Byte) : (m.setByte a b).ingest = m.ingest := rfl
@[simp] theorem Mach.setByte_encode (a : Nat) (b : Byte) : (m.setByte a b).encode = m.encode := rfl
@[simp] theorem Mach.setByte_defl (a : Nat) (b : Byte) : (m.setByte a b).defl = m.defl := rfl
@[simp] theorem Mach.setByte_checks (a : Nat) (b : Byte) : (m.setByte a b).checks = m.checks := rfl
@[simp] theorem Mach.setByte_layers (a : Nat) (b : Byte) : (m.setByte a b).layers = m.layers := rfl
@[simp] theorem Mach.setByte_heads (a : Nat) (b : Byte) : (m.setByte a b).heads = m.heads := rfl
@[simp] theorem Mach.setByte_fences (a : Nat) (b : Byte) : (m.setByte a b).fences = m.fences := rfl
@[simp] theorem Mach.setByte_sent (a : Nat) (b : Byte) : (m.setByte a b).sent = m.sent := rfl
@[simp] theorem Mach.rd_setByte (a : Nat) (b : Byte) (key : Nat) : (m.setByte a b).rd key = m.rd key := rfl
@[simp] theorem Mach.get_setByte (a : Nat) (b : Byte) (x : Fld) : (m.setByte a b).get x = m.get x := rfl
@[simp] theorem Mach.is_setByte (a : Nat) (b : Byte) (x : Fld) : (m.setByte a b).is x = m.is x := rfl

/-! ### updSeq -/

@[simp] theorem Mach.updSeq_regs (i : Nat) (f : Seq → Seq) : (m.updSeq i f).regs = m.regs := rfl
@[simp] theorem Mach.updSeq_latched (i : Nat) (f : Seq → Seq) : (m.updSeq i f).latched = m.latched := rfl
@[simp] theorem Mach.updSeq_mem (i : Nat) (f : Seq → Seq) : (m.updSeq i f).mem = m.mem := rfl
@[simp] theorem Mach.updSeq_flips (i : Nat) (f : Seq → Seq) : (m.updSeq i f).flips = m.flips := rfl
@[simp] theorem Mach.updSeq_written (i : Nat) (f : Seq → Seq) : (m.updSeq i f).written = m.written := rfl
@[simp] theorem Mach.updSeq_nextAccess (i : Nat) (f : Seq → Seq) : (m.updSeq i f).nextAccess = m.nextAccess := rfl
@[simp] theorem Mach.updSeq_freeCount (i : Nat) (f : Seq → Seq) : (m.updSeq i f).freeCount = m.freeCount := rfl
@[simp] theorem Mach.updSeq_pwr (i : Nat) (f : Seq → Seq) : (m.updSeq i f).pwr = m.pwr := rfl
@[simp] theorem Mach.updSeq_boot (i : Nat) (f : Seq → Seq) : (m.updSeq i f).boot = m.boot := rfl
@[simp] theorem Mach.updSeq_pcie (i : Nat) (f : Seq → Seq) : (m.updSeq i f).pcie = m.pcie := rfl
@[simp] theorem Mach.updSeq_chain (i : Nat) (f : Seq → Seq) : (m.updSeq i f).chain = m.chain := rfl
@[simp] theorem Mach.updSeq_time (i : Nat) (f : Seq → Seq) : (m.updSeq i f).time = m.time := rfl
@[simp] theorem Mach.updSeq_dpll (i : Nat) (f : Seq → Seq) : (m.updSeq i f).dpll = m.dpll := rfl
@[simp] theorem Mach.updSeq_pins (i : Nat) (f : Seq → Seq) : (m.updSeq i f).pins = m.pins := rfl
@[simp] theorem Mach.updSeq_dram (i : Nat) (f : Seq → Seq) : (m.updSeq i f).dram = m.dram := rfl
@[simp] theorem Mach.updSeq_repair (i : Nat) (f : Seq → Seq) : (m.updSeq i f).repair = m.repair := rfl
@[simp] theorem Mach.updSeq_vault (i : Nat) (f : Seq → Seq) : (m.updSeq i f).vault = m.vault := rfl
@[simp] theorem Mach.updSeq_leases (i : Nat) (f : Seq → Seq) : (m.updSeq i f).leases = m.leases := rfl
@[simp] theorem Mach.updSeq_pair (i : Nat) (f : Seq → Seq) : (m.updSeq i f).pair = m.pair := rfl
@[simp] theorem Mach.updSeq_touch (i : Nat) (f : Seq → Seq) : (m.updSeq i f).touch = m.touch := rfl
@[simp] theorem Mach.updSeq_decode (i : Nat) (f : Seq → Seq) : (m.updSeq i f).decode = m.decode := rfl
@[simp] theorem Mach.updSeq_ingest (i : Nat) (f : Seq → Seq) : (m.updSeq i f).ingest = m.ingest := rfl
@[simp] theorem Mach.updSeq_encode (i : Nat) (f : Seq → Seq) : (m.updSeq i f).encode = m.encode := rfl
@[simp] theorem Mach.updSeq_defl (i : Nat) (f : Seq → Seq) : (m.updSeq i f).defl = m.defl := rfl
@[simp] theorem Mach.updSeq_checks (i : Nat) (f : Seq → Seq) : (m.updSeq i f).checks = m.checks := rfl
@[simp] theorem Mach.updSeq_layers (i : Nat) (f : Seq → Seq) : (m.updSeq i f).layers = m.layers := rfl
@[simp] theorem Mach.updSeq_heads (i : Nat) (f : Seq → Seq) : (m.updSeq i f).heads = m.heads := rfl
@[simp] theorem Mach.updSeq_fences (i : Nat) (f : Seq → Seq) : (m.updSeq i f).fences = m.fences := rfl
@[simp] theorem Mach.updSeq_sent (i : Nat) (f : Seq → Seq) : (m.updSeq i f).sent = m.sent := rfl
@[simp] theorem Mach.rd_updSeq (i : Nat) (f : Seq → Seq) (key : Nat) : (m.updSeq i f).rd key = m.rd key := rfl
@[simp] theorem Mach.get_updSeq (i : Nat) (f : Seq → Seq) (x : Fld) : (m.updSeq i f).get x = m.get x := rfl
@[simp] theorem Mach.is_updSeq (i : Nat) (f : Seq → Seq) (x : Fld) : (m.updSeq i f).is x = m.is x := rfl
@[simp] theorem Mach.byte_updSeq (i : Nat) (f : Seq → Seq) (c : Nat) : (m.updSeq i f).byte c = m.byte c := rfl

/-! ### updPwr -/

@[simp] theorem Mach.updPwr_regs (f : Power → Power) : (m.updPwr f).regs = m.regs := rfl
@[simp] theorem Mach.updPwr_latched (f : Power → Power) : (m.updPwr f).latched = m.latched := rfl
@[simp] theorem Mach.updPwr_mem (f : Power → Power) : (m.updPwr f).mem = m.mem := rfl
@[simp] theorem Mach.updPwr_flips (f : Power → Power) : (m.updPwr f).flips = m.flips := rfl
@[simp] theorem Mach.updPwr_written (f : Power → Power) : (m.updPwr f).written = m.written := rfl
@[simp] theorem Mach.updPwr_nextAccess (f : Power → Power) : (m.updPwr f).nextAccess = m.nextAccess := rfl
@[simp] theorem Mach.updPwr_freeCount (f : Power → Power) : (m.updPwr f).freeCount = m.freeCount := rfl
@[simp] theorem Mach.updPwr_pwr (f : Power → Power) : (m.updPwr f).pwr = f m.pwr := rfl
@[simp] theorem Mach.updPwr_boot (f : Power → Power) : (m.updPwr f).boot = m.boot := rfl
@[simp] theorem Mach.updPwr_pcie (f : Power → Power) : (m.updPwr f).pcie = m.pcie := rfl
@[simp] theorem Mach.updPwr_chain (f : Power → Power) : (m.updPwr f).chain = m.chain := rfl
@[simp] theorem Mach.updPwr_seqs (f : Power → Power) : (m.updPwr f).seqs = m.seqs := rfl
@[simp] theorem Mach.updPwr_time (f : Power → Power) : (m.updPwr f).time = m.time := rfl
@[simp] theorem Mach.updPwr_dpll (f : Power → Power) : (m.updPwr f).dpll = m.dpll := rfl
@[simp] theorem Mach.updPwr_pins (f : Power → Power) : (m.updPwr f).pins = m.pins := rfl
@[simp] theorem Mach.updPwr_dram (f : Power → Power) : (m.updPwr f).dram = m.dram := rfl
@[simp] theorem Mach.updPwr_repair (f : Power → Power) : (m.updPwr f).repair = m.repair := rfl
@[simp] theorem Mach.updPwr_vault (f : Power → Power) : (m.updPwr f).vault = m.vault := rfl
@[simp] theorem Mach.updPwr_leases (f : Power → Power) : (m.updPwr f).leases = m.leases := rfl
@[simp] theorem Mach.updPwr_pair (f : Power → Power) : (m.updPwr f).pair = m.pair := rfl
@[simp] theorem Mach.updPwr_touch (f : Power → Power) : (m.updPwr f).touch = m.touch := rfl
@[simp] theorem Mach.updPwr_decode (f : Power → Power) : (m.updPwr f).decode = m.decode := rfl
@[simp] theorem Mach.updPwr_ingest (f : Power → Power) : (m.updPwr f).ingest = m.ingest := rfl
@[simp] theorem Mach.updPwr_encode (f : Power → Power) : (m.updPwr f).encode = m.encode := rfl
@[simp] theorem Mach.updPwr_defl (f : Power → Power) : (m.updPwr f).defl = m.defl := rfl
@[simp] theorem Mach.updPwr_checks (f : Power → Power) : (m.updPwr f).checks = m.checks := rfl
@[simp] theorem Mach.updPwr_layers (f : Power → Power) : (m.updPwr f).layers = m.layers := rfl
@[simp] theorem Mach.updPwr_heads (f : Power → Power) : (m.updPwr f).heads = m.heads := rfl
@[simp] theorem Mach.updPwr_fences (f : Power → Power) : (m.updPwr f).fences = m.fences := rfl
@[simp] theorem Mach.updPwr_sent (f : Power → Power) : (m.updPwr f).sent = m.sent := rfl
@[simp] theorem Mach.rd_updPwr (f : Power → Power) (key : Nat) : (m.updPwr f).rd key = m.rd key := rfl
@[simp] theorem Mach.get_updPwr (f : Power → Power) (x : Fld) : (m.updPwr f).get x = m.get x := rfl
@[simp] theorem Mach.is_updPwr (f : Power → Power) (x : Fld) : (m.updPwr f).is x = m.is x := rfl
@[simp] theorem Mach.byte_updPwr (f : Power → Power) (c : Nat) : (m.updPwr f).byte c = m.byte c := rfl

/-! ### updBoot -/

@[simp] theorem Mach.updBoot_regs (f : Boot → Boot) : (m.updBoot f).regs = m.regs := rfl
@[simp] theorem Mach.updBoot_latched (f : Boot → Boot) : (m.updBoot f).latched = m.latched := rfl
@[simp] theorem Mach.updBoot_mem (f : Boot → Boot) : (m.updBoot f).mem = m.mem := rfl
@[simp] theorem Mach.updBoot_flips (f : Boot → Boot) : (m.updBoot f).flips = m.flips := rfl
@[simp] theorem Mach.updBoot_written (f : Boot → Boot) : (m.updBoot f).written = m.written := rfl
@[simp] theorem Mach.updBoot_nextAccess (f : Boot → Boot) : (m.updBoot f).nextAccess = m.nextAccess := rfl
@[simp] theorem Mach.updBoot_freeCount (f : Boot → Boot) : (m.updBoot f).freeCount = m.freeCount := rfl
@[simp] theorem Mach.updBoot_pwr (f : Boot → Boot) : (m.updBoot f).pwr = m.pwr := rfl
@[simp] theorem Mach.updBoot_boot (f : Boot → Boot) : (m.updBoot f).boot = f m.boot := rfl
@[simp] theorem Mach.updBoot_pcie (f : Boot → Boot) : (m.updBoot f).pcie = m.pcie := rfl
@[simp] theorem Mach.updBoot_chain (f : Boot → Boot) : (m.updBoot f).chain = m.chain := rfl
@[simp] theorem Mach.updBoot_seqs (f : Boot → Boot) : (m.updBoot f).seqs = m.seqs := rfl
@[simp] theorem Mach.updBoot_time (f : Boot → Boot) : (m.updBoot f).time = m.time := rfl
@[simp] theorem Mach.updBoot_dpll (f : Boot → Boot) : (m.updBoot f).dpll = m.dpll := rfl
@[simp] theorem Mach.updBoot_pins (f : Boot → Boot) : (m.updBoot f).pins = m.pins := rfl
@[simp] theorem Mach.updBoot_dram (f : Boot → Boot) : (m.updBoot f).dram = m.dram := rfl
@[simp] theorem Mach.updBoot_repair (f : Boot → Boot) : (m.updBoot f).repair = m.repair := rfl
@[simp] theorem Mach.updBoot_vault (f : Boot → Boot) : (m.updBoot f).vault = m.vault := rfl
@[simp] theorem Mach.updBoot_leases (f : Boot → Boot) : (m.updBoot f).leases = m.leases := rfl
@[simp] theorem Mach.updBoot_pair (f : Boot → Boot) : (m.updBoot f).pair = m.pair := rfl
@[simp] theorem Mach.updBoot_touch (f : Boot → Boot) : (m.updBoot f).touch = m.touch := rfl
@[simp] theorem Mach.updBoot_decode (f : Boot → Boot) : (m.updBoot f).decode = m.decode := rfl
@[simp] theorem Mach.updBoot_ingest (f : Boot → Boot) : (m.updBoot f).ingest = m.ingest := rfl
@[simp] theorem Mach.updBoot_encode (f : Boot → Boot) : (m.updBoot f).encode = m.encode := rfl
@[simp] theorem Mach.updBoot_defl (f : Boot → Boot) : (m.updBoot f).defl = m.defl := rfl
@[simp] theorem Mach.updBoot_checks (f : Boot → Boot) : (m.updBoot f).checks = m.checks := rfl
@[simp] theorem Mach.updBoot_layers (f : Boot → Boot) : (m.updBoot f).layers = m.layers := rfl
@[simp] theorem Mach.updBoot_heads (f : Boot → Boot) : (m.updBoot f).heads = m.heads := rfl
@[simp] theorem Mach.updBoot_fences (f : Boot → Boot) : (m.updBoot f).fences = m.fences := rfl
@[simp] theorem Mach.updBoot_sent (f : Boot → Boot) : (m.updBoot f).sent = m.sent := rfl
@[simp] theorem Mach.rd_updBoot (f : Boot → Boot) (key : Nat) : (m.updBoot f).rd key = m.rd key := rfl
@[simp] theorem Mach.get_updBoot (f : Boot → Boot) (x : Fld) : (m.updBoot f).get x = m.get x := rfl
@[simp] theorem Mach.is_updBoot (f : Boot → Boot) (x : Fld) : (m.updBoot f).is x = m.is x := rfl
@[simp] theorem Mach.byte_updBoot (f : Boot → Boot) (c : Nat) : (m.updBoot f).byte c = m.byte c := rfl

/-! ### updPcie -/

@[simp] theorem Mach.updPcie_regs (f : Pcie → Pcie) : (m.updPcie f).regs = m.regs := rfl
@[simp] theorem Mach.updPcie_latched (f : Pcie → Pcie) : (m.updPcie f).latched = m.latched := rfl
@[simp] theorem Mach.updPcie_mem (f : Pcie → Pcie) : (m.updPcie f).mem = m.mem := rfl
@[simp] theorem Mach.updPcie_flips (f : Pcie → Pcie) : (m.updPcie f).flips = m.flips := rfl
@[simp] theorem Mach.updPcie_written (f : Pcie → Pcie) : (m.updPcie f).written = m.written := rfl
@[simp] theorem Mach.updPcie_nextAccess (f : Pcie → Pcie) : (m.updPcie f).nextAccess = m.nextAccess := rfl
@[simp] theorem Mach.updPcie_freeCount (f : Pcie → Pcie) : (m.updPcie f).freeCount = m.freeCount := rfl
@[simp] theorem Mach.updPcie_pwr (f : Pcie → Pcie) : (m.updPcie f).pwr = m.pwr := rfl
@[simp] theorem Mach.updPcie_boot (f : Pcie → Pcie) : (m.updPcie f).boot = m.boot := rfl
@[simp] theorem Mach.updPcie_pcie (f : Pcie → Pcie) : (m.updPcie f).pcie = f m.pcie := rfl
@[simp] theorem Mach.updPcie_chain (f : Pcie → Pcie) : (m.updPcie f).chain = m.chain := rfl
@[simp] theorem Mach.updPcie_seqs (f : Pcie → Pcie) : (m.updPcie f).seqs = m.seqs := rfl
@[simp] theorem Mach.updPcie_time (f : Pcie → Pcie) : (m.updPcie f).time = m.time := rfl
@[simp] theorem Mach.updPcie_dpll (f : Pcie → Pcie) : (m.updPcie f).dpll = m.dpll := rfl
@[simp] theorem Mach.updPcie_pins (f : Pcie → Pcie) : (m.updPcie f).pins = m.pins := rfl
@[simp] theorem Mach.updPcie_dram (f : Pcie → Pcie) : (m.updPcie f).dram = m.dram := rfl
@[simp] theorem Mach.updPcie_repair (f : Pcie → Pcie) : (m.updPcie f).repair = m.repair := rfl
@[simp] theorem Mach.updPcie_vault (f : Pcie → Pcie) : (m.updPcie f).vault = m.vault := rfl
@[simp] theorem Mach.updPcie_leases (f : Pcie → Pcie) : (m.updPcie f).leases = m.leases := rfl
@[simp] theorem Mach.updPcie_pair (f : Pcie → Pcie) : (m.updPcie f).pair = m.pair := rfl
@[simp] theorem Mach.updPcie_touch (f : Pcie → Pcie) : (m.updPcie f).touch = m.touch := rfl
@[simp] theorem Mach.updPcie_decode (f : Pcie → Pcie) : (m.updPcie f).decode = m.decode := rfl
@[simp] theorem Mach.updPcie_ingest (f : Pcie → Pcie) : (m.updPcie f).ingest = m.ingest := rfl
@[simp] theorem Mach.updPcie_encode (f : Pcie → Pcie) : (m.updPcie f).encode = m.encode := rfl
@[simp] theorem Mach.updPcie_defl (f : Pcie → Pcie) : (m.updPcie f).defl = m.defl := rfl
@[simp] theorem Mach.updPcie_checks (f : Pcie → Pcie) : (m.updPcie f).checks = m.checks := rfl
@[simp] theorem Mach.updPcie_layers (f : Pcie → Pcie) : (m.updPcie f).layers = m.layers := rfl
@[simp] theorem Mach.updPcie_heads (f : Pcie → Pcie) : (m.updPcie f).heads = m.heads := rfl
@[simp] theorem Mach.updPcie_fences (f : Pcie → Pcie) : (m.updPcie f).fences = m.fences := rfl
@[simp] theorem Mach.updPcie_sent (f : Pcie → Pcie) : (m.updPcie f).sent = m.sent := rfl
@[simp] theorem Mach.rd_updPcie (f : Pcie → Pcie) (key : Nat) : (m.updPcie f).rd key = m.rd key := rfl
@[simp] theorem Mach.get_updPcie (f : Pcie → Pcie) (x : Fld) : (m.updPcie f).get x = m.get x := rfl
@[simp] theorem Mach.is_updPcie (f : Pcie → Pcie) (x : Fld) : (m.updPcie f).is x = m.is x := rfl
@[simp] theorem Mach.byte_updPcie (f : Pcie → Pcie) (c : Nat) : (m.updPcie f).byte c = m.byte c := rfl

/-! ### updChain -/

@[simp] theorem Mach.updChain_regs (f : Chain → Chain) : (m.updChain f).regs = m.regs := rfl
@[simp] theorem Mach.updChain_latched (f : Chain → Chain) : (m.updChain f).latched = m.latched := rfl
@[simp] theorem Mach.updChain_mem (f : Chain → Chain) : (m.updChain f).mem = m.mem := rfl
@[simp] theorem Mach.updChain_flips (f : Chain → Chain) : (m.updChain f).flips = m.flips := rfl
@[simp] theorem Mach.updChain_written (f : Chain → Chain) : (m.updChain f).written = m.written := rfl
@[simp] theorem Mach.updChain_nextAccess (f : Chain → Chain) : (m.updChain f).nextAccess = m.nextAccess := rfl
@[simp] theorem Mach.updChain_freeCount (f : Chain → Chain) : (m.updChain f).freeCount = m.freeCount := rfl
@[simp] theorem Mach.updChain_pwr (f : Chain → Chain) : (m.updChain f).pwr = m.pwr := rfl
@[simp] theorem Mach.updChain_boot (f : Chain → Chain) : (m.updChain f).boot = m.boot := rfl
@[simp] theorem Mach.updChain_pcie (f : Chain → Chain) : (m.updChain f).pcie = m.pcie := rfl
@[simp] theorem Mach.updChain_chain (f : Chain → Chain) : (m.updChain f).chain = f m.chain := rfl
@[simp] theorem Mach.updChain_seqs (f : Chain → Chain) : (m.updChain f).seqs = m.seqs := rfl
@[simp] theorem Mach.updChain_time (f : Chain → Chain) : (m.updChain f).time = m.time := rfl
@[simp] theorem Mach.updChain_dpll (f : Chain → Chain) : (m.updChain f).dpll = m.dpll := rfl
@[simp] theorem Mach.updChain_pins (f : Chain → Chain) : (m.updChain f).pins = m.pins := rfl
@[simp] theorem Mach.updChain_dram (f : Chain → Chain) : (m.updChain f).dram = m.dram := rfl
@[simp] theorem Mach.updChain_repair (f : Chain → Chain) : (m.updChain f).repair = m.repair := rfl
@[simp] theorem Mach.updChain_vault (f : Chain → Chain) : (m.updChain f).vault = m.vault := rfl
@[simp] theorem Mach.updChain_leases (f : Chain → Chain) : (m.updChain f).leases = m.leases := rfl
@[simp] theorem Mach.updChain_pair (f : Chain → Chain) : (m.updChain f).pair = m.pair := rfl
@[simp] theorem Mach.updChain_touch (f : Chain → Chain) : (m.updChain f).touch = m.touch := rfl
@[simp] theorem Mach.updChain_decode (f : Chain → Chain) : (m.updChain f).decode = m.decode := rfl
@[simp] theorem Mach.updChain_ingest (f : Chain → Chain) : (m.updChain f).ingest = m.ingest := rfl
@[simp] theorem Mach.updChain_encode (f : Chain → Chain) : (m.updChain f).encode = m.encode := rfl
@[simp] theorem Mach.updChain_defl (f : Chain → Chain) : (m.updChain f).defl = m.defl := rfl
@[simp] theorem Mach.updChain_checks (f : Chain → Chain) : (m.updChain f).checks = m.checks := rfl
@[simp] theorem Mach.updChain_layers (f : Chain → Chain) : (m.updChain f).layers = m.layers := rfl
@[simp] theorem Mach.updChain_heads (f : Chain → Chain) : (m.updChain f).heads = m.heads := rfl
@[simp] theorem Mach.updChain_fences (f : Chain → Chain) : (m.updChain f).fences = m.fences := rfl
@[simp] theorem Mach.updChain_sent (f : Chain → Chain) : (m.updChain f).sent = m.sent := rfl
@[simp] theorem Mach.rd_updChain (f : Chain → Chain) (key : Nat) : (m.updChain f).rd key = m.rd key := rfl
@[simp] theorem Mach.get_updChain (f : Chain → Chain) (x : Fld) : (m.updChain f).get x = m.get x := rfl
@[simp] theorem Mach.is_updChain (f : Chain → Chain) (x : Fld) : (m.updChain f).is x = m.is x := rfl
@[simp] theorem Mach.byte_updChain (f : Chain → Chain) (c : Nat) : (m.updChain f).byte c = m.byte c := rfl

/-! ### updDom -/

@[simp] theorem Mach.updDom_regs (i : Nat) (f : Domain → Domain) : (m.updDom i f).regs = m.regs := rfl
@[simp] theorem Mach.updDom_latched (i : Nat) (f : Domain → Domain) : (m.updDom i f).latched = m.latched := rfl
@[simp] theorem Mach.updDom_mem (i : Nat) (f : Domain → Domain) : (m.updDom i f).mem = m.mem := rfl
@[simp] theorem Mach.updDom_flips (i : Nat) (f : Domain → Domain) : (m.updDom i f).flips = m.flips := rfl
@[simp] theorem Mach.updDom_written (i : Nat) (f : Domain → Domain) : (m.updDom i f).written = m.written := rfl
@[simp] theorem Mach.updDom_nextAccess (i : Nat) (f : Domain → Domain) : (m.updDom i f).nextAccess = m.nextAccess := rfl
@[simp] theorem Mach.updDom_freeCount (i : Nat) (f : Domain → Domain) : (m.updDom i f).freeCount = m.freeCount := rfl
@[simp] theorem Mach.updDom_pwr (i : Nat) (f : Domain → Domain) : (m.updDom i f).pwr = m.pwr := rfl
@[simp] theorem Mach.updDom_boot (i : Nat) (f : Domain → Domain) : (m.updDom i f).boot = m.boot := rfl
@[simp] theorem Mach.updDom_pcie (i : Nat) (f : Domain → Domain) : (m.updDom i f).pcie = m.pcie := rfl
@[simp] theorem Mach.updDom_chain (i : Nat) (f : Domain → Domain) : (m.updDom i f).chain = m.chain := rfl
@[simp] theorem Mach.updDom_seqs (i : Nat) (f : Domain → Domain) : (m.updDom i f).seqs = m.seqs := rfl
@[simp] theorem Mach.updDom_dpll (i : Nat) (f : Domain → Domain) : (m.updDom i f).dpll = m.dpll := rfl
@[simp] theorem Mach.updDom_pins (i : Nat) (f : Domain → Domain) : (m.updDom i f).pins = m.pins := rfl
@[simp] theorem Mach.updDom_dram (i : Nat) (f : Domain → Domain) : (m.updDom i f).dram = m.dram := rfl
@[simp] theorem Mach.updDom_repair (i : Nat) (f : Domain → Domain) : (m.updDom i f).repair = m.repair := rfl
@[simp] theorem Mach.updDom_vault (i : Nat) (f : Domain → Domain) : (m.updDom i f).vault = m.vault := rfl
@[simp] theorem Mach.updDom_leases (i : Nat) (f : Domain → Domain) : (m.updDom i f).leases = m.leases := rfl
@[simp] theorem Mach.updDom_pair (i : Nat) (f : Domain → Domain) : (m.updDom i f).pair = m.pair := rfl
@[simp] theorem Mach.updDom_touch (i : Nat) (f : Domain → Domain) : (m.updDom i f).touch = m.touch := rfl
@[simp] theorem Mach.updDom_decode (i : Nat) (f : Domain → Domain) : (m.updDom i f).decode = m.decode := rfl
@[simp] theorem Mach.updDom_ingest (i : Nat) (f : Domain → Domain) : (m.updDom i f).ingest = m.ingest := rfl
@[simp] theorem Mach.updDom_encode (i : Nat) (f : Domain → Domain) : (m.updDom i f).encode = m.encode := rfl
@[simp] theorem Mach.updDom_defl (i : Nat) (f : Domain → Domain) : (m.updDom i f).defl = m.defl := rfl
@[simp] theorem Mach.updDom_checks (i : Nat) (f : Domain → Domain) : (m.updDom i f).checks = m.checks := rfl
@[simp] theorem Mach.updDom_layers (i : Nat) (f : Domain → Domain) : (m.updDom i f).layers = m.layers := rfl
@[simp] theorem Mach.updDom_heads (i : Nat) (f : Domain → Domain) : (m.updDom i f).heads = m.heads := rfl
@[simp] theorem Mach.updDom_fences (i : Nat) (f : Domain → Domain) : (m.updDom i f).fences = m.fences := rfl
@[simp] theorem Mach.updDom_sent (i : Nat) (f : Domain → Domain) : (m.updDom i f).sent = m.sent := rfl
@[simp] theorem Mach.rd_updDom (i : Nat) (f : Domain → Domain) (key : Nat) : (m.updDom i f).rd key = m.rd key := rfl
@[simp] theorem Mach.get_updDom (i : Nat) (f : Domain → Domain) (x : Fld) : (m.updDom i f).get x = m.get x := rfl
@[simp] theorem Mach.is_updDom (i : Nat) (f : Domain → Domain) (x : Fld) : (m.updDom i f).is x = m.is x := rfl
@[simp] theorem Mach.byte_updDom (i : Nat) (f : Domain → Domain) (c : Nat) : (m.updDom i f).byte c = m.byte c := rfl

/-! ### updDpll -/

@[simp] theorem Mach.updDpll_regs (f : Dpll → Dpll) : (m.updDpll f).regs = m.regs := rfl
@[simp] theorem Mach.updDpll_latched (f : Dpll → Dpll) : (m.updDpll f).latched = m.latched := rfl
@[simp] theorem Mach.updDpll_mem (f : Dpll → Dpll) : (m.updDpll f).mem = m.mem := rfl
@[simp] theorem Mach.updDpll_flips (f : Dpll → Dpll) : (m.updDpll f).flips = m.flips := rfl
@[simp] theorem Mach.updDpll_written (f : Dpll → Dpll) : (m.updDpll f).written = m.written := rfl
@[simp] theorem Mach.updDpll_nextAccess (f : Dpll → Dpll) : (m.updDpll f).nextAccess = m.nextAccess := rfl
@[simp] theorem Mach.updDpll_freeCount (f : Dpll → Dpll) : (m.updDpll f).freeCount = m.freeCount := rfl
@[simp] theorem Mach.updDpll_pwr (f : Dpll → Dpll) : (m.updDpll f).pwr = m.pwr := rfl
@[simp] theorem Mach.updDpll_boot (f : Dpll → Dpll) : (m.updDpll f).boot = m.boot := rfl
@[simp] theorem Mach.updDpll_pcie (f : Dpll → Dpll) : (m.updDpll f).pcie = m.pcie := rfl
@[simp] theorem Mach.updDpll_chain (f : Dpll → Dpll) : (m.updDpll f).chain = m.chain := rfl
@[simp] theorem Mach.updDpll_seqs (f : Dpll → Dpll) : (m.updDpll f).seqs = m.seqs := rfl
@[simp] theorem Mach.updDpll_time (f : Dpll → Dpll) : (m.updDpll f).time = m.time := rfl
@[simp] theorem Mach.updDpll_dpll (f : Dpll → Dpll) : (m.updDpll f).dpll = f m.dpll := rfl
@[simp] theorem Mach.updDpll_pins (f : Dpll → Dpll) : (m.updDpll f).pins = m.pins := rfl
@[simp] theorem Mach.updDpll_dram (f : Dpll → Dpll) : (m.updDpll f).dram = m.dram := rfl
@[simp] theorem Mach.updDpll_repair (f : Dpll → Dpll) : (m.updDpll f).repair = m.repair := rfl
@[simp] theorem Mach.updDpll_vault (f : Dpll → Dpll) : (m.updDpll f).vault = m.vault := rfl
@[simp] theorem Mach.updDpll_leases (f : Dpll → Dpll) : (m.updDpll f).leases = m.leases := rfl
@[simp] theorem Mach.updDpll_pair (f : Dpll → Dpll) : (m.updDpll f).pair = m.pair := rfl
@[simp] theorem Mach.updDpll_touch (f : Dpll → Dpll) : (m.updDpll f).touch = m.touch := rfl
@[simp] theorem Mach.updDpll_decode (f : Dpll → Dpll) : (m.updDpll f).decode = m.decode := rfl
@[simp] theorem Mach.updDpll_ingest (f : Dpll → Dpll) : (m.updDpll f).ingest = m.ingest := rfl
@[simp] theorem Mach.updDpll_encode (f : Dpll → Dpll) : (m.updDpll f).encode = m.encode := rfl
@[simp] theorem Mach.updDpll_defl (f : Dpll → Dpll) : (m.updDpll f).defl = m.defl := rfl
@[simp] theorem Mach.updDpll_checks (f : Dpll → Dpll) : (m.updDpll f).checks = m.checks := rfl
@[simp] theorem Mach.updDpll_layers (f : Dpll → Dpll) : (m.updDpll f).layers = m.layers := rfl
@[simp] theorem Mach.updDpll_heads (f : Dpll → Dpll) : (m.updDpll f).heads = m.heads := rfl
@[simp] theorem Mach.updDpll_fences (f : Dpll → Dpll) : (m.updDpll f).fences = m.fences := rfl
@[simp] theorem Mach.updDpll_sent (f : Dpll → Dpll) : (m.updDpll f).sent = m.sent := rfl
@[simp] theorem Mach.rd_updDpll (f : Dpll → Dpll) (key : Nat) : (m.updDpll f).rd key = m.rd key := rfl
@[simp] theorem Mach.get_updDpll (f : Dpll → Dpll) (x : Fld) : (m.updDpll f).get x = m.get x := rfl
@[simp] theorem Mach.is_updDpll (f : Dpll → Dpll) (x : Fld) : (m.updDpll f).is x = m.is x := rfl
@[simp] theorem Mach.byte_updDpll (f : Dpll → Dpll) (c : Nat) : (m.updDpll f).byte c = m.byte c := rfl

/-! ### updPins -/

@[simp] theorem Mach.updPins_regs (f : Pins → Pins) : (m.updPins f).regs = m.regs := rfl
@[simp] theorem Mach.updPins_latched (f : Pins → Pins) : (m.updPins f).latched = m.latched := rfl
@[simp] theorem Mach.updPins_mem (f : Pins → Pins) : (m.updPins f).mem = m.mem := rfl
@[simp] theorem Mach.updPins_flips (f : Pins → Pins) : (m.updPins f).flips = m.flips := rfl
@[simp] theorem Mach.updPins_written (f : Pins → Pins) : (m.updPins f).written = m.written := rfl
@[simp] theorem Mach.updPins_nextAccess (f : Pins → Pins) : (m.updPins f).nextAccess = m.nextAccess := rfl
@[simp] theorem Mach.updPins_freeCount (f : Pins → Pins) : (m.updPins f).freeCount = m.freeCount := rfl
@[simp] theorem Mach.updPins_pwr (f : Pins → Pins) : (m.updPins f).pwr = m.pwr := rfl
@[simp] theorem Mach.updPins_boot (f : Pins → Pins) : (m.updPins f).boot = m.boot := rfl
@[simp] theorem Mach.updPins_pcie (f : Pins → Pins) : (m.updPins f).pcie = m.pcie := rfl
@[simp] theorem Mach.updPins_chain (f : Pins → Pins) : (m.updPins f).chain = m.chain := rfl
@[simp] theorem Mach.updPins_seqs (f : Pins → Pins) : (m.updPins f).seqs = m.seqs := rfl
@[simp] theorem Mach.updPins_time (f : Pins → Pins) : (m.updPins f).time = m.time := rfl
@[simp] theorem Mach.updPins_dpll (f : Pins → Pins) : (m.updPins f).dpll = m.dpll := rfl
@[simp] theorem Mach.updPins_pins (f : Pins → Pins) : (m.updPins f).pins = f m.pins := rfl
@[simp] theorem Mach.updPins_dram (f : Pins → Pins) : (m.updPins f).dram = m.dram := rfl
@[simp] theorem Mach.updPins_repair (f : Pins → Pins) : (m.updPins f).repair = m.repair := rfl
@[simp] theorem Mach.updPins_vault (f : Pins → Pins) : (m.updPins f).vault = m.vault := rfl
@[simp] theorem Mach.updPins_leases (f : Pins → Pins) : (m.updPins f).leases = m.leases := rfl
@[simp] theorem Mach.updPins_pair (f : Pins → Pins) : (m.updPins f).pair = m.pair := rfl
@[simp] theorem Mach.updPins_touch (f : Pins → Pins) : (m.updPins f).touch = m.touch := rfl
@[simp] theorem Mach.updPins_decode (f : Pins → Pins) : (m.updPins f).decode = m.decode := rfl
@[simp] theorem Mach.updPins_ingest (f : Pins → Pins) : (m.updPins f).ingest = m.ingest := rfl
@[simp] theorem Mach.updPins_encode (f : Pins → Pins) : (m.updPins f).encode = m.encode := rfl
@[simp] theorem Mach.updPins_defl (f : Pins → Pins) : (m.updPins f).defl = m.defl := rfl
@[simp] theorem Mach.updPins_checks (f : Pins → Pins) : (m.updPins f).checks = m.checks := rfl
@[simp] theorem Mach.updPins_layers (f : Pins → Pins) : (m.updPins f).layers = m.layers := rfl
@[simp] theorem Mach.updPins_heads (f : Pins → Pins) : (m.updPins f).heads = m.heads := rfl
@[simp] theorem Mach.updPins_fences (f : Pins → Pins) : (m.updPins f).fences = m.fences := rfl
@[simp] theorem Mach.updPins_sent (f : Pins → Pins) : (m.updPins f).sent = m.sent := rfl
@[simp] theorem Mach.rd_updPins (f : Pins → Pins) (key : Nat) : (m.updPins f).rd key = m.rd key := rfl
@[simp] theorem Mach.get_updPins (f : Pins → Pins) (x : Fld) : (m.updPins f).get x = m.get x := rfl
@[simp] theorem Mach.is_updPins (f : Pins → Pins) (x : Fld) : (m.updPins f).is x = m.is x := rfl
@[simp] theorem Mach.byte_updPins (f : Pins → Pins) (c : Nat) : (m.updPins f).byte c = m.byte c := rfl

/-! ### updDram -/

@[simp] theorem Mach.updDram_regs (f : Dram → Dram) : (m.updDram f).regs = m.regs := rfl
@[simp] theorem Mach.updDram_latched (f : Dram → Dram) : (m.updDram f).latched = m.latched := rfl
@[simp] theorem Mach.updDram_mem (f : Dram → Dram) : (m.updDram f).mem = m.mem := rfl
@[simp] theorem Mach.updDram_flips (f : Dram → Dram) : (m.updDram f).flips = m.flips := rfl
@[simp] theorem Mach.updDram_written (f : Dram → Dram) : (m.updDram f).written = m.written := rfl
@[simp] theorem Mach.updDram_nextAccess (f : Dram → Dram) : (m.updDram f).nextAccess = m.nextAccess := rfl
@[simp] theorem Mach.updDram_freeCount (f : Dram → Dram) : (m.updDram f).freeCount = m.freeCount := rfl
@[simp] theorem Mach.updDram_pwr (f : Dram → Dram) : (m.updDram f).pwr = m.pwr := rfl
@[simp] theorem Mach.updDram_boot (f : Dram → Dram) : (m.updDram f).boot = m.boot := rfl
@[simp] theorem Mach.updDram_pcie (f : Dram → Dram) : (m.updDram f).pcie = m.pcie := rfl
@[simp] theorem Mach.updDram_chain (f : Dram → Dram) : (m.updDram f).chain = m.chain := rfl
@[simp] theorem Mach.updDram_seqs (f : Dram → Dram) : (m.updDram f).seqs = m.seqs := rfl
@[simp] theorem Mach.updDram_time (f : Dram → Dram) : (m.updDram f).time = m.time := rfl
@[simp] theorem Mach.updDram_dpll (f : Dram → Dram) : (m.updDram f).dpll = m.dpll := rfl
@[simp] theorem Mach.updDram_pins (f : Dram → Dram) : (m.updDram f).pins = m.pins := rfl
@[simp] theorem Mach.updDram_dram (f : Dram → Dram) : (m.updDram f).dram = f m.dram := rfl
@[simp] theorem Mach.updDram_repair (f : Dram → Dram) : (m.updDram f).repair = m.repair := rfl
@[simp] theorem Mach.updDram_vault (f : Dram → Dram) : (m.updDram f).vault = m.vault := rfl
@[simp] theorem Mach.updDram_leases (f : Dram → Dram) : (m.updDram f).leases = m.leases := rfl
@[simp] theorem Mach.updDram_pair (f : Dram → Dram) : (m.updDram f).pair = m.pair := rfl
@[simp] theorem Mach.updDram_touch (f : Dram → Dram) : (m.updDram f).touch = m.touch := rfl
@[simp] theorem Mach.updDram_decode (f : Dram → Dram) : (m.updDram f).decode = m.decode := rfl
@[simp] theorem Mach.updDram_ingest (f : Dram → Dram) : (m.updDram f).ingest = m.ingest := rfl
@[simp] theorem Mach.updDram_encode (f : Dram → Dram) : (m.updDram f).encode = m.encode := rfl
@[simp] theorem Mach.updDram_defl (f : Dram → Dram) : (m.updDram f).defl = m.defl := rfl
@[simp] theorem Mach.updDram_checks (f : Dram → Dram) : (m.updDram f).checks = m.checks := rfl
@[simp] theorem Mach.updDram_layers (f : Dram → Dram) : (m.updDram f).layers = m.layers := rfl
@[simp] theorem Mach.updDram_heads (f : Dram → Dram) : (m.updDram f).heads = m.heads := rfl
@[simp] theorem Mach.updDram_fences (f : Dram → Dram) : (m.updDram f).fences = m.fences := rfl
@[simp] theorem Mach.updDram_sent (f : Dram → Dram) : (m.updDram f).sent = m.sent := rfl
@[simp] theorem Mach.rd_updDram (f : Dram → Dram) (key : Nat) : (m.updDram f).rd key = m.rd key := rfl
@[simp] theorem Mach.get_updDram (f : Dram → Dram) (x : Fld) : (m.updDram f).get x = m.get x := rfl
@[simp] theorem Mach.is_updDram (f : Dram → Dram) (x : Fld) : (m.updDram f).is x = m.is x := rfl
@[simp] theorem Mach.byte_updDram (f : Dram → Dram) (c : Nat) : (m.updDram f).byte c = m.byte c := rfl

/-! ### updRepair -/

@[simp] theorem Mach.updRepair_regs (f : Repair → Repair) : (m.updRepair f).regs = m.regs := rfl
@[simp] theorem Mach.updRepair_latched (f : Repair → Repair) : (m.updRepair f).latched = m.latched := rfl
@[simp] theorem Mach.updRepair_mem (f : Repair → Repair) : (m.updRepair f).mem = m.mem := rfl
@[simp] theorem Mach.updRepair_flips (f : Repair → Repair) : (m.updRepair f).flips = m.flips := rfl
@[simp] theorem Mach.updRepair_written (f : Repair → Repair) : (m.updRepair f).written = m.written := rfl
@[simp] theorem Mach.updRepair_nextAccess (f : Repair → Repair) : (m.updRepair f).nextAccess = m.nextAccess := rfl
@[simp] theorem Mach.updRepair_freeCount (f : Repair → Repair) : (m.updRepair f).freeCount = m.freeCount := rfl
@[simp] theorem Mach.updRepair_pwr (f : Repair → Repair) : (m.updRepair f).pwr = m.pwr := rfl
@[simp] theorem Mach.updRepair_boot (f : Repair → Repair) : (m.updRepair f).boot = m.boot := rfl
@[simp] theorem Mach.updRepair_pcie (f : Repair → Repair) : (m.updRepair f).pcie = m.pcie := rfl
@[simp] theorem Mach.updRepair_chain (f : Repair → Repair) : (m.updRepair f).chain = m.chain := rfl
@[simp] theorem Mach.updRepair_seqs (f : Repair → Repair) : (m.updRepair f).seqs = m.seqs := rfl
@[simp] theorem Mach.updRepair_time (f : Repair → Repair) : (m.updRepair f).time = m.time := rfl
@[simp] theorem Mach.updRepair_dpll (f : Repair → Repair) : (m.updRepair f).dpll = m.dpll := rfl
@[simp] theorem Mach.updRepair_pins (f : Repair → Repair) : (m.updRepair f).pins = m.pins := rfl
@[simp] theorem Mach.updRepair_dram (f : Repair → Repair) : (m.updRepair f).dram = m.dram := rfl
@[simp] theorem Mach.updRepair_repair (f : Repair → Repair) : (m.updRepair f).repair = f m.repair := rfl
@[simp] theorem Mach.updRepair_vault (f : Repair → Repair) : (m.updRepair f).vault = m.vault := rfl
@[simp] theorem Mach.updRepair_leases (f : Repair → Repair) : (m.updRepair f).leases = m.leases := rfl
@[simp] theorem Mach.updRepair_pair (f : Repair → Repair) : (m.updRepair f).pair = m.pair := rfl
@[simp] theorem Mach.updRepair_touch (f : Repair → Repair) : (m.updRepair f).touch = m.touch := rfl
@[simp] theorem Mach.updRepair_decode (f : Repair → Repair) : (m.updRepair f).decode = m.decode := rfl
@[simp] theorem Mach.updRepair_ingest (f : Repair → Repair) : (m.updRepair f).ingest = m.ingest := rfl
@[simp] theorem Mach.updRepair_encode (f : Repair → Repair) : (m.updRepair f).encode = m.encode := rfl
@[simp] theorem Mach.updRepair_defl (f : Repair → Repair) : (m.updRepair f).defl = m.defl := rfl
@[simp] theorem Mach.updRepair_checks (f : Repair → Repair) : (m.updRepair f).checks = m.checks := rfl
@[simp] theorem Mach.updRepair_layers (f : Repair → Repair) : (m.updRepair f).layers = m.layers := rfl
@[simp] theorem Mach.updRepair_heads (f : Repair → Repair) : (m.updRepair f).heads = m.heads := rfl
@[simp] theorem Mach.updRepair_fences (f : Repair → Repair) : (m.updRepair f).fences = m.fences := rfl
@[simp] theorem Mach.updRepair_sent (f : Repair → Repair) : (m.updRepair f).sent = m.sent := rfl
@[simp] theorem Mach.rd_updRepair (f : Repair → Repair) (key : Nat) : (m.updRepair f).rd key = m.rd key := rfl
@[simp] theorem Mach.get_updRepair (f : Repair → Repair) (x : Fld) : (m.updRepair f).get x = m.get x := rfl
@[simp] theorem Mach.is_updRepair (f : Repair → Repair) (x : Fld) : (m.updRepair f).is x = m.is x := rfl
@[simp] theorem Mach.byte_updRepair (f : Repair → Repair) (c : Nat) : (m.updRepair f).byte c = m.byte c := rfl

/-! ### updVault -/

@[simp] theorem Mach.updVault_regs (f : Vault → Vault) : (m.updVault f).regs = m.regs := rfl
@[simp] theorem Mach.updVault_latched (f : Vault → Vault) : (m.updVault f).latched = m.latched := rfl
@[simp] theorem Mach.updVault_mem (f : Vault → Vault) : (m.updVault f).mem = m.mem := rfl
@[simp] theorem Mach.updVault_flips (f : Vault → Vault) : (m.updVault f).flips = m.flips := rfl
@[simp] theorem Mach.updVault_written (f : Vault → Vault) : (m.updVault f).written = m.written := rfl
@[simp] theorem Mach.updVault_nextAccess (f : Vault → Vault) : (m.updVault f).nextAccess = m.nextAccess := rfl
@[simp] theorem Mach.updVault_freeCount (f : Vault → Vault) : (m.updVault f).freeCount = m.freeCount := rfl
@[simp] theorem Mach.updVault_pwr (f : Vault → Vault) : (m.updVault f).pwr = m.pwr := rfl
@[simp] theorem Mach.updVault_boot (f : Vault → Vault) : (m.updVault f).boot = m.boot := rfl
@[simp] theorem Mach.updVault_pcie (f : Vault → Vault) : (m.updVault f).pcie = m.pcie := rfl
@[simp] theorem Mach.updVault_chain (f : Vault → Vault) : (m.updVault f).chain = m.chain := rfl
@[simp] theorem Mach.updVault_seqs (f : Vault → Vault) : (m.updVault f).seqs = m.seqs := rfl
@[simp] theorem Mach.updVault_time (f : Vault → Vault) : (m.updVault f).time = m.time := rfl
@[simp] theorem Mach.updVault_dpll (f : Vault → Vault) : (m.updVault f).dpll = m.dpll := rfl
@[simp] theorem Mach.updVault_pins (f : Vault → Vault) : (m.updVault f).pins = m.pins := rfl
@[simp] theorem Mach.updVault_dram (f : Vault → Vault) : (m.updVault f).dram = m.dram := rfl
@[simp] theorem Mach.updVault_repair (f : Vault → Vault) : (m.updVault f).repair = m.repair := rfl
@[simp] theorem Mach.updVault_vault (f : Vault → Vault) : (m.updVault f).vault = f m.vault := rfl
@[simp] theorem Mach.updVault_leases (f : Vault → Vault) : (m.updVault f).leases = m.leases := rfl
@[simp] theorem Mach.updVault_pair (f : Vault → Vault) : (m.updVault f).pair = m.pair := rfl
@[simp] theorem Mach.updVault_touch (f : Vault → Vault) : (m.updVault f).touch = m.touch := rfl
@[simp] theorem Mach.updVault_decode (f : Vault → Vault) : (m.updVault f).decode = m.decode := rfl
@[simp] theorem Mach.updVault_ingest (f : Vault → Vault) : (m.updVault f).ingest = m.ingest := rfl
@[simp] theorem Mach.updVault_encode (f : Vault → Vault) : (m.updVault f).encode = m.encode := rfl
@[simp] theorem Mach.updVault_defl (f : Vault → Vault) : (m.updVault f).defl = m.defl := rfl
@[simp] theorem Mach.updVault_checks (f : Vault → Vault) : (m.updVault f).checks = m.checks := rfl
@[simp] theorem Mach.updVault_layers (f : Vault → Vault) : (m.updVault f).layers = m.layers := rfl
@[simp] theorem Mach.updVault_heads (f : Vault → Vault) : (m.updVault f).heads = m.heads := rfl
@[simp] theorem Mach.updVault_fences (f : Vault → Vault) : (m.updVault f).fences = m.fences := rfl
@[simp] theorem Mach.updVault_sent (f : Vault → Vault) : (m.updVault f).sent = m.sent := rfl
@[simp] theorem Mach.rd_updVault (f : Vault → Vault) (key : Nat) : (m.updVault f).rd key = m.rd key := rfl
@[simp] theorem Mach.get_updVault (f : Vault → Vault) (x : Fld) : (m.updVault f).get x = m.get x := rfl
@[simp] theorem Mach.is_updVault (f : Vault → Vault) (x : Fld) : (m.updVault f).is x = m.is x := rfl
@[simp] theorem Mach.byte_updVault (f : Vault → Vault) (c : Nat) : (m.updVault f).byte c = m.byte c := rfl

/-! ### updLeases -/

@[simp] theorem Mach.updLeases_regs (f : Leases → Leases) : (m.updLeases f).regs = m.regs := rfl
@[simp] theorem Mach.updLeases_latched (f : Leases → Leases) : (m.updLeases f).latched = m.latched := rfl
@[simp] theorem Mach.updLeases_mem (f : Leases → Leases) : (m.updLeases f).mem = m.mem := rfl
@[simp] theorem Mach.updLeases_flips (f : Leases → Leases) : (m.updLeases f).flips = m.flips := rfl
@[simp] theorem Mach.updLeases_written (f : Leases → Leases) : (m.updLeases f).written = m.written := rfl
@[simp] theorem Mach.updLeases_nextAccess (f : Leases → Leases) : (m.updLeases f).nextAccess = m.nextAccess := rfl
@[simp] theorem Mach.updLeases_freeCount (f : Leases → Leases) : (m.updLeases f).freeCount = m.freeCount := rfl
@[simp] theorem Mach.updLeases_pwr (f : Leases → Leases) : (m.updLeases f).pwr = m.pwr := rfl
@[simp] theorem Mach.updLeases_boot (f : Leases → Leases) : (m.updLeases f).boot = m.boot := rfl
@[simp] theorem Mach.updLeases_pcie (f : Leases → Leases) : (m.updLeases f).pcie = m.pcie := rfl
@[simp] theorem Mach.updLeases_chain (f : Leases → Leases) : (m.updLeases f).chain = m.chain := rfl
@[simp] theorem Mach.updLeases_seqs (f : Leases → Leases) : (m.updLeases f).seqs = m.seqs := rfl
@[simp] theorem Mach.updLeases_time (f : Leases → Leases) : (m.updLeases f).time = m.time := rfl
@[simp] theorem Mach.updLeases_dpll (f : Leases → Leases) : (m.updLeases f).dpll = m.dpll := rfl
@[simp] theorem Mach.updLeases_pins (f : Leases → Leases) : (m.updLeases f).pins = m.pins := rfl
@[simp] theorem Mach.updLeases_dram (f : Leases → Leases) : (m.updLeases f).dram = m.dram := rfl
@[simp] theorem Mach.updLeases_repair (f : Leases → Leases) : (m.updLeases f).repair = m.repair := rfl
@[simp] theorem Mach.updLeases_vault (f : Leases → Leases) : (m.updLeases f).vault = m.vault := rfl
@[simp] theorem Mach.updLeases_leases (f : Leases → Leases) : (m.updLeases f).leases = f m.leases := rfl
@[simp] theorem Mach.updLeases_pair (f : Leases → Leases) : (m.updLeases f).pair = m.pair := rfl
@[simp] theorem Mach.updLeases_touch (f : Leases → Leases) : (m.updLeases f).touch = m.touch := rfl
@[simp] theorem Mach.updLeases_decode (f : Leases → Leases) : (m.updLeases f).decode = m.decode := rfl
@[simp] theorem Mach.updLeases_ingest (f : Leases → Leases) : (m.updLeases f).ingest = m.ingest := rfl
@[simp] theorem Mach.updLeases_encode (f : Leases → Leases) : (m.updLeases f).encode = m.encode := rfl
@[simp] theorem Mach.updLeases_defl (f : Leases → Leases) : (m.updLeases f).defl = m.defl := rfl
@[simp] theorem Mach.updLeases_checks (f : Leases → Leases) : (m.updLeases f).checks = m.checks := rfl
@[simp] theorem Mach.updLeases_layers (f : Leases → Leases) : (m.updLeases f).layers = m.layers := rfl
@[simp] theorem Mach.updLeases_heads (f : Leases → Leases) : (m.updLeases f).heads = m.heads := rfl
@[simp] theorem Mach.updLeases_fences (f : Leases → Leases) : (m.updLeases f).fences = m.fences := rfl
@[simp] theorem Mach.updLeases_sent (f : Leases → Leases) : (m.updLeases f).sent = m.sent := rfl
@[simp] theorem Mach.rd_updLeases (f : Leases → Leases) (key : Nat) : (m.updLeases f).rd key = m.rd key := rfl
@[simp] theorem Mach.get_updLeases (f : Leases → Leases) (x : Fld) : (m.updLeases f).get x = m.get x := rfl
@[simp] theorem Mach.is_updLeases (f : Leases → Leases) (x : Fld) : (m.updLeases f).is x = m.is x := rfl
@[simp] theorem Mach.byte_updLeases (f : Leases → Leases) (c : Nat) : (m.updLeases f).byte c = m.byte c := rfl

/-! ### updPair -/

@[simp] theorem Mach.updPair_regs (f : Pair → Pair) : (m.updPair f).regs = m.regs := rfl
@[simp] theorem Mach.updPair_latched (f : Pair → Pair) : (m.updPair f).latched = m.latched := rfl
@[simp] theorem Mach.updPair_mem (f : Pair → Pair) : (m.updPair f).mem = m.mem := rfl
@[simp] theorem Mach.updPair_flips (f : Pair → Pair) : (m.updPair f).flips = m.flips := rfl
@[simp] theorem Mach.updPair_written (f : Pair → Pair) : (m.updPair f).written = m.written := rfl
@[simp] theorem Mach.updPair_nextAccess (f : Pair → Pair) : (m.updPair f).nextAccess = m.nextAccess := rfl
@[simp] theorem Mach.updPair_freeCount (f : Pair → Pair) : (m.updPair f).freeCount = m.freeCount := rfl
@[simp] theorem Mach.updPair_pwr (f : Pair → Pair) : (m.updPair f).pwr = m.pwr := rfl
@[simp] theorem Mach.updPair_boot (f : Pair → Pair) : (m.updPair f).boot = m.boot := rfl
@[simp] theorem Mach.updPair_pcie (f : Pair → Pair) : (m.updPair f).pcie = m.pcie := rfl
@[simp] theorem Mach.updPair_chain (f : Pair → Pair) : (m.updPair f).chain = m.chain := rfl
@[simp] theorem Mach.updPair_seqs (f : Pair → Pair) : (m.updPair f).seqs = m.seqs := rfl
@[simp] theorem Mach.updPair_time (f : Pair → Pair) : (m.updPair f).time = m.time := rfl
@[simp] theorem Mach.updPair_dpll (f : Pair → Pair) : (m.updPair f).dpll = m.dpll := rfl
@[simp] theorem Mach.updPair_pins (f : Pair → Pair) : (m.updPair f).pins = m.pins := rfl
@[simp] theorem Mach.updPair_dram (f : Pair → Pair) : (m.updPair f).dram = m.dram := rfl
@[simp] theorem Mach.updPair_repair (f : Pair → Pair) : (m.updPair f).repair = m.repair := rfl
@[simp] theorem Mach.updPair_vault (f : Pair → Pair) : (m.updPair f).vault = m.vault := rfl
@[simp] theorem Mach.updPair_leases (f : Pair → Pair) : (m.updPair f).leases = m.leases := rfl
@[simp] theorem Mach.updPair_pair (f : Pair → Pair) : (m.updPair f).pair = f m.pair := rfl
@[simp] theorem Mach.updPair_touch (f : Pair → Pair) : (m.updPair f).touch = m.touch := rfl
@[simp] theorem Mach.updPair_decode (f : Pair → Pair) : (m.updPair f).decode = m.decode := rfl
@[simp] theorem Mach.updPair_ingest (f : Pair → Pair) : (m.updPair f).ingest = m.ingest := rfl
@[simp] theorem Mach.updPair_encode (f : Pair → Pair) : (m.updPair f).encode = m.encode := rfl
@[simp] theorem Mach.updPair_defl (f : Pair → Pair) : (m.updPair f).defl = m.defl := rfl
@[simp] theorem Mach.updPair_checks (f : Pair → Pair) : (m.updPair f).checks = m.checks := rfl
@[simp] theorem Mach.updPair_layers (f : Pair → Pair) : (m.updPair f).layers = m.layers := rfl
@[simp] theorem Mach.updPair_heads (f : Pair → Pair) : (m.updPair f).heads = m.heads := rfl
@[simp] theorem Mach.updPair_fences (f : Pair → Pair) : (m.updPair f).fences = m.fences := rfl
@[simp] theorem Mach.updPair_sent (f : Pair → Pair) : (m.updPair f).sent = m.sent := rfl
@[simp] theorem Mach.rd_updPair (f : Pair → Pair) (key : Nat) : (m.updPair f).rd key = m.rd key := rfl
@[simp] theorem Mach.get_updPair (f : Pair → Pair) (x : Fld) : (m.updPair f).get x = m.get x := rfl
@[simp] theorem Mach.is_updPair (f : Pair → Pair) (x : Fld) : (m.updPair f).is x = m.is x := rfl
@[simp] theorem Mach.byte_updPair (f : Pair → Pair) (c : Nat) : (m.updPair f).byte c = m.byte c := rfl

/-! ### updTouch -/

@[simp] theorem Mach.updTouch_regs (f : Touch → Touch) : (m.updTouch f).regs = m.regs := rfl
@[simp] theorem Mach.updTouch_latched (f : Touch → Touch) : (m.updTouch f).latched = m.latched := rfl
@[simp] theorem Mach.updTouch_mem (f : Touch → Touch) : (m.updTouch f).mem = m.mem := rfl
@[simp] theorem Mach.updTouch_flips (f : Touch → Touch) : (m.updTouch f).flips = m.flips := rfl
@[simp] theorem Mach.updTouch_written (f : Touch → Touch) : (m.updTouch f).written = m.written := rfl
@[simp] theorem Mach.updTouch_nextAccess (f : Touch → Touch) : (m.updTouch f).nextAccess = m.nextAccess := rfl
@[simp] theorem Mach.updTouch_freeCount (f : Touch → Touch) : (m.updTouch f).freeCount = m.freeCount := rfl
@[simp] theorem Mach.updTouch_pwr (f : Touch → Touch) : (m.updTouch f).pwr = m.pwr := rfl
@[simp] theorem Mach.updTouch_boot (f : Touch → Touch) : (m.updTouch f).boot = m.boot := rfl
@[simp] theorem Mach.updTouch_pcie (f : Touch → Touch) : (m.updTouch f).pcie = m.pcie := rfl
@[simp] theorem Mach.updTouch_chain (f : Touch → Touch) : (m.updTouch f).chain = m.chain := rfl
@[simp] theorem Mach.updTouch_seqs (f : Touch → Touch) : (m.updTouch f).seqs = m.seqs := rfl
@[simp] theorem Mach.updTouch_time (f : Touch → Touch) : (m.updTouch f).time = m.time := rfl
@[simp] theorem Mach.updTouch_dpll (f : Touch → Touch) : (m.updTouch f).dpll = m.dpll := rfl
@[simp] theorem Mach.updTouch_pins (f : Touch → Touch) : (m.updTouch f).pins = m.pins := rfl
@[simp] theorem Mach.updTouch_dram (f : Touch → Touch) : (m.updTouch f).dram = m.dram := rfl
@[simp] theorem Mach.updTouch_repair (f : Touch → Touch) : (m.updTouch f).repair = m.repair := rfl
@[simp] theorem Mach.updTouch_vault (f : Touch → Touch) : (m.updTouch f).vault = m.vault := rfl
@[simp] theorem Mach.updTouch_leases (f : Touch → Touch) : (m.updTouch f).leases = m.leases := rfl
@[simp] theorem Mach.updTouch_pair (f : Touch → Touch) : (m.updTouch f).pair = m.pair := rfl
@[simp] theorem Mach.updTouch_touch (f : Touch → Touch) : (m.updTouch f).touch = f m.touch := rfl
@[simp] theorem Mach.updTouch_decode (f : Touch → Touch) : (m.updTouch f).decode = m.decode := rfl
@[simp] theorem Mach.updTouch_ingest (f : Touch → Touch) : (m.updTouch f).ingest = m.ingest := rfl
@[simp] theorem Mach.updTouch_encode (f : Touch → Touch) : (m.updTouch f).encode = m.encode := rfl
@[simp] theorem Mach.updTouch_defl (f : Touch → Touch) : (m.updTouch f).defl = m.defl := rfl
@[simp] theorem Mach.updTouch_checks (f : Touch → Touch) : (m.updTouch f).checks = m.checks := rfl
@[simp] theorem Mach.updTouch_layers (f : Touch → Touch) : (m.updTouch f).layers = m.layers := rfl
@[simp] theorem Mach.updTouch_heads (f : Touch → Touch) : (m.updTouch f).heads = m.heads := rfl
@[simp] theorem Mach.updTouch_fences (f : Touch → Touch) : (m.updTouch f).fences = m.fences := rfl
@[simp] theorem Mach.updTouch_sent (f : Touch → Touch) : (m.updTouch f).sent = m.sent := rfl
@[simp] theorem Mach.rd_updTouch (f : Touch → Touch) (key : Nat) : (m.updTouch f).rd key = m.rd key := rfl
@[simp] theorem Mach.get_updTouch (f : Touch → Touch) (x : Fld) : (m.updTouch f).get x = m.get x := rfl
@[simp] theorem Mach.is_updTouch (f : Touch → Touch) (x : Fld) : (m.updTouch f).is x = m.is x := rfl
@[simp] theorem Mach.byte_updTouch (f : Touch → Touch) (c : Nat) : (m.updTouch f).byte c = m.byte c := rfl

/-! ### updElem -/

@[simp] theorem Mach.updElem_regs (i : Nat) (f : TouchElem → TouchElem) : (m.updElem i f).regs = m.regs := rfl
@[simp] theorem Mach.updElem_latched (i : Nat) (f : TouchElem → TouchElem) : (m.updElem i f).latched = m.latched := rfl
@[simp] theorem Mach.updElem_mem (i : Nat) (f : TouchElem → TouchElem) : (m.updElem i f).mem = m.mem := rfl
@[simp] theorem Mach.updElem_flips (i : Nat) (f : TouchElem → TouchElem) : (m.updElem i f).flips = m.flips := rfl
@[simp] theorem Mach.updElem_written (i : Nat) (f : TouchElem → TouchElem) : (m.updElem i f).written = m.written := rfl
@[simp] theorem Mach.updElem_nextAccess (i : Nat) (f : TouchElem → TouchElem) : (m.updElem i f).nextAccess = m.nextAccess := rfl
@[simp] theorem Mach.updElem_freeCount (i : Nat) (f : TouchElem → TouchElem) : (m.updElem i f).freeCount = m.freeCount := rfl
@[simp] theorem Mach.updElem_pwr (i : Nat) (f : TouchElem → TouchElem) : (m.updElem i f).pwr = m.pwr := rfl
@[simp] theorem Mach.updElem_boot (i : Nat) (f : TouchElem → TouchElem) : (m.updElem i f).boot = m.boot := rfl
@[simp] theorem Mach.updElem_pcie (i : Nat) (f : TouchElem → TouchElem) : (m.updElem i f).pcie = m.pcie := rfl
@[simp] theorem Mach.updElem_chain (i : Nat) (f : TouchElem → TouchElem) : (m.updElem i f).chain = m.chain := rfl
@[simp] theorem Mach.updElem_seqs (i : Nat) (f : TouchElem → TouchElem) : (m.updElem i f).seqs = m.seqs := rfl
@[simp] theorem Mach.updElem_time (i : Nat) (f : TouchElem → TouchElem) : (m.updElem i f).time = m.time := rfl
@[simp] theorem Mach.updElem_dpll (i : Nat) (f : TouchElem → TouchElem) : (m.updElem i f).dpll = m.dpll := rfl
@[simp] theorem Mach.updElem_pins (i : Nat) (f : TouchElem → TouchElem) : (m.updElem i f).pins = m.pins := rfl
@[simp] theorem Mach.updElem_dram (i : Nat) (f : TouchElem → TouchElem) : (m.updElem i f).dram = m.dram := rfl
@[simp] theorem Mach.updElem_repair (i : Nat) (f : TouchElem → TouchElem) : (m.updElem i f).repair = m.repair := rfl
@[simp] theorem Mach.updElem_vault (i : Nat) (f : TouchElem → TouchElem) : (m.updElem i f).vault = m.vault := rfl
@[simp] theorem Mach.updElem_leases (i : Nat) (f : TouchElem → TouchElem) : (m.updElem i f).leases = m.leases := rfl
@[simp] theorem Mach.updElem_pair (i : Nat) (f : TouchElem → TouchElem) : (m.updElem i f).pair = m.pair := rfl
@[simp] theorem Mach.updElem_decode (i : Nat) (f : TouchElem → TouchElem) : (m.updElem i f).decode = m.decode := rfl
@[simp] theorem Mach.updElem_ingest (i : Nat) (f : TouchElem → TouchElem) : (m.updElem i f).ingest = m.ingest := rfl
@[simp] theorem Mach.updElem_encode (i : Nat) (f : TouchElem → TouchElem) : (m.updElem i f).encode = m.encode := rfl
@[simp] theorem Mach.updElem_defl (i : Nat) (f : TouchElem → TouchElem) : (m.updElem i f).defl = m.defl := rfl
@[simp] theorem Mach.updElem_checks (i : Nat) (f : TouchElem → TouchElem) : (m.updElem i f).checks = m.checks := rfl
@[simp] theorem Mach.updElem_layers (i : Nat) (f : TouchElem → TouchElem) : (m.updElem i f).layers = m.layers := rfl
@[simp] theorem Mach.updElem_heads (i : Nat) (f : TouchElem → TouchElem) : (m.updElem i f).heads = m.heads := rfl
@[simp] theorem Mach.updElem_fences (i : Nat) (f : TouchElem → TouchElem) : (m.updElem i f).fences = m.fences := rfl
@[simp] theorem Mach.updElem_sent (i : Nat) (f : TouchElem → TouchElem) : (m.updElem i f).sent = m.sent := rfl
@[simp] theorem Mach.rd_updElem (i : Nat) (f : TouchElem → TouchElem) (key : Nat) : (m.updElem i f).rd key = m.rd key := rfl
@[simp] theorem Mach.get_updElem (i : Nat) (f : TouchElem → TouchElem) (x : Fld) : (m.updElem i f).get x = m.get x := rfl
@[simp] theorem Mach.is_updElem (i : Nat) (f : TouchElem → TouchElem) (x : Fld) : (m.updElem i f).is x = m.is x := rfl
@[simp] theorem Mach.byte_updElem (i : Nat) (f : TouchElem → TouchElem) (c : Nat) : (m.updElem i f).byte c = m.byte c := rfl

/-! ### updDecode -/

@[simp] theorem Mach.updDecode_regs (f : Decode → Decode) : (m.updDecode f).regs = m.regs := rfl
@[simp] theorem Mach.updDecode_latched (f : Decode → Decode) : (m.updDecode f).latched = m.latched := rfl
@[simp] theorem Mach.updDecode_mem (f : Decode → Decode) : (m.updDecode f).mem = m.mem := rfl
@[simp] theorem Mach.updDecode_flips (f : Decode → Decode) : (m.updDecode f).flips = m.flips := rfl
@[simp] theorem Mach.updDecode_written (f : Decode → Decode) : (m.updDecode f).written = m.written := rfl
@[simp] theorem Mach.updDecode_nextAccess (f : Decode → Decode) : (m.updDecode f).nextAccess = m.nextAccess := rfl
@[simp] theorem Mach.updDecode_freeCount (f : Decode → Decode) : (m.updDecode f).freeCount = m.freeCount := rfl
@[simp] theorem Mach.updDecode_pwr (f : Decode → Decode) : (m.updDecode f).pwr = m.pwr := rfl
@[simp] theorem Mach.updDecode_boot (f : Decode → Decode) : (m.updDecode f).boot = m.boot := rfl
@[simp] theorem Mach.updDecode_pcie (f : Decode → Decode) : (m.updDecode f).pcie = m.pcie := rfl
@[simp] theorem Mach.updDecode_chain (f : Decode → Decode) : (m.updDecode f).chain = m.chain := rfl
@[simp] theorem Mach.updDecode_seqs (f : Decode → Decode) : (m.updDecode f).seqs = m.seqs := rfl
@[simp] theorem Mach.updDecode_time (f : Decode → Decode) : (m.updDecode f).time = m.time := rfl
@[simp] theorem Mach.updDecode_dpll (f : Decode → Decode) : (m.updDecode f).dpll = m.dpll := rfl
@[simp] theorem Mach.updDecode_pins (f : Decode → Decode) : (m.updDecode f).pins = m.pins := rfl
@[simp] theorem Mach.updDecode_dram (f : Decode → Decode) : (m.updDecode f).dram = m.dram := rfl
@[simp] theorem Mach.updDecode_repair (f : Decode → Decode) : (m.updDecode f).repair = m.repair := rfl
@[simp] theorem Mach.updDecode_vault (f : Decode → Decode) : (m.updDecode f).vault = m.vault := rfl
@[simp] theorem Mach.updDecode_leases (f : Decode → Decode) : (m.updDecode f).leases = m.leases := rfl
@[simp] theorem Mach.updDecode_pair (f : Decode → Decode) : (m.updDecode f).pair = m.pair := rfl
@[simp] theorem Mach.updDecode_touch (f : Decode → Decode) : (m.updDecode f).touch = m.touch := rfl
@[simp] theorem Mach.updDecode_decode (f : Decode → Decode) : (m.updDecode f).decode = f m.decode := rfl
@[simp] theorem Mach.updDecode_ingest (f : Decode → Decode) : (m.updDecode f).ingest = m.ingest := rfl
@[simp] theorem Mach.updDecode_encode (f : Decode → Decode) : (m.updDecode f).encode = m.encode := rfl
@[simp] theorem Mach.updDecode_defl (f : Decode → Decode) : (m.updDecode f).defl = m.defl := rfl
@[simp] theorem Mach.updDecode_checks (f : Decode → Decode) : (m.updDecode f).checks = m.checks := rfl
@[simp] theorem Mach.updDecode_layers (f : Decode → Decode) : (m.updDecode f).layers = m.layers := rfl
@[simp] theorem Mach.updDecode_heads (f : Decode → Decode) : (m.updDecode f).heads = m.heads := rfl
@[simp] theorem Mach.updDecode_fences (f : Decode → Decode) : (m.updDecode f).fences = m.fences := rfl
@[simp] theorem Mach.updDecode_sent (f : Decode → Decode) : (m.updDecode f).sent = m.sent := rfl
@[simp] theorem Mach.rd_updDecode (f : Decode → Decode) (key : Nat) : (m.updDecode f).rd key = m.rd key := rfl
@[simp] theorem Mach.get_updDecode (f : Decode → Decode) (x : Fld) : (m.updDecode f).get x = m.get x := rfl
@[simp] theorem Mach.is_updDecode (f : Decode → Decode) (x : Fld) : (m.updDecode f).is x = m.is x := rfl
@[simp] theorem Mach.byte_updDecode (f : Decode → Decode) (c : Nat) : (m.updDecode f).byte c = m.byte c := rfl

/-! ### updStrm -/

@[simp] theorem Mach.updStrm_regs (i : Nat) (f : DecStream → DecStream) : (m.updStrm i f).regs = m.regs := rfl
@[simp] theorem Mach.updStrm_latched (i : Nat) (f : DecStream → DecStream) : (m.updStrm i f).latched = m.latched := rfl
@[simp] theorem Mach.updStrm_mem (i : Nat) (f : DecStream → DecStream) : (m.updStrm i f).mem = m.mem := rfl
@[simp] theorem Mach.updStrm_flips (i : Nat) (f : DecStream → DecStream) : (m.updStrm i f).flips = m.flips := rfl
@[simp] theorem Mach.updStrm_written (i : Nat) (f : DecStream → DecStream) : (m.updStrm i f).written = m.written := rfl
@[simp] theorem Mach.updStrm_nextAccess (i : Nat) (f : DecStream → DecStream) : (m.updStrm i f).nextAccess = m.nextAccess := rfl
@[simp] theorem Mach.updStrm_freeCount (i : Nat) (f : DecStream → DecStream) : (m.updStrm i f).freeCount = m.freeCount := rfl
@[simp] theorem Mach.updStrm_pwr (i : Nat) (f : DecStream → DecStream) : (m.updStrm i f).pwr = m.pwr := rfl
@[simp] theorem Mach.updStrm_boot (i : Nat) (f : DecStream → DecStream) : (m.updStrm i f).boot = m.boot := rfl
@[simp] theorem Mach.updStrm_pcie (i : Nat) (f : DecStream → DecStream) : (m.updStrm i f).pcie = m.pcie := rfl
@[simp] theorem Mach.updStrm_chain (i : Nat) (f : DecStream → DecStream) : (m.updStrm i f).chain = m.chain := rfl
@[simp] theorem Mach.updStrm_seqs (i : Nat) (f : DecStream → DecStream) : (m.updStrm i f).seqs = m.seqs := rfl
@[simp] theorem Mach.updStrm_time (i : Nat) (f : DecStream → DecStream) : (m.updStrm i f).time = m.time := rfl
@[simp] theorem Mach.updStrm_dpll (i : Nat) (f : DecStream → DecStream) : (m.updStrm i f).dpll = m.dpll := rfl
@[simp] theorem Mach.updStrm_pins (i : Nat) (f : DecStream → DecStream) : (m.updStrm i f).pins = m.pins := rfl
@[simp] theorem Mach.updStrm_dram (i : Nat) (f : DecStream → DecStream) : (m.updStrm i f).dram = m.dram := rfl
@[simp] theorem Mach.updStrm_repair (i : Nat) (f : DecStream → DecStream) : (m.updStrm i f).repair = m.repair := rfl
@[simp] theorem Mach.updStrm_vault (i : Nat) (f : DecStream → DecStream) : (m.updStrm i f).vault = m.vault := rfl
@[simp] theorem Mach.updStrm_leases (i : Nat) (f : DecStream → DecStream) : (m.updStrm i f).leases = m.leases := rfl
@[simp] theorem Mach.updStrm_pair (i : Nat) (f : DecStream → DecStream) : (m.updStrm i f).pair = m.pair := rfl
@[simp] theorem Mach.updStrm_touch (i : Nat) (f : DecStream → DecStream) : (m.updStrm i f).touch = m.touch := rfl
@[simp] theorem Mach.updStrm_ingest (i : Nat) (f : DecStream → DecStream) : (m.updStrm i f).ingest = m.ingest := rfl
@[simp] theorem Mach.updStrm_encode (i : Nat) (f : DecStream → DecStream) : (m.updStrm i f).encode = m.encode := rfl
@[simp] theorem Mach.updStrm_defl (i : Nat) (f : DecStream → DecStream) : (m.updStrm i f).defl = m.defl := rfl
@[simp] theorem Mach.updStrm_checks (i : Nat) (f : DecStream → DecStream) : (m.updStrm i f).checks = m.checks := rfl
@[simp] theorem Mach.updStrm_layers (i : Nat) (f : DecStream → DecStream) : (m.updStrm i f).layers = m.layers := rfl
@[simp] theorem Mach.updStrm_heads (i : Nat) (f : DecStream → DecStream) : (m.updStrm i f).heads = m.heads := rfl
@[simp] theorem Mach.updStrm_fences (i : Nat) (f : DecStream → DecStream) : (m.updStrm i f).fences = m.fences := rfl
@[simp] theorem Mach.updStrm_sent (i : Nat) (f : DecStream → DecStream) : (m.updStrm i f).sent = m.sent := rfl
@[simp] theorem Mach.rd_updStrm (i : Nat) (f : DecStream → DecStream) (key : Nat) : (m.updStrm i f).rd key = m.rd key := rfl
@[simp] theorem Mach.get_updStrm (i : Nat) (f : DecStream → DecStream) (x : Fld) : (m.updStrm i f).get x = m.get x := rfl
@[simp] theorem Mach.is_updStrm (i : Nat) (f : DecStream → DecStream) (x : Fld) : (m.updStrm i f).is x = m.is x := rfl
@[simp] theorem Mach.byte_updStrm (i : Nat) (f : DecStream → DecStream) (c : Nat) : (m.updStrm i f).byte c = m.byte c := rfl

/-! ### updCell -/

@[simp] theorem Mach.updCell_regs (i : Nat) (f : DecCell → DecCell) : (m.updCell i f).regs = m.regs := rfl
@[simp] theorem Mach.updCell_latched (i : Nat) (f : DecCell → DecCell) : (m.updCell i f).latched = m.latched := rfl
@[simp] theorem Mach.updCell_mem (i : Nat) (f : DecCell → DecCell) : (m.updCell i f).mem = m.mem := rfl
@[simp] theorem Mach.updCell_flips (i : Nat) (f : DecCell → DecCell) : (m.updCell i f).flips = m.flips := rfl
@[simp] theorem Mach.updCell_written (i : Nat) (f : DecCell → DecCell) : (m.updCell i f).written = m.written := rfl
@[simp] theorem Mach.updCell_nextAccess (i : Nat) (f : DecCell → DecCell) : (m.updCell i f).nextAccess = m.nextAccess := rfl
@[simp] theorem Mach.updCell_freeCount (i : Nat) (f : DecCell → DecCell) : (m.updCell i f).freeCount = m.freeCount := rfl
@[simp] theorem Mach.updCell_pwr (i : Nat) (f : DecCell → DecCell) : (m.updCell i f).pwr = m.pwr := rfl
@[simp] theorem Mach.updCell_boot (i : Nat) (f : DecCell → DecCell) : (m.updCell i f).boot = m.boot := rfl
@[simp] theorem Mach.updCell_pcie (i : Nat) (f : DecCell → DecCell) : (m.updCell i f).pcie = m.pcie := rfl
@[simp] theorem Mach.updCell_chain (i : Nat) (f : DecCell → DecCell) : (m.updCell i f).chain = m.chain := rfl
@[simp] theorem Mach.updCell_seqs (i : Nat) (f : DecCell → DecCell) : (m.updCell i f).seqs = m.seqs := rfl
@[simp] theorem Mach.updCell_time (i : Nat) (f : DecCell → DecCell) : (m.updCell i f).time = m.time := rfl
@[simp] theorem Mach.updCell_dpll (i : Nat) (f : DecCell → DecCell) : (m.updCell i f).dpll = m.dpll := rfl
@[simp] theorem Mach.updCell_pins (i : Nat) (f : DecCell → DecCell) : (m.updCell i f).pins = m.pins := rfl
@[simp] theorem Mach.updCell_dram (i : Nat) (f : DecCell → DecCell) : (m.updCell i f).dram = m.dram := rfl
@[simp] theorem Mach.updCell_repair (i : Nat) (f : DecCell → DecCell) : (m.updCell i f).repair = m.repair := rfl
@[simp] theorem Mach.updCell_vault (i : Nat) (f : DecCell → DecCell) : (m.updCell i f).vault = m.vault := rfl
@[simp] theorem Mach.updCell_leases (i : Nat) (f : DecCell → DecCell) : (m.updCell i f).leases = m.leases := rfl
@[simp] theorem Mach.updCell_pair (i : Nat) (f : DecCell → DecCell) : (m.updCell i f).pair = m.pair := rfl
@[simp] theorem Mach.updCell_touch (i : Nat) (f : DecCell → DecCell) : (m.updCell i f).touch = m.touch := rfl
@[simp] theorem Mach.updCell_ingest (i : Nat) (f : DecCell → DecCell) : (m.updCell i f).ingest = m.ingest := rfl
@[simp] theorem Mach.updCell_encode (i : Nat) (f : DecCell → DecCell) : (m.updCell i f).encode = m.encode := rfl
@[simp] theorem Mach.updCell_defl (i : Nat) (f : DecCell → DecCell) : (m.updCell i f).defl = m.defl := rfl
@[simp] theorem Mach.updCell_checks (i : Nat) (f : DecCell → DecCell) : (m.updCell i f).checks = m.checks := rfl
@[simp] theorem Mach.updCell_layers (i : Nat) (f : DecCell → DecCell) : (m.updCell i f).layers = m.layers := rfl
@[simp] theorem Mach.updCell_heads (i : Nat) (f : DecCell → DecCell) : (m.updCell i f).heads = m.heads := rfl
@[simp] theorem Mach.updCell_fences (i : Nat) (f : DecCell → DecCell) : (m.updCell i f).fences = m.fences := rfl
@[simp] theorem Mach.updCell_sent (i : Nat) (f : DecCell → DecCell) : (m.updCell i f).sent = m.sent := rfl
@[simp] theorem Mach.rd_updCell (i : Nat) (f : DecCell → DecCell) (key : Nat) : (m.updCell i f).rd key = m.rd key := rfl
@[simp] theorem Mach.get_updCell (i : Nat) (f : DecCell → DecCell) (x : Fld) : (m.updCell i f).get x = m.get x := rfl
@[simp] theorem Mach.is_updCell (i : Nat) (f : DecCell → DecCell) (x : Fld) : (m.updCell i f).is x = m.is x := rfl
@[simp] theorem Mach.byte_updCell (i : Nat) (f : DecCell → DecCell) (c : Nat) : (m.updCell i f).byte c = m.byte c := rfl

/-! ### updIngest -/

@[simp] theorem Mach.updIngest_regs (f : Ingest → Ingest) : (m.updIngest f).regs = m.regs := rfl
@[simp] theorem Mach.updIngest_latched (f : Ingest → Ingest) : (m.updIngest f).latched = m.latched := rfl
@[simp] theorem Mach.updIngest_mem (f : Ingest → Ingest) : (m.updIngest f).mem = m.mem := rfl
@[simp] theorem Mach.updIngest_flips (f : Ingest → Ingest) : (m.updIngest f).flips = m.flips := rfl
@[simp] theorem Mach.updIngest_written (f : Ingest → Ingest) : (m.updIngest f).written = m.written := rfl
@[simp] theorem Mach.updIngest_nextAccess (f : Ingest → Ingest) : (m.updIngest f).nextAccess = m.nextAccess := rfl
@[simp] theorem Mach.updIngest_freeCount (f : Ingest → Ingest) : (m.updIngest f).freeCount = m.freeCount := rfl
@[simp] theorem Mach.updIngest_pwr (f : Ingest → Ingest) : (m.updIngest f).pwr = m.pwr := rfl
@[simp] theorem Mach.updIngest_boot (f : Ingest → Ingest) : (m.updIngest f).boot = m.boot := rfl
@[simp] theorem Mach.updIngest_pcie (f : Ingest → Ingest) : (m.updIngest f).pcie = m.pcie := rfl
@[simp] theorem Mach.updIngest_chain (f : Ingest → Ingest) : (m.updIngest f).chain = m.chain := rfl
@[simp] theorem Mach.updIngest_seqs (f : Ingest → Ingest) : (m.updIngest f).seqs = m.seqs := rfl
@[simp] theorem Mach.updIngest_time (f : Ingest → Ingest) : (m.updIngest f).time = m.time := rfl
@[simp] theorem Mach.updIngest_dpll (f : Ingest → Ingest) : (m.updIngest f).dpll = m.dpll := rfl
@[simp] theorem Mach.updIngest_pins (f : Ingest → Ingest) : (m.updIngest f).pins = m.pins := rfl
@[simp] theorem Mach.updIngest_dram (f : Ingest → Ingest) : (m.updIngest f).dram = m.dram := rfl
@[simp] theorem Mach.updIngest_repair (f : Ingest → Ingest) : (m.updIngest f).repair = m.repair := rfl
@[simp] theorem Mach.updIngest_vault (f : Ingest → Ingest) : (m.updIngest f).vault = m.vault := rfl
@[simp] theorem Mach.updIngest_leases (f : Ingest → Ingest) : (m.updIngest f).leases = m.leases := rfl
@[simp] theorem Mach.updIngest_pair (f : Ingest → Ingest) : (m.updIngest f).pair = m.pair := rfl
@[simp] theorem Mach.updIngest_touch (f : Ingest → Ingest) : (m.updIngest f).touch = m.touch := rfl
@[simp] theorem Mach.updIngest_decode (f : Ingest → Ingest) : (m.updIngest f).decode = m.decode := rfl
@[simp] theorem Mach.updIngest_ingest (f : Ingest → Ingest) : (m.updIngest f).ingest = f m.ingest := rfl
@[simp] theorem Mach.updIngest_encode (f : Ingest → Ingest) : (m.updIngest f).encode = m.encode := rfl
@[simp] theorem Mach.updIngest_defl (f : Ingest → Ingest) : (m.updIngest f).defl = m.defl := rfl
@[simp] theorem Mach.updIngest_checks (f : Ingest → Ingest) : (m.updIngest f).checks = m.checks := rfl
@[simp] theorem Mach.updIngest_layers (f : Ingest → Ingest) : (m.updIngest f).layers = m.layers := rfl
@[simp] theorem Mach.updIngest_heads (f : Ingest → Ingest) : (m.updIngest f).heads = m.heads := rfl
@[simp] theorem Mach.updIngest_fences (f : Ingest → Ingest) : (m.updIngest f).fences = m.fences := rfl
@[simp] theorem Mach.updIngest_sent (f : Ingest → Ingest) : (m.updIngest f).sent = m.sent := rfl
@[simp] theorem Mach.rd_updIngest (f : Ingest → Ingest) (key : Nat) : (m.updIngest f).rd key = m.rd key := rfl
@[simp] theorem Mach.get_updIngest (f : Ingest → Ingest) (x : Fld) : (m.updIngest f).get x = m.get x := rfl
@[simp] theorem Mach.is_updIngest (f : Ingest → Ingest) (x : Fld) : (m.updIngest f).is x = m.is x := rfl
@[simp] theorem Mach.byte_updIngest (f : Ingest → Ingest) (c : Nat) : (m.updIngest f).byte c = m.byte c := rfl

/-! ### updSess -/

@[simp] theorem Mach.updSess_regs (i : Nat) (f : Session → Session) : (m.updSess i f).regs = m.regs := rfl
@[simp] theorem Mach.updSess_latched (i : Nat) (f : Session → Session) : (m.updSess i f).latched = m.latched := rfl
@[simp] theorem Mach.updSess_mem (i : Nat) (f : Session → Session) : (m.updSess i f).mem = m.mem := rfl
@[simp] theorem Mach.updSess_flips (i : Nat) (f : Session → Session) : (m.updSess i f).flips = m.flips := rfl
@[simp] theorem Mach.updSess_written (i : Nat) (f : Session → Session) : (m.updSess i f).written = m.written := rfl
@[simp] theorem Mach.updSess_nextAccess (i : Nat) (f : Session → Session) : (m.updSess i f).nextAccess = m.nextAccess := rfl
@[simp] theorem Mach.updSess_freeCount (i : Nat) (f : Session → Session) : (m.updSess i f).freeCount = m.freeCount := rfl
@[simp] theorem Mach.updSess_pwr (i : Nat) (f : Session → Session) : (m.updSess i f).pwr = m.pwr := rfl
@[simp] theorem Mach.updSess_boot (i : Nat) (f : Session → Session) : (m.updSess i f).boot = m.boot := rfl
@[simp] theorem Mach.updSess_pcie (i : Nat) (f : Session → Session) : (m.updSess i f).pcie = m.pcie := rfl
@[simp] theorem Mach.updSess_chain (i : Nat) (f : Session → Session) : (m.updSess i f).chain = m.chain := rfl
@[simp] theorem Mach.updSess_seqs (i : Nat) (f : Session → Session) : (m.updSess i f).seqs = m.seqs := rfl
@[simp] theorem Mach.updSess_time (i : Nat) (f : Session → Session) : (m.updSess i f).time = m.time := rfl
@[simp] theorem Mach.updSess_dpll (i : Nat) (f : Session → Session) : (m.updSess i f).dpll = m.dpll := rfl
@[simp] theorem Mach.updSess_pins (i : Nat) (f : Session → Session) : (m.updSess i f).pins = m.pins := rfl
@[simp] theorem Mach.updSess_dram (i : Nat) (f : Session → Session) : (m.updSess i f).dram = m.dram := rfl
@[simp] theorem Mach.updSess_repair (i : Nat) (f : Session → Session) : (m.updSess i f).repair = m.repair := rfl
@[simp] theorem Mach.updSess_vault (i : Nat) (f : Session → Session) : (m.updSess i f).vault = m.vault := rfl
@[simp] theorem Mach.updSess_leases (i : Nat) (f : Session → Session) : (m.updSess i f).leases = m.leases := rfl
@[simp] theorem Mach.updSess_pair (i : Nat) (f : Session → Session) : (m.updSess i f).pair = m.pair := rfl
@[simp] theorem Mach.updSess_touch (i : Nat) (f : Session → Session) : (m.updSess i f).touch = m.touch := rfl
@[simp] theorem Mach.updSess_decode (i : Nat) (f : Session → Session) : (m.updSess i f).decode = m.decode := rfl
@[simp] theorem Mach.updSess_encode (i : Nat) (f : Session → Session) : (m.updSess i f).encode = m.encode := rfl
@[simp] theorem Mach.updSess_defl (i : Nat) (f : Session → Session) : (m.updSess i f).defl = m.defl := rfl
@[simp] theorem Mach.updSess_checks (i : Nat) (f : Session → Session) : (m.updSess i f).checks = m.checks := rfl
@[simp] theorem Mach.updSess_layers (i : Nat) (f : Session → Session) : (m.updSess i f).layers = m.layers := rfl
@[simp] theorem Mach.updSess_heads (i : Nat) (f : Session → Session) : (m.updSess i f).heads = m.heads := rfl
@[simp] theorem Mach.updSess_fences (i : Nat) (f : Session → Session) : (m.updSess i f).fences = m.fences := rfl
@[simp] theorem Mach.updSess_sent (i : Nat) (f : Session → Session) : (m.updSess i f).sent = m.sent := rfl
@[simp] theorem Mach.rd_updSess (i : Nat) (f : Session → Session) (key : Nat) : (m.updSess i f).rd key = m.rd key := rfl
@[simp] theorem Mach.get_updSess (i : Nat) (f : Session → Session) (x : Fld) : (m.updSess i f).get x = m.get x := rfl
@[simp] theorem Mach.is_updSess (i : Nat) (f : Session → Session) (x : Fld) : (m.updSess i f).is x = m.is x := rfl
@[simp] theorem Mach.byte_updSess (i : Nat) (f : Session → Session) (c : Nat) : (m.updSess i f).byte c = m.byte c := rfl

/-! ### updEncode -/

@[simp] theorem Mach.updEncode_regs (f : Encode → Encode) : (m.updEncode f).regs = m.regs := rfl
@[simp] theorem Mach.updEncode_latched (f : Encode → Encode) : (m.updEncode f).latched = m.latched := rfl
@[simp] theorem Mach.updEncode_mem (f : Encode → Encode) : (m.updEncode f).mem = m.mem := rfl
@[simp] theorem Mach.updEncode_flips (f : Encode → Encode) : (m.updEncode f).flips = m.flips := rfl
@[simp] theorem Mach.updEncode_written (f : Encode → Encode) : (m.updEncode f).written = m.written := rfl
@[simp] theorem Mach.updEncode_nextAccess (f : Encode → Encode) : (m.updEncode f).nextAccess = m.nextAccess := rfl
@[simp] theorem Mach.updEncode_freeCount (f : Encode → Encode) : (m.updEncode f).freeCount = m.freeCount := rfl
@[simp] theorem Mach.updEncode_pwr (f : Encode → Encode) : (m.updEncode f).pwr = m.pwr := rfl
@[simp] theorem Mach.updEncode_boot (f : Encode → Encode) : (m.updEncode f).boot = m.boot := rfl
@[simp] theorem Mach.updEncode_pcie (f : Encode → Encode) : (m.updEncode f).pcie = m.pcie := rfl
@[simp] theorem Mach.updEncode_chain (f : Encode → Encode) : (m.updEncode f).chain = m.chain := rfl
@[simp] theorem Mach.updEncode_seqs (f : Encode → Encode) : (m.updEncode f).seqs = m.seqs := rfl
@[simp] theorem Mach.updEncode_time (f : Encode → Encode) : (m.updEncode f).time = m.time := rfl
@[simp] theorem Mach.updEncode_dpll (f : Encode → Encode) : (m.updEncode f).dpll = m.dpll := rfl
@[simp] theorem Mach.updEncode_pins (f : Encode → Encode) : (m.updEncode f).pins = m.pins := rfl
@[simp] theorem Mach.updEncode_dram (f : Encode → Encode) : (m.updEncode f).dram = m.dram := rfl
@[simp] theorem Mach.updEncode_repair (f : Encode → Encode) : (m.updEncode f).repair = m.repair := rfl
@[simp] theorem Mach.updEncode_vault (f : Encode → Encode) : (m.updEncode f).vault = m.vault := rfl
@[simp] theorem Mach.updEncode_leases (f : Encode → Encode) : (m.updEncode f).leases = m.leases := rfl
@[simp] theorem Mach.updEncode_pair (f : Encode → Encode) : (m.updEncode f).pair = m.pair := rfl
@[simp] theorem Mach.updEncode_touch (f : Encode → Encode) : (m.updEncode f).touch = m.touch := rfl
@[simp] theorem Mach.updEncode_decode (f : Encode → Encode) : (m.updEncode f).decode = m.decode := rfl
@[simp] theorem Mach.updEncode_ingest (f : Encode → Encode) : (m.updEncode f).ingest = m.ingest := rfl
@[simp] theorem Mach.updEncode_encode (f : Encode → Encode) : (m.updEncode f).encode = f m.encode := rfl
@[simp] theorem Mach.updEncode_defl (f : Encode → Encode) : (m.updEncode f).defl = m.defl := rfl
@[simp] theorem Mach.updEncode_checks (f : Encode → Encode) : (m.updEncode f).checks = m.checks := rfl
@[simp] theorem Mach.updEncode_layers (f : Encode → Encode) : (m.updEncode f).layers = m.layers := rfl
@[simp] theorem Mach.updEncode_heads (f : Encode → Encode) : (m.updEncode f).heads = m.heads := rfl
@[simp] theorem Mach.updEncode_fences (f : Encode → Encode) : (m.updEncode f).fences = m.fences := rfl
@[simp] theorem Mach.updEncode_sent (f : Encode → Encode) : (m.updEncode f).sent = m.sent := rfl
@[simp] theorem Mach.rd_updEncode (f : Encode → Encode) (key : Nat) : (m.updEncode f).rd key = m.rd key := rfl
@[simp] theorem Mach.get_updEncode (f : Encode → Encode) (x : Fld) : (m.updEncode f).get x = m.get x := rfl
@[simp] theorem Mach.is_updEncode (f : Encode → Encode) (x : Fld) : (m.updEncode f).is x = m.is x := rfl
@[simp] theorem Mach.byte_updEncode (f : Encode → Encode) (c : Nat) : (m.updEncode f).byte c = m.byte c := rfl

/-! ### updEnc -/

@[simp] theorem Mach.updEnc_regs (i : Nat) (f : EncStream → EncStream) : (m.updEnc i f).regs = m.regs := rfl
@[simp] theorem Mach.updEnc_latched (i : Nat) (f : EncStream → EncStream) : (m.updEnc i f).latched = m.latched := rfl
@[simp] theorem Mach.updEnc_mem (i : Nat) (f : EncStream → EncStream) : (m.updEnc i f).mem = m.mem := rfl
@[simp] theorem Mach.updEnc_flips (i : Nat) (f : EncStream → EncStream) : (m.updEnc i f).flips = m.flips := rfl
@[simp] theorem Mach.updEnc_written (i : Nat) (f : EncStream → EncStream) : (m.updEnc i f).written = m.written := rfl
@[simp] theorem Mach.updEnc_nextAccess (i : Nat) (f : EncStream → EncStream) : (m.updEnc i f).nextAccess = m.nextAccess := rfl
@[simp] theorem Mach.updEnc_freeCount (i : Nat) (f : EncStream → EncStream) : (m.updEnc i f).freeCount = m.freeCount := rfl
@[simp] theorem Mach.updEnc_pwr (i : Nat) (f : EncStream → EncStream) : (m.updEnc i f).pwr = m.pwr := rfl
@[simp] theorem Mach.updEnc_boot (i : Nat) (f : EncStream → EncStream) : (m.updEnc i f).boot = m.boot := rfl
@[simp] theorem Mach.updEnc_pcie (i : Nat) (f : EncStream → EncStream) : (m.updEnc i f).pcie = m.pcie := rfl
@[simp] theorem Mach.updEnc_chain (i : Nat) (f : EncStream → EncStream) : (m.updEnc i f).chain = m.chain := rfl
@[simp] theorem Mach.updEnc_seqs (i : Nat) (f : EncStream → EncStream) : (m.updEnc i f).seqs = m.seqs := rfl
@[simp] theorem Mach.updEnc_time (i : Nat) (f : EncStream → EncStream) : (m.updEnc i f).time = m.time := rfl
@[simp] theorem Mach.updEnc_dpll (i : Nat) (f : EncStream → EncStream) : (m.updEnc i f).dpll = m.dpll := rfl
@[simp] theorem Mach.updEnc_pins (i : Nat) (f : EncStream → EncStream) : (m.updEnc i f).pins = m.pins := rfl
@[simp] theorem Mach.updEnc_dram (i : Nat) (f : EncStream → EncStream) : (m.updEnc i f).dram = m.dram := rfl
@[simp] theorem Mach.updEnc_repair (i : Nat) (f : EncStream → EncStream) : (m.updEnc i f).repair = m.repair := rfl
@[simp] theorem Mach.updEnc_vault (i : Nat) (f : EncStream → EncStream) : (m.updEnc i f).vault = m.vault := rfl
@[simp] theorem Mach.updEnc_leases (i : Nat) (f : EncStream → EncStream) : (m.updEnc i f).leases = m.leases := rfl
@[simp] theorem Mach.updEnc_pair (i : Nat) (f : EncStream → EncStream) : (m.updEnc i f).pair = m.pair := rfl
@[simp] theorem Mach.updEnc_touch (i : Nat) (f : EncStream → EncStream) : (m.updEnc i f).touch = m.touch := rfl
@[simp] theorem Mach.updEnc_decode (i : Nat) (f : EncStream → EncStream) : (m.updEnc i f).decode = m.decode := rfl
@[simp] theorem Mach.updEnc_ingest (i : Nat) (f : EncStream → EncStream) : (m.updEnc i f).ingest = m.ingest := rfl
@[simp] theorem Mach.updEnc_defl (i : Nat) (f : EncStream → EncStream) : (m.updEnc i f).defl = m.defl := rfl
@[simp] theorem Mach.updEnc_checks (i : Nat) (f : EncStream → EncStream) : (m.updEnc i f).checks = m.checks := rfl
@[simp] theorem Mach.updEnc_layers (i : Nat) (f : EncStream → EncStream) : (m.updEnc i f).layers = m.layers := rfl
@[simp] theorem Mach.updEnc_heads (i : Nat) (f : EncStream → EncStream) : (m.updEnc i f).heads = m.heads := rfl
@[simp] theorem Mach.updEnc_fences (i : Nat) (f : EncStream → EncStream) : (m.updEnc i f).fences = m.fences := rfl
@[simp] theorem Mach.updEnc_sent (i : Nat) (f : EncStream → EncStream) : (m.updEnc i f).sent = m.sent := rfl
@[simp] theorem Mach.rd_updEnc (i : Nat) (f : EncStream → EncStream) (key : Nat) : (m.updEnc i f).rd key = m.rd key := rfl
@[simp] theorem Mach.get_updEnc (i : Nat) (f : EncStream → EncStream) (x : Fld) : (m.updEnc i f).get x = m.get x := rfl
@[simp] theorem Mach.is_updEnc (i : Nat) (f : EncStream → EncStream) (x : Fld) : (m.updEnc i f).is x = m.is x := rfl
@[simp] theorem Mach.byte_updEnc (i : Nat) (f : EncStream → EncStream) (c : Nat) : (m.updEnc i f).byte c = m.byte c := rfl

/-! ### updEncCell -/

@[simp] theorem Mach.updEncCell_regs (i : Nat) (f : EncCell → EncCell) : (m.updEncCell i f).regs = m.regs := rfl
@[simp] theorem Mach.updEncCell_latched (i : Nat) (f : EncCell → EncCell) : (m.updEncCell i f).latched = m.latched := rfl
@[simp] theorem Mach.updEncCell_mem (i : Nat) (f : EncCell → EncCell) : (m.updEncCell i f).mem = m.mem := rfl
@[simp] theorem Mach.updEncCell_flips (i : Nat) (f : EncCell → EncCell) : (m.updEncCell i f).flips = m.flips := rfl
@[simp] theorem Mach.updEncCell_written (i : Nat) (f : EncCell → EncCell) : (m.updEncCell i f).written = m.written := rfl
@[simp] theorem Mach.updEncCell_nextAccess (i : Nat) (f : EncCell → EncCell) : (m.updEncCell i f).nextAccess = m.nextAccess := rfl
@[simp] theorem Mach.updEncCell_freeCount (i : Nat) (f : EncCell → EncCell) : (m.updEncCell i f).freeCount = m.freeCount := rfl
@[simp] theorem Mach.updEncCell_pwr (i : Nat) (f : EncCell → EncCell) : (m.updEncCell i f).pwr = m.pwr := rfl
@[simp] theorem Mach.updEncCell_boot (i : Nat) (f : EncCell → EncCell) : (m.updEncCell i f).boot = m.boot := rfl
@[simp] theorem Mach.updEncCell_pcie (i : Nat) (f : EncCell → EncCell) : (m.updEncCell i f).pcie = m.pcie := rfl
@[simp] theorem Mach.updEncCell_chain (i : Nat) (f : EncCell → EncCell) : (m.updEncCell i f).chain = m.chain := rfl
@[simp] theorem Mach.updEncCell_seqs (i : Nat) (f : EncCell → EncCell) : (m.updEncCell i f).seqs = m.seqs := rfl
@[simp] theorem Mach.updEncCell_time (i : Nat) (f : EncCell → EncCell) : (m.updEncCell i f).time = m.time := rfl
@[simp] theorem Mach.updEncCell_dpll (i : Nat) (f : EncCell → EncCell) : (m.updEncCell i f).dpll = m.dpll := rfl
@[simp] theorem Mach.updEncCell_pins (i : Nat) (f : EncCell → EncCell) : (m.updEncCell i f).pins = m.pins := rfl
@[simp] theorem Mach.updEncCell_dram (i : Nat) (f : EncCell → EncCell) : (m.updEncCell i f).dram = m.dram := rfl
@[simp] theorem Mach.updEncCell_repair (i : Nat) (f : EncCell → EncCell) : (m.updEncCell i f).repair = m.repair := rfl
@[simp] theorem Mach.updEncCell_vault (i : Nat) (f : EncCell → EncCell) : (m.updEncCell i f).vault = m.vault := rfl
@[simp] theorem Mach.updEncCell_leases (i : Nat) (f : EncCell → EncCell) : (m.updEncCell i f).leases = m.leases := rfl
@[simp] theorem Mach.updEncCell_pair (i : Nat) (f : EncCell → EncCell) : (m.updEncCell i f).pair = m.pair := rfl
@[simp] theorem Mach.updEncCell_touch (i : Nat) (f : EncCell → EncCell) : (m.updEncCell i f).touch = m.touch := rfl
@[simp] theorem Mach.updEncCell_decode (i : Nat) (f : EncCell → EncCell) : (m.updEncCell i f).decode = m.decode := rfl
@[simp] theorem Mach.updEncCell_ingest (i : Nat) (f : EncCell → EncCell) : (m.updEncCell i f).ingest = m.ingest := rfl
@[simp] theorem Mach.updEncCell_defl (i : Nat) (f : EncCell → EncCell) : (m.updEncCell i f).defl = m.defl := rfl
@[simp] theorem Mach.updEncCell_checks (i : Nat) (f : EncCell → EncCell) : (m.updEncCell i f).checks = m.checks := rfl
@[simp] theorem Mach.updEncCell_layers (i : Nat) (f : EncCell → EncCell) : (m.updEncCell i f).layers = m.layers := rfl
@[simp] theorem Mach.updEncCell_heads (i : Nat) (f : EncCell → EncCell) : (m.updEncCell i f).heads = m.heads := rfl
@[simp] theorem Mach.updEncCell_fences (i : Nat) (f : EncCell → EncCell) : (m.updEncCell i f).fences = m.fences := rfl
@[simp] theorem Mach.updEncCell_sent (i : Nat) (f : EncCell → EncCell) : (m.updEncCell i f).sent = m.sent := rfl
@[simp] theorem Mach.rd_updEncCell (i : Nat) (f : EncCell → EncCell) (key : Nat) : (m.updEncCell i f).rd key = m.rd key := rfl
@[simp] theorem Mach.get_updEncCell (i : Nat) (f : EncCell → EncCell) (x : Fld) : (m.updEncCell i f).get x = m.get x := rfl
@[simp] theorem Mach.is_updEncCell (i : Nat) (f : EncCell → EncCell) (x : Fld) : (m.updEncCell i f).is x = m.is x := rfl
@[simp] theorem Mach.byte_updEncCell (i : Nat) (f : EncCell → EncCell) (c : Nat) : (m.updEncCell i f).byte c = m.byte c := rfl

/-! ### updDefl -/

@[simp] theorem Mach.updDefl_regs (f : Defl → Defl) : (m.updDefl f).regs = m.regs := rfl
@[simp] theorem Mach.updDefl_latched (f : Defl → Defl) : (m.updDefl f).latched = m.latched := rfl
@[simp] theorem Mach.updDefl_mem (f : Defl → Defl) : (m.updDefl f).mem = m.mem := rfl
@[simp] theorem Mach.updDefl_flips (f : Defl → Defl) : (m.updDefl f).flips = m.flips := rfl
@[simp] theorem Mach.updDefl_written (f : Defl → Defl) : (m.updDefl f).written = m.written := rfl
@[simp] theorem Mach.updDefl_nextAccess (f : Defl → Defl) : (m.updDefl f).nextAccess = m.nextAccess := rfl
@[simp] theorem Mach.updDefl_freeCount (f : Defl → Defl) : (m.updDefl f).freeCount = m.freeCount := rfl
@[simp] theorem Mach.updDefl_pwr (f : Defl → Defl) : (m.updDefl f).pwr = m.pwr := rfl
@[simp] theorem Mach.updDefl_boot (f : Defl → Defl) : (m.updDefl f).boot = m.boot := rfl
@[simp] theorem Mach.updDefl_pcie (f : Defl → Defl) : (m.updDefl f).pcie = m.pcie := rfl
@[simp] theorem Mach.updDefl_chain (f : Defl → Defl) : (m.updDefl f).chain = m.chain := rfl
@[simp] theorem Mach.updDefl_seqs (f : Defl → Defl) : (m.updDefl f).seqs = m.seqs := rfl
@[simp] theorem Mach.updDefl_time (f : Defl → Defl) : (m.updDefl f).time = m.time := rfl
@[simp] theorem Mach.updDefl_dpll (f : Defl → Defl) : (m.updDefl f).dpll = m.dpll := rfl
@[simp] theorem Mach.updDefl_pins (f : Defl → Defl) : (m.updDefl f).pins = m.pins := rfl
@[simp] theorem Mach.updDefl_dram (f : Defl → Defl) : (m.updDefl f).dram = m.dram := rfl
@[simp] theorem Mach.updDefl_repair (f : Defl → Defl) : (m.updDefl f).repair = m.repair := rfl
@[simp] theorem Mach.updDefl_vault (f : Defl → Defl) : (m.updDefl f).vault = m.vault := rfl
@[simp] theorem Mach.updDefl_leases (f : Defl → Defl) : (m.updDefl f).leases = m.leases := rfl
@[simp] theorem Mach.updDefl_pair (f : Defl → Defl) : (m.updDefl f).pair = m.pair := rfl
@[simp] theorem Mach.updDefl_touch (f : Defl → Defl) : (m.updDefl f).touch = m.touch := rfl
@[simp] theorem Mach.updDefl_decode (f : Defl → Defl) : (m.updDefl f).decode = m.decode := rfl
@[simp] theorem Mach.updDefl_ingest (f : Defl → Defl) : (m.updDefl f).ingest = m.ingest := rfl
@[simp] theorem Mach.updDefl_encode (f : Defl → Defl) : (m.updDefl f).encode = m.encode := rfl
@[simp] theorem Mach.updDefl_defl (f : Defl → Defl) : (m.updDefl f).defl = f m.defl := rfl
@[simp] theorem Mach.updDefl_checks (f : Defl → Defl) : (m.updDefl f).checks = m.checks := rfl
@[simp] theorem Mach.updDefl_layers (f : Defl → Defl) : (m.updDefl f).layers = m.layers := rfl
@[simp] theorem Mach.updDefl_heads (f : Defl → Defl) : (m.updDefl f).heads = m.heads := rfl
@[simp] theorem Mach.updDefl_fences (f : Defl → Defl) : (m.updDefl f).fences = m.fences := rfl
@[simp] theorem Mach.updDefl_sent (f : Defl → Defl) : (m.updDefl f).sent = m.sent := rfl
@[simp] theorem Mach.rd_updDefl (f : Defl → Defl) (key : Nat) : (m.updDefl f).rd key = m.rd key := rfl
@[simp] theorem Mach.get_updDefl (f : Defl → Defl) (x : Fld) : (m.updDefl f).get x = m.get x := rfl
@[simp] theorem Mach.is_updDefl (f : Defl → Defl) (x : Fld) : (m.updDefl f).is x = m.is x := rfl
@[simp] theorem Mach.byte_updDefl (f : Defl → Defl) (c : Nat) : (m.updDefl f).byte c = m.byte c := rfl

/-! ### updDeflQ -/

@[simp] theorem Mach.updDeflQ_regs (i : Nat) (f : DeflQueue → DeflQueue) : (m.updDeflQ i f).regs = m.regs := rfl
@[simp] theorem Mach.updDeflQ_latched (i : Nat) (f : DeflQueue → DeflQueue) : (m.updDeflQ i f).latched = m.latched := rfl
@[simp] theorem Mach.updDeflQ_mem (i : Nat) (f : DeflQueue → DeflQueue) : (m.updDeflQ i f).mem = m.mem := rfl
@[simp] theorem Mach.updDeflQ_flips (i : Nat) (f : DeflQueue → DeflQueue) : (m.updDeflQ i f).flips = m.flips := rfl
@[simp] theorem Mach.updDeflQ_written (i : Nat) (f : DeflQueue → DeflQueue) : (m.updDeflQ i f).written = m.written := rfl
@[simp] theorem Mach.updDeflQ_nextAccess (i : Nat) (f : DeflQueue → DeflQueue) : (m.updDeflQ i f).nextAccess = m.nextAccess := rfl
@[simp] theorem Mach.updDeflQ_freeCount (i : Nat) (f : DeflQueue → DeflQueue) : (m.updDeflQ i f).freeCount = m.freeCount := rfl
@[simp] theorem Mach.updDeflQ_pwr (i : Nat) (f : DeflQueue → DeflQueue) : (m.updDeflQ i f).pwr = m.pwr := rfl
@[simp] theorem Mach.updDeflQ_boot (i : Nat) (f : DeflQueue → DeflQueue) : (m.updDeflQ i f).boot = m.boot := rfl
@[simp] theorem Mach.updDeflQ_pcie (i : Nat) (f : DeflQueue → DeflQueue) : (m.updDeflQ i f).pcie = m.pcie := rfl
@[simp] theorem Mach.updDeflQ_chain (i : Nat) (f : DeflQueue → DeflQueue) : (m.updDeflQ i f).chain = m.chain := rfl
@[simp] theorem Mach.updDeflQ_seqs (i : Nat) (f : DeflQueue → DeflQueue) : (m.updDeflQ i f).seqs = m.seqs := rfl
@[simp] theorem Mach.updDeflQ_time (i : Nat) (f : DeflQueue → DeflQueue) : (m.updDeflQ i f).time = m.time := rfl
@[simp] theorem Mach.updDeflQ_dpll (i : Nat) (f : DeflQueue → DeflQueue) : (m.updDeflQ i f).dpll = m.dpll := rfl
@[simp] theorem Mach.updDeflQ_pins (i : Nat) (f : DeflQueue → DeflQueue) : (m.updDeflQ i f).pins = m.pins := rfl
@[simp] theorem Mach.updDeflQ_dram (i : Nat) (f : DeflQueue → DeflQueue) : (m.updDeflQ i f).dram = m.dram := rfl
@[simp] theorem Mach.updDeflQ_repair (i : Nat) (f : DeflQueue → DeflQueue) : (m.updDeflQ i f).repair = m.repair := rfl
@[simp] theorem Mach.updDeflQ_vault (i : Nat) (f : DeflQueue → DeflQueue) : (m.updDeflQ i f).vault = m.vault := rfl
@[simp] theorem Mach.updDeflQ_leases (i : Nat) (f : DeflQueue → DeflQueue) : (m.updDeflQ i f).leases = m.leases := rfl
@[simp] theorem Mach.updDeflQ_pair (i : Nat) (f : DeflQueue → DeflQueue) : (m.updDeflQ i f).pair = m.pair := rfl
@[simp] theorem Mach.updDeflQ_touch (i : Nat) (f : DeflQueue → DeflQueue) : (m.updDeflQ i f).touch = m.touch := rfl
@[simp] theorem Mach.updDeflQ_decode (i : Nat) (f : DeflQueue → DeflQueue) : (m.updDeflQ i f).decode = m.decode := rfl
@[simp] theorem Mach.updDeflQ_ingest (i : Nat) (f : DeflQueue → DeflQueue) : (m.updDeflQ i f).ingest = m.ingest := rfl
@[simp] theorem Mach.updDeflQ_encode (i : Nat) (f : DeflQueue → DeflQueue) : (m.updDeflQ i f).encode = m.encode := rfl
@[simp] theorem Mach.updDeflQ_checks (i : Nat) (f : DeflQueue → DeflQueue) : (m.updDeflQ i f).checks = m.checks := rfl
@[simp] theorem Mach.updDeflQ_layers (i : Nat) (f : DeflQueue → DeflQueue) : (m.updDeflQ i f).layers = m.layers := rfl
@[simp] theorem Mach.updDeflQ_heads (i : Nat) (f : DeflQueue → DeflQueue) : (m.updDeflQ i f).heads = m.heads := rfl
@[simp] theorem Mach.updDeflQ_fences (i : Nat) (f : DeflQueue → DeflQueue) : (m.updDeflQ i f).fences = m.fences := rfl
@[simp] theorem Mach.updDeflQ_sent (i : Nat) (f : DeflQueue → DeflQueue) : (m.updDeflQ i f).sent = m.sent := rfl
@[simp] theorem Mach.rd_updDeflQ (i : Nat) (f : DeflQueue → DeflQueue) (key : Nat) : (m.updDeflQ i f).rd key = m.rd key := rfl
@[simp] theorem Mach.get_updDeflQ (i : Nat) (f : DeflQueue → DeflQueue) (x : Fld) : (m.updDeflQ i f).get x = m.get x := rfl
@[simp] theorem Mach.is_updDeflQ (i : Nat) (f : DeflQueue → DeflQueue) (x : Fld) : (m.updDeflQ i f).is x = m.is x := rfl
@[simp] theorem Mach.byte_updDeflQ (i : Nat) (f : DeflQueue → DeflQueue) (c : Nat) : (m.updDeflQ i f).byte c = m.byte c := rfl

/-! ### updCheck -/

@[simp] theorem Mach.updCheck_regs (i : Nat) (f : CheckUnit → CheckUnit) : (m.updCheck i f).regs = m.regs := rfl
@[simp] theorem Mach.updCheck_latched (i : Nat) (f : CheckUnit → CheckUnit) : (m.updCheck i f).latched = m.latched := rfl
@[simp] theorem Mach.updCheck_mem (i : Nat) (f : CheckUnit → CheckUnit) : (m.updCheck i f).mem = m.mem := rfl
@[simp] theorem Mach.updCheck_flips (i : Nat) (f : CheckUnit → CheckUnit) : (m.updCheck i f).flips = m.flips := rfl
@[simp] theorem Mach.updCheck_written (i : Nat) (f : CheckUnit → CheckUnit) : (m.updCheck i f).written = m.written := rfl
@[simp] theorem Mach.updCheck_nextAccess (i : Nat) (f : CheckUnit → CheckUnit) : (m.updCheck i f).nextAccess = m.nextAccess := rfl
@[simp] theorem Mach.updCheck_freeCount (i : Nat) (f : CheckUnit → CheckUnit) : (m.updCheck i f).freeCount = m.freeCount := rfl
@[simp] theorem Mach.updCheck_pwr (i : Nat) (f : CheckUnit → CheckUnit) : (m.updCheck i f).pwr = m.pwr := rfl
@[simp] theorem Mach.updCheck_boot (i : Nat) (f : CheckUnit → CheckUnit) : (m.updCheck i f).boot = m.boot := rfl
@[simp] theorem Mach.updCheck_pcie (i : Nat) (f : CheckUnit → CheckUnit) : (m.updCheck i f).pcie = m.pcie := rfl
@[simp] theorem Mach.updCheck_chain (i : Nat) (f : CheckUnit → CheckUnit) : (m.updCheck i f).chain = m.chain := rfl
@[simp] theorem Mach.updCheck_seqs (i : Nat) (f : CheckUnit → CheckUnit) : (m.updCheck i f).seqs = m.seqs := rfl
@[simp] theorem Mach.updCheck_time (i : Nat) (f : CheckUnit → CheckUnit) : (m.updCheck i f).time = m.time := rfl
@[simp] theorem Mach.updCheck_dpll (i : Nat) (f : CheckUnit → CheckUnit) : (m.updCheck i f).dpll = m.dpll := rfl
@[simp] theorem Mach.updCheck_pins (i : Nat) (f : CheckUnit → CheckUnit) : (m.updCheck i f).pins = m.pins := rfl
@[simp] theorem Mach.updCheck_dram (i : Nat) (f : CheckUnit → CheckUnit) : (m.updCheck i f).dram = m.dram := rfl
@[simp] theorem Mach.updCheck_repair (i : Nat) (f : CheckUnit → CheckUnit) : (m.updCheck i f).repair = m.repair := rfl
@[simp] theorem Mach.updCheck_vault (i : Nat) (f : CheckUnit → CheckUnit) : (m.updCheck i f).vault = m.vault := rfl
@[simp] theorem Mach.updCheck_leases (i : Nat) (f : CheckUnit → CheckUnit) : (m.updCheck i f).leases = m.leases := rfl
@[simp] theorem Mach.updCheck_pair (i : Nat) (f : CheckUnit → CheckUnit) : (m.updCheck i f).pair = m.pair := rfl
@[simp] theorem Mach.updCheck_touch (i : Nat) (f : CheckUnit → CheckUnit) : (m.updCheck i f).touch = m.touch := rfl
@[simp] theorem Mach.updCheck_decode (i : Nat) (f : CheckUnit → CheckUnit) : (m.updCheck i f).decode = m.decode := rfl
@[simp] theorem Mach.updCheck_ingest (i : Nat) (f : CheckUnit → CheckUnit) : (m.updCheck i f).ingest = m.ingest := rfl
@[simp] theorem Mach.updCheck_encode (i : Nat) (f : CheckUnit → CheckUnit) : (m.updCheck i f).encode = m.encode := rfl
@[simp] theorem Mach.updCheck_defl (i : Nat) (f : CheckUnit → CheckUnit) : (m.updCheck i f).defl = m.defl := rfl
@[simp] theorem Mach.updCheck_layers (i : Nat) (f : CheckUnit → CheckUnit) : (m.updCheck i f).layers = m.layers := rfl
@[simp] theorem Mach.updCheck_heads (i : Nat) (f : CheckUnit → CheckUnit) : (m.updCheck i f).heads = m.heads := rfl
@[simp] theorem Mach.updCheck_fences (i : Nat) (f : CheckUnit → CheckUnit) : (m.updCheck i f).fences = m.fences := rfl
@[simp] theorem Mach.updCheck_sent (i : Nat) (f : CheckUnit → CheckUnit) : (m.updCheck i f).sent = m.sent := rfl
@[simp] theorem Mach.rd_updCheck (i : Nat) (f : CheckUnit → CheckUnit) (key : Nat) : (m.updCheck i f).rd key = m.rd key := rfl
@[simp] theorem Mach.get_updCheck (i : Nat) (f : CheckUnit → CheckUnit) (x : Fld) : (m.updCheck i f).get x = m.get x := rfl
@[simp] theorem Mach.is_updCheck (i : Nat) (f : CheckUnit → CheckUnit) (x : Fld) : (m.updCheck i f).is x = m.is x := rfl
@[simp] theorem Mach.byte_updCheck (i : Nat) (f : CheckUnit → CheckUnit) (c : Nat) : (m.updCheck i f).byte c = m.byte c := rfl

/-! ### updLayer -/

@[simp] theorem Mach.updLayer_regs (i : Nat) (f : Layer → Layer) : (m.updLayer i f).regs = m.regs := rfl
@[simp] theorem Mach.updLayer_latched (i : Nat) (f : Layer → Layer) : (m.updLayer i f).latched = m.latched := rfl
@[simp] theorem Mach.updLayer_mem (i : Nat) (f : Layer → Layer) : (m.updLayer i f).mem = m.mem := rfl
@[simp] theorem Mach.updLayer_flips (i : Nat) (f : Layer → Layer) : (m.updLayer i f).flips = m.flips := rfl
@[simp] theorem Mach.updLayer_written (i : Nat) (f : Layer → Layer) : (m.updLayer i f).written = m.written := rfl
@[simp] theorem Mach.updLayer_nextAccess (i : Nat) (f : Layer → Layer) : (m.updLayer i f).nextAccess = m.nextAccess := rfl
@[simp] theorem Mach.updLayer_freeCount (i : Nat) (f : Layer → Layer) : (m.updLayer i f).freeCount = m.freeCount := rfl
@[simp] theorem Mach.updLayer_pwr (i : Nat) (f : Layer → Layer) : (m.updLayer i f).pwr = m.pwr := rfl
@[simp] theorem Mach.updLayer_boot (i : Nat) (f : Layer → Layer) : (m.updLayer i f).boot = m.boot := rfl
@[simp] theorem Mach.updLayer_pcie (i : Nat) (f : Layer → Layer) : (m.updLayer i f).pcie = m.pcie := rfl
@[simp] theorem Mach.updLayer_chain (i : Nat) (f : Layer → Layer) : (m.updLayer i f).chain = m.chain := rfl
@[simp] theorem Mach.updLayer_seqs (i : Nat) (f : Layer → Layer) : (m.updLayer i f).seqs = m.seqs := rfl
@[simp] theorem Mach.updLayer_time (i : Nat) (f : Layer → Layer) : (m.updLayer i f).time = m.time := rfl
@[simp] theorem Mach.updLayer_dpll (i : Nat) (f : Layer → Layer) : (m.updLayer i f).dpll = m.dpll := rfl
@[simp] theorem Mach.updLayer_pins (i : Nat) (f : Layer → Layer) : (m.updLayer i f).pins = m.pins := rfl
@[simp] theorem Mach.updLayer_dram (i : Nat) (f : Layer → Layer) : (m.updLayer i f).dram = m.dram := rfl
@[simp] theorem Mach.updLayer_repair (i : Nat) (f : Layer → Layer) : (m.updLayer i f).repair = m.repair := rfl
@[simp] theorem Mach.updLayer_vault (i : Nat) (f : Layer → Layer) : (m.updLayer i f).vault = m.vault := rfl
@[simp] theorem Mach.updLayer_leases (i : Nat) (f : Layer → Layer) : (m.updLayer i f).leases = m.leases := rfl
@[simp] theorem Mach.updLayer_pair (i : Nat) (f : Layer → Layer) : (m.updLayer i f).pair = m.pair := rfl
@[simp] theorem Mach.updLayer_touch (i : Nat) (f : Layer → Layer) : (m.updLayer i f).touch = m.touch := rfl
@[simp] theorem Mach.updLayer_decode (i : Nat) (f : Layer → Layer) : (m.updLayer i f).decode = m.decode := rfl
@[simp] theorem Mach.updLayer_ingest (i : Nat) (f : Layer → Layer) : (m.updLayer i f).ingest = m.ingest := rfl
@[simp] theorem Mach.updLayer_encode (i : Nat) (f : Layer → Layer) : (m.updLayer i f).encode = m.encode := rfl
@[simp] theorem Mach.updLayer_defl (i : Nat) (f : Layer → Layer) : (m.updLayer i f).defl = m.defl := rfl
@[simp] theorem Mach.updLayer_checks (i : Nat) (f : Layer → Layer) : (m.updLayer i f).checks = m.checks := rfl
@[simp] theorem Mach.updLayer_heads (i : Nat) (f : Layer → Layer) : (m.updLayer i f).heads = m.heads := rfl
@[simp] theorem Mach.updLayer_fences (i : Nat) (f : Layer → Layer) : (m.updLayer i f).fences = m.fences := rfl
@[simp] theorem Mach.updLayer_sent (i : Nat) (f : Layer → Layer) : (m.updLayer i f).sent = m.sent := rfl
@[simp] theorem Mach.rd_updLayer (i : Nat) (f : Layer → Layer) (key : Nat) : (m.updLayer i f).rd key = m.rd key := rfl
@[simp] theorem Mach.get_updLayer (i : Nat) (f : Layer → Layer) (x : Fld) : (m.updLayer i f).get x = m.get x := rfl
@[simp] theorem Mach.is_updLayer (i : Nat) (f : Layer → Layer) (x : Fld) : (m.updLayer i f).is x = m.is x := rfl
@[simp] theorem Mach.byte_updLayer (i : Nat) (f : Layer → Layer) (c : Nat) : (m.updLayer i f).byte c = m.byte c := rfl

/-! ### updHead -/

@[simp] theorem Mach.updHead_regs (i : Nat) (f : Head → Head) : (m.updHead i f).regs = m.regs := rfl
@[simp] theorem Mach.updHead_latched (i : Nat) (f : Head → Head) : (m.updHead i f).latched = m.latched := rfl
@[simp] theorem Mach.updHead_mem (i : Nat) (f : Head → Head) : (m.updHead i f).mem = m.mem := rfl
@[simp] theorem Mach.updHead_flips (i : Nat) (f : Head → Head) : (m.updHead i f).flips = m.flips := rfl
@[simp] theorem Mach.updHead_written (i : Nat) (f : Head → Head) : (m.updHead i f).written = m.written := rfl
@[simp] theorem Mach.updHead_nextAccess (i : Nat) (f : Head → Head) : (m.updHead i f).nextAccess = m.nextAccess := rfl
@[simp] theorem Mach.updHead_freeCount (i : Nat) (f : Head → Head) : (m.updHead i f).freeCount = m.freeCount := rfl
@[simp] theorem Mach.updHead_pwr (i : Nat) (f : Head → Head) : (m.updHead i f).pwr = m.pwr := rfl
@[simp] theorem Mach.updHead_boot (i : Nat) (f : Head → Head) : (m.updHead i f).boot = m.boot := rfl
@[simp] theorem Mach.updHead_pcie (i : Nat) (f : Head → Head) : (m.updHead i f).pcie = m.pcie := rfl
@[simp] theorem Mach.updHead_chain (i : Nat) (f : Head → Head) : (m.updHead i f).chain = m.chain := rfl
@[simp] theorem Mach.updHead_seqs (i : Nat) (f : Head → Head) : (m.updHead i f).seqs = m.seqs := rfl
@[simp] theorem Mach.updHead_time (i : Nat) (f : Head → Head) : (m.updHead i f).time = m.time := rfl
@[simp] theorem Mach.updHead_dpll (i : Nat) (f : Head → Head) : (m.updHead i f).dpll = m.dpll := rfl
@[simp] theorem Mach.updHead_pins (i : Nat) (f : Head → Head) : (m.updHead i f).pins = m.pins := rfl
@[simp] theorem Mach.updHead_dram (i : Nat) (f : Head → Head) : (m.updHead i f).dram = m.dram := rfl
@[simp] theorem Mach.updHead_repair (i : Nat) (f : Head → Head) : (m.updHead i f).repair = m.repair := rfl
@[simp] theorem Mach.updHead_vault (i : Nat) (f : Head → Head) : (m.updHead i f).vault = m.vault := rfl
@[simp] theorem Mach.updHead_leases (i : Nat) (f : Head → Head) : (m.updHead i f).leases = m.leases := rfl
@[simp] theorem Mach.updHead_pair (i : Nat) (f : Head → Head) : (m.updHead i f).pair = m.pair := rfl
@[simp] theorem Mach.updHead_touch (i : Nat) (f : Head → Head) : (m.updHead i f).touch = m.touch := rfl
@[simp] theorem Mach.updHead_decode (i : Nat) (f : Head → Head) : (m.updHead i f).decode = m.decode := rfl
@[simp] theorem Mach.updHead_ingest (i : Nat) (f : Head → Head) : (m.updHead i f).ingest = m.ingest := rfl
@[simp] theorem Mach.updHead_encode (i : Nat) (f : Head → Head) : (m.updHead i f).encode = m.encode := rfl
@[simp] theorem Mach.updHead_defl (i : Nat) (f : Head → Head) : (m.updHead i f).defl = m.defl := rfl
@[simp] theorem Mach.updHead_checks (i : Nat) (f : Head → Head) : (m.updHead i f).checks = m.checks := rfl
@[simp] theorem Mach.updHead_layers (i : Nat) (f : Head → Head) : (m.updHead i f).layers = m.layers := rfl
@[simp] theorem Mach.updHead_fences (i : Nat) (f : Head → Head) : (m.updHead i f).fences = m.fences := rfl
@[simp] theorem Mach.updHead_sent (i : Nat) (f : Head → Head) : (m.updHead i f).sent = m.sent := rfl
@[simp] theorem Mach.rd_updHead (i : Nat) (f : Head → Head) (key : Nat) : (m.updHead i f).rd key = m.rd key := rfl
@[simp] theorem Mach.get_updHead (i : Nat) (f : Head → Head) (x : Fld) : (m.updHead i f).get x = m.get x := rfl
@[simp] theorem Mach.is_updHead (i : Nat) (f : Head → Head) (x : Fld) : (m.updHead i f).is x = m.is x := rfl
@[simp] theorem Mach.byte_updHead (i : Nat) (f : Head → Head) (c : Nat) : (m.updHead i f).byte c = m.byte c := rfl

end Sys2Proof.Machine
end

