-- ==== Sys2Proof/Laws/Ops.lean ====
section
/-! SUPPORT. What each shared operation can change: raising events, reporting violations, the
sequencers' completions, waits, faults and starts, and stores of bytes. -/

namespace Sys2Proof.Machine

variable (m : Mach)

/-! ### Frames -/

/-- Nothing differs but registers and what the delivery of events touches: MSI-X, balls, chain ports, and
what has been sent. -/
structure EventFrame (m t : Mach) : Prop where
  eq : t = { m with regs := t.regs, pcie := t.pcie, pins := t.pins, chain := t.chain, sent := t.sent }

/-- As `EventFrame`, and sequencer `n`'s own condition and the count of free values may differ. -/
structure SeqFrame (n : Nat) (m t : Mach) : Prop where
  eq : t = { m with regs := t.regs, pcie := t.pcie, pins := t.pins, chain := t.chain, sent := t.sent,
                    seqs := t.seqs, freeCount := t.freeCount }
  others : ∀ k, k ≠ n → t.seq k = m.seq k

theorem EventFrame.refl : EventFrame m m := ⟨rfl⟩

theorem EventFrame.trans {m t u : Mach} (h : EventFrame m t) (g : EventFrame t u) : EventFrame m u :=
  ⟨by rw [g.eq, h.eq]⟩

/-- A change of registers alone stays within the frame. -/
theorem EventFrame.put {m t : Mach} (h : EventFrame m t) (f : Fld) (v : Nat) : EventFrame m (t.put f v) :=
  h.trans ⟨rfl⟩

theorem EventFrame.mem {m t : Mach} (h : EventFrame m t) : t.mem = m.mem := by rw [h.eq]

theorem EventFrame.seq {m t : Mach} (h : EventFrame m t) (n : Nat) : t.seq n = m.seq n := by rw [h.eq]; rfl

theorem EventFrame.byte {m t : Mach} (h : EventFrame m t) (a : Nat) : t.byte a = m.byte a := by rw [h.eq]; rfl

theorem EventFrame.forSeq {m t : Mach} (h : EventFrame m t) (n : Nat) : SeqFrame n m t :=
  ⟨by rw [h.eq], fun k _ => h.seq k⟩

theorem SeqFrame.refl (n : Nat) : SeqFrame n m m := ⟨rfl, fun _ _ => rfl⟩

theorem SeqFrame.trans {m t u : Mach} {n : Nat} (h : SeqFrame n m t) (g : SeqFrame n t u) : SeqFrame n m u :=
  ⟨by rw [g.eq, h.eq], fun k hk => (g.others k hk).trans (h.others k hk)⟩

theorem SeqFrame.put {m t : Mach} {n : Nat} (h : SeqFrame n m t) (f : Fld) (v : Nat) :
    SeqFrame n m (t.put f v) := h.trans ⟨rfl, fun _ _ => rfl⟩

theorem Mach.seq_updSeq (n k : Nat) (f : Seq → Seq) :
    (m.updSeq n f).seq k = if n = k then f (m.seq n) else m.seq k := tabGet_tabSet _ _ _ _ _

theorem SeqFrame.updSeq {m t : Mach} {n : Nat} (h : SeqFrame n m t) (f : Seq → Seq) :
    SeqFrame n m (t.updSeq n f) :=
  h.trans ⟨rfl, fun k hk => by rw [t.seq_updSeq]; exact if_neg fun e => hk e.symm⟩

theorem SeqFrame.thenEvent {m t u : Mach} {n : Nat} (h : SeqFrame n m t) (g : EventFrame t u) : SeqFrame n m u :=
  h.trans (g.forSeq n)

theorem SeqFrame.mem {m t : Mach} {n : Nat} (h : SeqFrame n m t) : t.mem = m.mem := by rw [h.eq]

theorem SeqFrame.byte {m t : Mach} {n : Nat} (h : SeqFrame n m t) (a : Nat) : t.byte a = m.byte a := by
  rw [h.eq]; rfl

/-! ### Events (R478, R480 to R483) -/

theorem raiseLines_frame (l : List (Nat × Nat)) : EventFrame m (m.raiseLines l).1 := by
  induction l generalizing m with
  | nil => exact .refl m
  | cons p r ih => exact ((EventFrame.refl m).put _ _).trans (ih (m.pendLine p.1 p.2).1)

theorem raiseVector_frame (v : Nat) : EventFrame m (m.raiseVector v).1 := by
  unfold Mach.raiseVector
  split_ifs <;> exact ⟨rfl⟩

theorem sendChain_frame (up : Bool) (c : ChainMsg) : EventFrame m (m.sendChain up c) := by
  unfold Mach.sendChain
  split_ifs <;> exact ⟨rfl⟩

theorem forwardEvent_frame (o : Nat) : EventFrame m (m.forwardEvent o) := by
  unfold Mach.forwardEvent
  split_ifs
  · exact sendChain_frame _ _ _
  · exact (EventFrame.refl m).put _ _

theorem latchSource_frame (src : Nat) : EventFrame m (m.latchSource src) := by
  unfold Mach.latchSource
  dsimp only
  split_ifs
  · exact ((EventFrame.refl m).put _ _).put _ _
  · exact (EventFrame.refl m).put _ _

/-- Raising an event changes nothing outside the events' frame. -/
theorem raise_frame (src : Nat) : EventFrame m (m.raise src) := by
  unfold Mach.raise
  split_ifs with h0
  · exact .refl m
  · dsimp only
    have h1 := (latchSource_frame m src).trans (raiseLines_frame _ ((m.latchSource src).linesOf src))
    generalize (m.latchSource src).raiseLines ((m.latchSource src).linesOf src) = l at h1 ⊢
    have h2 : EventFrame m (if l.1.is (Fld.EVT_ROUTE_MSIX_EN src) = true
        then l.1.raiseVector (l.1.get (Fld.EVT_ROUTE_VECTOR src)) else (l.1, false)).1 := by
      split_ifs
      · exact h1.trans (raiseVector_frame _ _)
      · exact h1
    generalize (if l.1.is (Fld.EVT_ROUTE_MSIX_EN src) = true
        then l.1.raiseVector (l.1.get (Fld.EVT_ROUTE_VECTOR src)) else (l.1, false)) = v at h2 ⊢
    have h3 : EventFrame m (if v.1.is (Fld.EVT_ROUTE_PIN_EN src) = true
        then v.1.raisePin (v.1.get (Fld.EVT_ROUTE_PIN src)) src else (v.1, false)).1 := by
      split_ifs
      · exact h2.trans ⟨rfl⟩
      · exact h2
    generalize (if v.1.is (Fld.EVT_ROUTE_PIN_EN src) = true
        then v.1.raisePin (v.1.get (Fld.EVT_ROUTE_PIN src)) src else (v.1, false)) = p at h3 ⊢
    have h4 : EventFrame m (if (p.1.is (Fld.EVT_ROUTE_CHAIN src) && !p.1.chainRoot) = true
        then p.1.forwardEvent (p.1.get Fld.CHAIN_STATUS_ADDR) else p.1) := by
      split_ifs
      · exact h3.trans (forwardEvent_frame _ _)
      · exact h3
    generalize (if (p.1.is (Fld.EVT_ROUTE_CHAIN src) && !p.1.chainRoot) = true
        then p.1.forwardEvent (p.1.get Fld.CHAIN_STATUS_ADDR) else p.1) = t at h4 ⊢
    split_ifs
    · exact (h4.put _ _).put _ _
    · exact h4.put _ _

/-- A reserved source is never raised. -/
theorem raise_reserved {src : Nat} (h : reservedSource src = true) : m.raise src = m := by
  simp [Mach.raise, h]

@[simp] theorem Mach.raise_mem (src : Nat) : (m.raise src).mem = m.mem := (raise_frame m src).mem
@[simp] theorem Mach.raise_seq (src n : Nat) : (m.raise src).seq n = m.seq n := (raise_frame m src).seq n
@[simp] theorem Mach.raise_byte (src a : Nat) : (m.raise src).byte a = m.byte a := (raise_frame m src).byte a

/-- Reporting a violation changes nothing outside the events' frame (R407). -/
theorem violate_frame (kind target mst addr : Nat) : EventFrame m (m.violate kind target mst addr) := by
  unfold Mach.violate
  refine EventFrame.trans (.put ?_ _ _) (raise_frame _ _)
  dsimp only
  split_ifs
  · exact .refl m
  · exact ((((((EventFrame.refl m).put _ _).put _ _).put _ _).put _ _).put _ _).put _ _

/-! ### Sequencers (R115, R131, R132, R138) -/

theorem seqLeave_frame (n st cause : Nat) : SeqFrame n m (m.seqLeave n st cause) := by
  unfold Mach.seqLeave
  exact ((((SeqFrame.refl m n).put _ _).put _ _).put _ _).updSeq _

theorem seqHalt_frame (n cause : Nat) : SeqFrame n m (m.seqHalt n cause) := seqLeave_frame m n _ _

theorem seqFault_frame (n cause info : Nat) : SeqFrame n m (m.seqFault n cause info) :=
  (((seqLeave_frame m n _ _).put _ _).put _ _).thenEvent (raise_frame _ _)

theorem seqBoundary_frame (n : Nat) : SeqFrame n m (m.seqBoundary n) := by
  unfold Mach.seqBoundary
  split_ifs
  · exact seqHalt_frame m n _
  · exact (SeqFrame.refl m n).updSeq _

theorem setPc_frame (n a : Nat) : SeqFrame n m (m.setPc n a) := ((SeqFrame.refl m n).put _ _).put _ _

theorem seqAdvance_frame (n : Nat) : SeqFrame n m (m.seqAdvance n) := by
  unfold Mach.seqAdvance
  split_ifs
  · exact setPc_frame m n _
  · exact (SeqFrame.refl m n).updSeq _

/-- Completing an instruction touches registers and its own sequencer alone. -/
theorem seqNext_frame (n : Nat) : SeqFrame n m (m.seqNext n) :=
  (seqAdvance_frame m n).trans (seqBoundary_frame _ n)

theorem setWreg_frame (n : Nat) (r : BitVec 5) (v : Word) : SeqFrame n m (m.setWreg n r v) :=
  (SeqFrame.refl m n).updSeq _

theorem spend_frame (n k : Nat) : SeqFrame n m (m.spend n k) := (SeqFrame.refl m n).put _ _

theorem seqWrites_frame (n cycles : Nat) (rd : BitVec 5) (v : Word) : SeqFrame n m (m.seqWrites n cycles rd v) :=
  ((setWreg_frame m n rd v).trans (spend_frame _ n _)).trans (seqNext_frame _ n)

theorem seqJump_frame (n target : Nat) (link : BitVec 5) : SeqFrame n m (m.seqJump n target link) := by
  unfold Mach.seqJump
  split_ifs
  · exact seqFault_frame m n _ _
  · exact seqFault_frame m n _ _
  · exact ((setWreg_frame m n _ _).trans (setPc_frame _ n _)).trans (seqBoundary_frame _ n)

theorem seqWait_frame (n kind : Nat) (w : SeqWait) : SeqFrame n m (m.seqWait n kind w) := by
  unfold Mach.seqWait
  exact (((SeqFrame.refl m n).put _ _).put _ _).updSeq _

theorem spendFree_frame (n : Nat) : SeqFrame n m (m.spendFree n) :=
  (⟨rfl, fun _ _ => rfl⟩ : SeqFrame n m m.free.2).trans (spend_frame _ n _)

theorem seqWaitEnd_frame (n : Nat) : SeqFrame n m (m.seqWaitEnd n) :=
  (((((SeqFrame.refl m n).put _ _).put _ _).updSeq _).trans (spendFree_frame _ n)).trans (seqNext_frame _ n)

theorem seqRun_frame (n : Nat) (q : Seq → Seq) : SeqFrame n m (m.seqRun n q) := by
  unfold Mach.seqRun
  exact ((SeqFrame.refl m n).put _ _).updSeq _

/-- A register that was written reads as written; w0 reads zero (R101). -/
theorem Mach.wreg_setWreg (n : Nat) (r r' : BitVec 5) (v : Word) :
    (m.setWreg n r v).wreg n r' = if r = r' ∧ r ≠ 0 then v else m.wreg n r' := by
  simp only [Mach.wreg, Mach.setWreg, Mach.seq_updSeq, if_true, Seq.setReg]
  by_cases h0 : r = 0#5
  · simp [h0]
  · by_cases h : r = r'
    · subst h; simp [Seq.reg, h0]
    · have ht : ¬ r.toNat = r'.toNat := fun e => h (BitVec.eq_of_toNat_eq e)
      simp [Seq.reg, if_neg h0, h, tabGet_tabSet, ht]

/-! ### Outcomes -/

/-- A command that answers a next state had operands that exist. -/
theorem guarded_next {wf : Bool} {o : Out} {t : State} (h : guarded wf o = .next t) : wf = true ∧ o = .next t := by
  cases wf <;> simp_all [guarded]

/-- What a command does while the module may be off. -/
theorem onCore_cases {s t : State} {f : Mach → Mach} (h : onCore s f = .next t) :
    t.pending = s.pending ∧ ((s.m.on = true ∧ t.m = f s.m) ∨ (s.m.on = false ∧ t.m = s.m)) := by
  simp only [onCore, always, Host.Outcome.next.injEq] at h
  subst h
  cases hon : s.m.on <;> simp

/-- What a sequencer's command does. -/
theorem onSeq_cases {n : Nat} {s t : State} {f : Mach → Mach} (h : onSeq n s f = .next t) :
    seqOk n = true ∧ t.pending = s.pending ∧
    ((s.m.on = true ∧ t.m = f s.m) ∨ (s.m.on = false ∧ t.m = s.m)) :=
  let g := guarded_next h
  ⟨g.1, onCore_cases g.2⟩

end Sys2Proof.Machine
end

