-- ==== Sys2Proof/Machine/PinOps.lean ====
section
/-! DEFINITION. What the board sees of the state: the level of every output ball (R36, R49 to R52, R352,
R353, R417, R480, R483) and the configuration space of the endpoint (R58, R79). -/

namespace Sys2Proof.Machine

/-! ### Balls -/

/-- What an output ball shows. -/
inductive Level
  | low
  | high
  | highZ
  /-- A supply or a transmitter that is off, or at electrical idle. -/
  | off
  /-- A clock at a rate in Hz. -/
  | clock (hz : Rat)
  /-- The ball carries what its block drives. -/
  | active
  deriving DecidableEq, Repr

/-- The columns of R49, and the conditions between them. -/
inductive BallCase
  /-- In reset, and in power-up until boot-ready. -/
  | reset
  | run
  /-- An entry into Keep or Dormant runs; its step 2 comes at once (R45, log entry 24). -/
  | entering
  | keep
  | dormant
  /-- No power: VIN is low or the load switch is open for good. -/
  | unpowered
  deriving DecidableEq, Repr

def Mach.ballCase (m : Mach) : BallCase :=
  match m.pwr.phase with
  | .on => if m.is Fld.SYS_PWR_STATUS_BOOT_READY then .run else .reset
  | .softStart | .railsRise | .retryWait | .railsUp | .tripped | .downing => .reset
  | .entering => .entering
  | .keep => .keep
  | .dormant => .dormant
  | .off => .unpowered

/-- The I/O rail is up: from power-up step 3 until the last step of an entry or of a power-down (R45, R50,
R52). -/
def Mach.ioRail (m : Mach) : Bool :=
  match m.pwr.phase with
  | .railsUp | .on | .tripped | .entering | .downing => true
  | _ => false

/-- V3P3_OUT (R36). -/
def Mach.v3p3Out (m : Mach) : Level := if m.ioRail then .high else .off

/-- POSS_N as the unit drives it: open-drain, low while it holds possession (R49, R416). -/
def Mach.possN (m : Mach) : Level :=
  match m.ballCase with
  | .run | .entering => if m.pair.poss then .low else .highZ
  | _ => .highZ

/-- MUX_SEL (R49, R417). -/
def Mach.muxSel (m : Mach) : Level :=
  match m.ballCase with
  | .run | .entering => if m.pair.poss then .high else .low
  | _ => .highZ

/-- PG_OUT: high from power-up step 3, low from step 2 of an entry, from a power-down, and after a rail
failure (R45, R49 to R52). -/
def Mach.pgOut (m : Mach) : Level :=
  match m.pwr.phase with
  | .railsUp | .on | .tripped => .high
  | _ => .low

/-- PCIE_WAKE_N, open-drain (R45, R49). -/
def Mach.pcieWakeN (m : Mach) : Level :=
  match m.ballCase with
  | .entering | .keep => .low
  | _ => .highZ

/-- ALARM_N, open-drain (R49, R50, R52, R483). -/
def Mach.alarmN (m : Mach) : Level :=
  match m.ballCase with
  | .reset => .low
  | .run | .entering =>
    if (List.range 8).any fun w => m.get (Fld.EVT_ALARM_LATCH_LATCH w) != 0 then .low else .highZ
  | _ => .highZ

/-- A pulse output: low in reset and Keep, high-impedance in Dormant (R49). -/
def Mach.pulseOut (m : Mach) (high : Bool) : Level :=
  match m.ballCase with
  | .run | .entering => if high then .high else .low
  | .reset | .keep => .low
  | _ => .highZ

/-- EVT_OUTk: POL sets the level of a pulse (R480). -/
def Mach.evtOut (m : Mach) (k : Nat) : Level :=
  m.pulseOut ((tabFind m.pins.evtOut k).isSome != m.is (Fld.EVT_PIN_CFG_POL k))

def Mach.frameOut (m : Mach) (k : Nat) : Level := m.pulseOut (m.pins.frameOut.contains k)
def Mach.ppsOut (m : Mach) : Level := m.pulseOut m.pins.ppsOut

/-- REFOUT's rate; on its grid of 1 / FREQ of LOCAL, which has an instant at each whole second, it rises on the
tick that runs (R353). -/
def Mach.refRate (m : Mach) : Rat := (m.get Fld.TIME_REFOUT_FREQ_FREQ : Rat) * (1 + m.dpllF)
def Mach.refRises (m : Mach) : Bool :=
  m.is Fld.TIME_REFOUT_CFG_EN && m.get Fld.TIME_REFOUT_FREQ_FREQ != 0 &&
    gridIn ((m.now : Rat) / unitNs) (m.viewStep 0) (1000000000 / (m.get Fld.TIME_REFOUT_FREQ_FREQ : Rat)) 0

/-- REFOUT (R49, R353). -/
def Mach.refOut (m : Mach) : Level :=
  match m.ballCase with
  | .run | .entering => if m.is Fld.TIME_REFOUT_CFG_EN then .clock m.refRate else .off
  | .reset | .keep => .off
  | _ => .highZ

/-- The main link lanes of a DisplayPort head (R45, R49). -/
def Mach.dpLanes (m : Mach) (h : Nat) : Level :=
  match m.ballCase with
  | .run => if m.is (Fld.HEAD_CTRL_EN h) || m.is (Fld.HEAD_DP_STATUS_TRAIN_BUSY h) ||
      m.is (Fld.HEAD_DP_STATUS_TRAINED h) then .active else .off
  | .reset | .entering | .keep => .off
  | _ => .highZ

/-- The lanes of a DSI head (R45, R49). -/
def Mach.dsiLanes (m : Mach) : Level :=
  match m.ballCase with
  | .run => .active
  | _ => .highZ

/-- DSIn_RST_N of a DSI head (R49). -/
def Mach.dsiRstN (m : Mach) (h : Nat) : Level :=
  match m.ballCase with
  | .run | .entering => if m.is (Fld.HEAD_DSI_CTRL_PANEL_RST h) then .low else .high
  | .reset => .low
  | _ => .highZ

/-- ETHn_TXDIS (R142); in reset and below it shows what CTRL.TXDIS is from reset (log entry 24). -/
def Mach.ethTxDis (m : Mach) (n : Nat) : Level :=
  match m.ballCase with
  | .run | .entering => if m.is (Fld.ETH_CTRL_TXDIS n) then .high else .low
  | .reset => .high
  | _ => .highZ

/-- CSi (R441): in matrix mode low where neither a row nor a column uses it. -/
def Mach.touchBall (m : Mach) (i : Nat) : Level :=
  match m.ballCase with
  | .run | .entering =>
    if m.is Fld.TOUCH_CTRL_EN then
      if m.touchChannels.contains i then .active else .low
    else .highZ
  | .keep => if m.is Fld.SYS_PWR_CTRL_TOUCH_WAKE then .active else .highZ
  | _ => .highZ

/-- I2C_SCL and I2C_SDA (R49, R55). -/
def Mach.i2cBalls (m : Mach) : Level := if m.i2cActive then .active else .highZ

/-! ### The configuration space (R58, R79) -/

/-- A word of the endpoint's configuration space: the identity that R58 gives, and its capabilities at places
of the model's (log entry 29). What the host has written (BARs, command, capabilities' control) is not held: no
command writes it. -/
def Mach.configWord (off : Nat) : Word :=
  let vendor := Config.fuse 0x100 0 % 0x10000
  match off with
  | 0x00 => BitVec.ofNat 32 (0x6440 * 0x10000 + vendor)
  -- Status: a capability list
  | 0x04 => 0x00100000
  | 0x34 => 0x40
  -- power management: D0 and D3hot
  | 0x40 => 0x00035001
  -- MSI-X: 64 vectors, their table at 0 of BAR4, the pending bit array at 0x2000
  | 0x50 => 0x003F6011
  | 0x54 => 0x00000004
  | 0x58 => 0x00002004
  -- PCI Express endpoint: payloads to 512 bytes, read requests to 4096, ASPM L1, 16 GT/s × 8
  | 0x60 => 0x00020010
  | 0x64 => 0x00008002
  | 0x68 => 0x00005000
  | 0x6C => 0x00000884
  -- AER
  | 0x100 => 0x00020001
  | 0x08 => BitVec.ofNat 32 (0x048000 * 0x100 + Config.fuse 0x101 0 % 0x100)
  -- BAR0/1 and BAR4/5: 64-bit, not prefetchable; BAR2/3: 64-bit, prefetchable
  | 0x10 => 0x4
  | 0x18 => 0xC
  | 0x20 => 0x4
  | 0x2C => BitVec.ofNat 32 ((if Config.industrial then 0x6441 else 0x6440) * 0x10000 + vendor)
  | _ => 0

/-- What a BAR reads after all ones have been written to it: 1 GiB, 4 GiB and 16 KiB (R58). -/
def Mach.barSizing (off : Nat) : Word :=
  match off with
  | 0x10 => 0xC0000004
  | 0x18 => 0x0000000C
  | 0x20 => 0xFFFFC004
  | 0x14 | 0x1C | 0x24 => 0xFFFFFFFF
  | _ => 0

/-- The endpoint answers a configuration read while its link is up, as head or member, in D0 or D3hot. -/
def Mach.configRead (m : Mach) (off : Nat) : Option Word :=
  if m.on && m.pcie.linkUp then some (Mach.configWord off) else none

end Sys2Proof.Machine
end

