-- ==== Sys2Proof/Tests/Slice0.lean ====
section
/-! SUPPORT. Tests of the model: ill-formed commands, the encodings of the sequencers' words, one small
step each for commands of every family with its result taken from spec/, and for every statement with
hypotheses a witness that meets them, clause by clause. -/

namespace Sys2Proof.Tests

open Sys2Proof Sys2Proof.Machine

set_option Elab.async false

/-! ### States to test on -/

/-- A running module with debug open: every access of the debug master (3) is admitted (R412). -/
def lab : Mach := (State.reset.m.wr Reg.PROT_DEBUG_OPEN 1).wr Reg.PROT_STATUS 2

/-- A module with no command waiting. -/
def st (m : Mach) : State := ⟨[], m⟩

/-- The module after one command, where the command answers a next state. -/
def after (c : Instr) (m : Mach) : Option Mach :=
  match exec c (st m) with
  | .next t => some t.m
  | _ => none

/-- The command answers a next state with nothing waiting, of which `P` holds. -/
def check (c : Instr) (m : Mach) (P : Mach → Bool) : Bool :=
  match exec c (st m) with
  | .next ⟨[], t⟩ => P t
  | _ => false

/-- Nothing but the named registers differs. -/
def regsOnly (m t : Mach) (keys : List Nat) : Bool :=
  decide (t = { m with regs := t.regs }) &&
    (t.regs ++ m.regs).all fun e => keys.contains e.1 || t.rd e.1 == m.rd e.1

/-- Nothing but bits of the named fields differs. -/
def bitsOnly (m t : Mach) (fs : List Fld) : Bool :=
  decide (t = { m with regs := t.regs }) &&
    (t.regs ++ m.regs).all fun e => (List.range 32).all fun b =>
      (fs.any fun f => f.key == e.1 && decide (f.lo ≤ b ∧ b < f.lo + f.width)) ||
        (t.rd e.1).getLsbD b == (m.rd e.1).getLsbD b

/-- Every register not named holds its reset value. -/
def resetOnly (t : Mach) (keys : List Nat) : Bool :=
  t.regs.all fun e => keys.contains e.1 || t.rd e.1 == resetOf e.1

/-- What a field holds after a command. -/
def got (c : Instr) (m : Mach) (f : Fld) : Option Nat := (after c m).map fun t => t.get f

/-- Sequencer `n` RUNNING at the first word of its instruction RAM, which encodes `op`. -/
def seqAt (n : Nat) (op : SeqOp) : Mach :=
  (lab.setBytes (0x1800000000 + n * 0x10000) (wordLE op.encode)).put (Fld.SEQ_STATUS_STATE n) 1

/-- Sequencer `n` WAITING for something. -/
def seqHeld (n : Nat) (w : SeqWait) : Mach :=
  (lab.put (Fld.SEQ_STATUS_STATE n) 2).updSeq n fun q => { q with wait := w }

theorem reaches_lab {m : Mach} {slot off : Nat}
    (h : (m.on && !m.locked && m.debugActive) = true) : (st m).reaches 3 slot off := by
  simp only [Bool.and_eq_true, Bool.not_eq_true'] at h
  obtain ⟨⟨h1, h2⟩, h3⟩ := h
  refine ⟨h1, rfl, ?_, ?_, ?_⟩
  · simp [st, Mach.regDenied, h2, h3, mstDebug]
  · simp [st, Mach.standbyDrops, mstDebug]
  · simp [st, Mach.hostWaits, hostOrdered, mstHost, mstChain]

theorem shows_lab {m : Mach} {slot off : Nat}
    (h : (m.on && m.debugActive) = true) : (st m).shows 3 slot off := by
  simp only [Bool.and_eq_true] at h
  exact ⟨h.1, rfl, by simp [st, Mach.regDenied, h.2, mstDebug], by simp [st, Mach.hostWaits, hostOrdered, mstHost, mstChain]⟩

/-- Sequencer `n` is about to issue `op`. -/
def issuesNow (m : Mach) (n : Nat) (op : SeqOp) : Bool :=
  m.on && seqOk n && m.seqReady n && !m.atBreakpoint n &&
    match (m.seqFetch n).2 with
    | some w => seqDecode (BitVec.ofNat 32 w) == some op
    | none => false

theorem issues_of {m : Mach} {n : Nat} {op : SeqOp} (h : issuesNow m n op = true) :
    (st m).issues n op (m.seqFetch n).1 := by
  simp only [issuesNow, Bool.and_eq_true, Bool.not_eq_true'] at h
  obtain ⟨⟨⟨⟨h1, h2⟩, h3⟩, h4⟩, h5⟩ := h
  refine ⟨h1, h2, h3, h4, ?_⟩
  cases hf : (m.seqFetch n).2 with
  | none => simp [hf] at h5
  | some w =>
    refine ⟨w, ?_, by simpa [hf] using h5⟩
    rw [← hf]; rfl

/-! ### Ill-formed commands (the checks of WellFormed) -/

theorem test_ill_formed_units :
    Instr.wf (.nop 24) = false ∧ Instr.wf (.frameDone 20) = false ∧ Instr.wf (.dpUnplug 16) = false ∧
    Instr.wf (.dsiTeEdge 15) = false ∧ Instr.wf (.dsiTeEdge 20) = false ∧
    Instr.wf (.ethLinkChange 4 true true) = false ∧ Instr.wf (.sessionDrained 4096) = false ∧
    Instr.wf (.contextLoadDone 64) = false ∧ Instr.wf (.encSliceStart 16) = false ∧
    Instr.wf (.streamDrained 2048) = false ∧ Instr.wf (.encStreamDrained 32) = false ∧
    Instr.wf (.protFence 256) = false ∧ Instr.wf (.domainTimeout 2) = false ∧
    Instr.wf (.dpllInputQualified 10) = false ∧ Instr.wf (.dramRefresh 16 true) = false ∧
    Instr.wf (.frameOutEdge 4) = false ∧ Instr.wf (.monClear 3 32 0) = false ∧
    Instr.wf (.checkJobCrc 8) = false := by decide

theorem test_ill_formed_operands :
    Instr.wf (.registerWrite 3 256 0 0) = false ∧ Instr.wf (.registerWrite 3 0 0x10000 0) = false ∧
    Instr.wf (.memoryAccess 3 0 0 none []) = false ∧ Instr.wf (.memoryAccess 3 0 1 (some []) []) = false ∧
    Instr.wf (.memoryAccess 3 0xFFFFFFFFFF 2 none []) = false ∧
    Instr.wf (.bar0Access 0xFFF 2 none) = false ∧ Instr.wf (.bar0Access 0x40000000 1 none) = false ∧
    Instr.wf (.linkChangeReport 64) = false ∧ Instr.wf (.relayFlitReceive 6 0 []) = false ∧
    Instr.wf (.layerAssign 3 384 0) = false ∧ Instr.wf (.ppsInEdge true (2 ^ 30)) = false ∧
    Instr.wf (.dpllClockEdge 1 0) = false ∧ Instr.wf (.vaultRead 3 256) = false ∧
    Instr.wf (.pairMirrorWrite (.memory 0xFFFFFFFFFF [0, 0])) = false ∧
    Instr.wf (.bootRomStart 4) = false ∧ Instr.wf (.i2cTelemetryRead 256 1 0 0 0) = false ∧
    Instr.wf (.tokenReceive 65 0) = false ∧ Instr.wf (.endReceive 0 false) = false ∧
    Instr.wf (.seqIramWrite 3 0 2 0) = false ∧ Instr.wf (.monPeriodicSample 101) = false ∧
    Instr.wf (.msixTableAccess 0x4000 none) = false ∧ Instr.wf (.auxReply 0 3 0 []) = false ∧
    Instr.wf (.deflJobDone 16 [] false 0) = false ∧
    Instr.wf (.dramCommandError 3 4 0) = false ∧ Instr.wf (.dramFreqChangeDone true 6001) = false ∧
    Instr.wf (.dramFreqChangeReverted [] 13001) = false ∧ Instr.wf (.scrubRead 3 false []) = false := by decide

/-- An ill-formed command stops the block, whatever the state. -/
theorem test_ill_formed_stops : exec (.nop 24) State.reset = .fault .illFormed := rfl

/-! ### Sequencer words, written out from the tables of R106 to R109 -/

theorem test_seq_words :
    seqDecode 0b000001_00001_00010_00011_00000000001#32 = some (.alu .sub 1 2 3) ∧
    seqDecode 0b000010_00001_00010_1111111111111111#32 = some (.imm .addi 1 2 0xFFFF) ∧
    seqDecode 0b001001_00101_00000_1000000000000001#32 = some (.lui 5 0x8001) ∧
    seqDecode 0b010110_00001_111111111111111111111#32 = some (.jal 1 (-1)) ∧
    seqDecode 0b100001_00100_00110_1000000000000000#32 = some (.cmt 4 2 6) ∧
    seqDecode 0b100100_00100_00110_00111_00000000000#32 = some (.crc .four 6 7) := by decide

theorem test_seq_words_reserved :
    seqDecode 0b001001_00101_00001_1000000000000001#32 = none ∧ seqDecode 0#32 = none ∧
    seqDecode 0xFFFFFFFF#32 = none := by decide

/-! ### The queue -/

/-- `lab` with one command waiting. -/
def waiting1 : State := ⟨[.nop 0], lab⟩

theorem witness_StepRunsTheQueue :
    waiting1.pending = [.nop 0] ∧ (st lab).pending = [] := by decide

theorem witness_WellFormedCommandsRun :
    waiting1.queueOk ∧ (st lab).queueOk ∧ Instr.wf (.nop 24) = false := by
  refine ⟨?_, ?_, by decide⟩
  · intro c hc; revert c; exact List.forall_mem_singleton.2 (by decide)
  · intro c hc; exact absurd hc (List.not_mem_nil)

theorem witness_MemoryStaysCanonical :
    waiting1.memoryOk ∧ (⟨[], lab.setBytes 5 [1, 0, 2]⟩ : State).memoryOk ∧
    ∃ t, step waiting1 = .next t := ⟨rfl, by unfold State.memoryOk; decide, _, rfl⟩

theorem witness_SeqWordsCorrespond :
    seqDecode 0b000001_11111_11111_11111_11111111111#32 = none ∧
    seqDecode 0b000001_11111_11111_11111_00000000001#32 = some (.alu .sub 31 31 31) := by decide

/-! ### Sequencers -/

/-- Sequencer 3 with w1 = 5, w2 = −3 and w4 = 0x10, about to issue `op`. -/
def seqRegs (op : SeqOp) : Mach :=
  ((((seqAt 3 op).setWreg 3 1 5).setWreg 3 2 0xFFFFFFFD).setWreg 3 4 0x10)

def wAfter (c : Instr) (op : SeqOp) (r : BitVec 5) : Option Word :=
  (after c (seqRegs op)).map fun t => t.wreg 3 r

theorem test_sub_wraps : wAfter (.sub 3 2 1 2) (.alu .sub 2 1 2) 2 = some 8 := by decide
theorem test_mulh_signed : wAfter (.mulh 3 9 1 2) (.alu .mulh 9 1 2) 9 = some 0xFFFFFFFF := by decide
theorem test_min_signed : wAfter (.min 3 9 1 2) (.alu .min 9 1 2) 9 = some 0xFFFFFFFD := by decide
theorem test_sltu_unsigned : wAfter (.sltu 3 9 1 2) (.alu .sltu 9 1 2) 9 = some 1 := by decide
theorem test_slt_signed : wAfter (.slt 3 9 2 1) (.alu .slt 9 2 1) 9 = some 1 := by decide
theorem test_sra_sign : wAfter (.sra 3 9 2 4) (.alu .sra 9 2 4) 9 = some 0xFFFFFFFF := by decide
theorem test_addi_extends_sign : wAfter (.addi 3 9 1 0xFFFF) (.imm .addi 9 1 0xFFFF) 9 = some 4 := by decide
theorem test_ori_extends_zero : wAfter (.ori 3 9 0 0xFFFF) (.imm .ori 9 0 0xFFFF) 9 = some 0xFFFF := by decide
theorem test_lui_upper : wAfter (.lui 3 9 0x8001) (.lui 9 0x8001) 9 = some 0x80010000 := by decide
theorem test_w0_stays_zero : wAfter (.addi 3 0 1 1) (.imm .addi 0 1 1) 0 = some 0 := by decide

/-- The check value of R130: "1234", "5678" and "9" from all ones, inverted, give 0xE306_9283. -/
theorem test_crc_check_value :
    crc32cByte 0xFFFFFFFF 0x31 = 0x6F0A661C#32 ∧
    crc32cByte 0x6F0A661C 0x32 = 0x8CAA3B9F#32 ∧
    crc32cByte 0x8CAA3B9F 0x33 = 0xEF84D04D#32 ∧
    crc32cByte 0xEF84D04D 0x34 = 0x09C50B11#32 ∧
    crc32cByte 0x09C50B11 0x35 = 0xE72EDCCA#32 ∧
    crc32cByte 0xE72EDCCA 0x36 = 0xBECA8E79#32 ∧
    crc32cByte 0xBECA8E79 0x37 = 0xEDBD6815#32 ∧
    crc32cByte 0xEDBD6815 0x38 = 0x9F787F65#32 ∧
    crc32cByte 0x9F787F65 0x39 = ~~~ 0xE3069283#32 := by
  refine ⟨?_, ?_, ?_, ?_, ?_, ?_, ?_, ?_, ?_⟩ <;> decide

theorem test_crc_one_byte :
    wAfter (.crc 3 1 1 4) (.crc .one 1 4) 1 = some (crc32cByte 5 0x10) := by decide

/-- A taken branch goes to its own address plus four times its offset (R115). -/
theorem test_bne_target : (after (.bne 3 1 2 4) (seqRegs (.branch .bne 1 2 4))).map (fun t => t.pcOf 3) =
    some 16 := by decide
theorem test_bne_backwards_faults :
    got (.bne 3 1 2 0xFFFF) (seqRegs (.branch .bne 1 2 0xFFFF)) (Fld.SEQ_CAUSE_CODE 3) = some 0x11 ∧
    got (.bne 3 1 2 0xFFFF) (seqRegs (.branch .bne 1 2 0xFFFF)) (Fld.SEQ_FAULT_INFO_INFO 3) =
      some 0xFFFFFFFC := by decide
theorem test_jal_links : wAfter (.jal 3 1 8) (.jal 1 8) 1 = some 4 ∧
    (after (.jal 3 1 8) (seqRegs (.jal 1 8))).map (fun t => t.pcOf 3) = some 32 := by decide
theorem test_jr_misaligned : got (.jr 3 1) (seqRegs (.jr 1)) (Fld.SEQ_CAUSE_CODE 3) = some 0x12 := by decide
/-- The last word of the range is at 0x7FFC: a target past it is out of range, aligned or not (R115). -/
theorem test_jr_past_the_last_word :
    got (.jr 3 1) ((seqAt 3 (.jr 1)).setWreg 3 1 0x7FFD) (Fld.SEQ_CAUSE_CODE 3) = some 0x11 := by decide
theorem test_st_then_bytes :
    (after (.st 3 2 4 0xFFFC) (seqRegs (.st 2 4 0xFFFC))).map (fun t => t.bytes 0x180003800C 4) =
      some [0xFD, 0xFF, 0xFF, 0xFF] := by decide
theorem test_ld_misaligned :
    got (.ld 3 9 1 0) (seqRegs (.ld 9 1 0)) (Fld.SEQ_CAUSE_CODE 3) = some 0x14 := by decide
theorem test_halt_moves_past : (after (.halt 3) (seqRegs .halt)).map
    (fun t => (t.pcOf 3, t.seqState 3, t.get (Fld.SEQ_CAUSE_CODE 3))) = some (4, 3, 1) := by decide
theorem test_brk_info : (after (.brk 3 0x1234) (seqRegs (.brk 0x1234))).map
    (fun t => (t.pcOf 3, t.get (Fld.SEQ_CAUSE_CODE 3), t.get (Fld.SEQ_FAULT_INFO_INFO 3))) =
      some (4, 3, 0x1234) := by decide
theorem test_illegal_word : (after (.illegalInstruction 3) (lab.put (Fld.SEQ_STATUS_STATE 3) 1)).map
    (fun t => (t.seqState 3, t.get (Fld.SEQ_CAUSE_CODE 3), t.pcOf 3)) = some (4, 0x10, 0) := by decide
theorem test_wevt_takes : (after (.wevt 3 9 0 6) ((seqRegs (.wevt 9 0 6)).put (Fld.SEQ_EVT_PEND_PEND 3) 5)).map
    (fun t => (t.wreg 3 9, t.get (Fld.SEQ_EVT_PEND_PEND 3))) = some (4, 1) := by decide
theorem test_start_clears :
    (after (.seqStart 3 3 1) ((lab.setWreg 3 7 9).put (Fld.SEQ_CYCLES_COUNT 3) 8)).map
      (fun t => (t.wreg 3 7, t.get (Fld.SEQ_CYCLES_COUNT 3), t.seqState 3, t.get (Fld.SEQ_WIN_WIN2 3))) =
      some (0, 0, 1, 0xA3) := by decide

theorem witness_SeqArithmeticCompletes :
    (∀ f ∈ [AluOp.add, .sub, .and, .or, .xor, .shl, .shr, .sra, .mul, .mulh, .min, .max, .slt, .sltu],
      (st (seqAt 22 (.alu f 31 1 2))).issues 22 (.alu f 31 1 2) ((seqAt 22 (.alu f 31 1 2)).seqFetch 22).1) ∧
    (∀ f ∈ [ImmOp.addi, .andi, .ori, .xori],
      (st (seqAt 0 (.imm f 31 0 0xFFFF))).issues 0 (.imm f 31 0 0xFFFF)
        ((seqAt 0 (.imm f 31 0 0xFFFF)).seqFetch 0).1) ∧
    (∀ f ∈ [ShiftOp.shli, .shri, .srai],
      (st (seqAt 0 (.shift f 31 0 31))).issues 0 (.shift f 31 0 31)
        ((seqAt 0 (.shift f 31 0 31)).seqFetch 0).1) ∧
    (st (seqAt 0 (.lui 31 0xFFFF))).issues 0 (.lui 31 0xFFFF) ((seqAt 0 (.lui 31 0xFFFF)).seqFetch 0).1 := by
  refine ⟨?_, ?_, ?_, issues_of (by decide)⟩ <;> intro f hf <;> apply issues_of <;> revert f <;> decide

theorem witness_SeqWriteIsWhole :
    23 < 24 ∧ (lab.seq 23).stepping = false ∧ lab.pcOf 23 + 4 < lab.pcLimit 23 := by decide

theorem witness_SeqBranchesComplete :
    (∀ f ∈ [BranchOp.beq, .bne, .blt, .bge, .bltu, .bgeu],
      (st (seqAt 22 (.branch f 1 2 0x8000))).issues 22 (.branch f 1 2 0x8000)
        ((seqAt 22 (.branch f 1 2 0x8000)).seqFetch 22).1) ∧
    (st (seqAt 0 (.jal 31 0x1FFFFF))).issues 0 (.jal 31 0x1FFFFF) ((seqAt 0 (.jal 31 0x1FFFFF)).seqFetch 0).1 ∧
    (st (seqAt 0 (.jr 31))).issues 0 (.jr 31) ((seqAt 0 (.jr 31)).seqFetch 0).1 ∧
    (let m := (lab.put (Fld.SEQ_STATUS_STATE 0) 1).updSeq 0 fun q => { q with runOn := true }
     m.on = true ∧ m.seqState 0 = 1 ∧ (m.seq 0).runOn = true ∧ (m.seq 0).stopReq = false) ∧
    ((lab.seq 0).stepping = false ∧ 0x7FFC ≤ lab.pcLimit 0 - 4 ∧ 0x7FFC % 4 = 0 ∧
      lab.pcLimit 0 - 4 < 0x7FFD ∧ 0x7FFB ≤ lab.pcLimit 0 - 4 ∧ 0x7FFB % 4 ≠ 0 ∧
      0x3FFFC ≤ lab.pcLimit 23 - 4 ∧ lab.pcLimit 23 - 4 < 0x3FFFD) ∧
    (lab.pcOf 0 + 4 < lab.pcLimit 0 ∧ ¬ (lab.setPc 0 0x7FFC).pcOf 0 + 4 < (lab.setPc 0 0x7FFC).pcLimit 0 ∧
      (let m := lab.updSeq 0 fun q => { q with stepping := true }
       (m.seq 0).stepping = true ∧ (m.seq 0).stopReq = false)) := by
  refine ⟨?_, issues_of (by decide), issues_of (by decide), by decide, by decide, by decide⟩
  intro f hf; apply issues_of; revert f; decide

/-- Sequencer 3 about to issue `op`, with w4 = 0x3FFC. -/
def seqTop (op : SeqOp) : Mach := (seqAt 3 op).setWreg 3 4 0x3FFC

theorem witness_SeqDataAccessesComplete :
    (∀ op ∈ [SeqOp.ld 9 4 0, .st 9 4 0, .setw 3 0 0xFF, .ldr 9 0 0x0010, .str 9 0 0x0010],
      (st (seqTop op)).issues 3 op ((seqTop op).seqFetch 3).1) ∧
    (let m := ((seqTop (.ld 9 4 0)).seqFetch 3).1
     (m.wreg 3 4).toNat < 0x4000 ∧ (m.wreg 3 4).toNat % 4 = 0 ∧
       m.flipMask (0x1800008000 + 3 * 0x10000 + 0x3FFC) = 0 ∧ Memory.wf m.mem = true) ∧
    (slotRows 0x93).isEmpty = false ∧
    (let m := ((seqTop (.ldr 9 0 0x0010)).put (Fld.PROT_SLOT_RULE_RULE 0xA3) 0xFFFFFFFF).put (Fld.SEQ_WIN_WIN0 3) 0xA3
     m.regDenied 0x13 (m.get (winFld 3 0)) 0x10 false = none ∧
     m.regDenied 0x13 (m.get (winFld 3 0)) 0x10 true = none) := by
  refine ⟨?_, by decide, by decide, ?_⟩
  · intro op hop; apply issues_of; revert op; decide
  · decide

theorem witness_SeqAccessesEnd :
    (∀ b ∈ [false, true],
      (seqHeld 3 (.read 0 9 0x83 0 b)).inFlight 3 = .read 0 9 0x83 0 b ∧
      (seqHeld 3 (.write 0 0xA3 0x10 7 b)).inFlight 3 = .write 0 0xA3 0x10 7 b ∧
      (seqHeld 3 (.commit 0 9 0x83 1 b)).inFlight 3 = .commit 0 9 0x83 1 b) ∧
    ((lab.regAt 0x13 0x83 0).isSome = true ∧ ¬ (0x83 = 1 ∧ 0 = 8) ∧ lab.on = true) ∧
    (let m := seqHeld 3 (.write 0 0xA3 0x10 7 false)
     (m.regStore 0x13 0xA3 0x10 7 []).1.inFlight 3 = .write 0 0xA3 0x10 7 false) ∧
    (let m := seqHeld 3 (.commit 0 9 0x83 1 false)
     (m.regStore 0x13 0x83 0x10 1 []).1.inFlight 3 = .commit 0 9 0x83 1 false) ∧
    (let m := ((seqAt 3 (.cmt 9 0 1)).put (Fld.PROT_SLOT_RULE_RULE 0x83) 0xFFFFFFFF).put (Fld.SEQ_WIN_WIN0 3) 0x83
     (st m).issues 3 (.cmt 9 0 1) (m.seqFetch 3).1 ∧
     takesCommit ((m.seqFetch 3).1.get (winFld 3 0)) = true ∧
     (m.seqFetch 3).1.regDenied 0x13 ((m.seqFetch 3).1.get (winFld 3 0)) 0x10 true = none) := by
  refine ⟨by decide, by decide, by decide, by decide, issues_of (by decide), by decide, by decide⟩

/-- Sequencer 3 about to issue `op`, with w2 = 999,999,999 and w3 = 1. -/
def seqTimes (op : SeqOp) : Mach := ((seqAt 3 op).setWreg 3 2 999999999).setWreg 3 3 1

theorem witness_SeqWaitsBegin :
    (∀ op ∈ [SeqOp.wline 31 0 0, .wline 19 0 0xFFFF, .wtime 2 2, .wevt 9 0 1, .wcyc 0 1, .wcyc 0 0, .fprot],
      (st (seqTimes op)).issues 3 op ((seqTimes op).seqFetch 3).1) ∧
    (let m := seqTimes .fprot
     m.scanning 3 = false ∧ (m.wreg 3 2).toNat < 1000000000 ∧ m.timeReached 2 1 999999999 = false ∧
     m.timeReached 0 0 0 = true ∧ m.pendMasked 3 1 = 0 ∧ m.drained m.nextAccess = true ∧
     (m.put (Fld.SEQ_EVT_PEND_PEND 3) 1).pendMasked 3 1 ≠ 0 ∧
     (let m := (m.put (Fld.SEQ_STATUS_STATE 5) 2).updSeq 5 fun q => { q with wait := .write 0 0x83 0x10 1 false }
      { m with nextAccess := 1 }.drained 1 = false)) := by
  constructor
  · intro op hop; apply issues_of; revert op; decide
  · decide

theorem witness_SeqWaitsEnd :
    (seqHeld 23 (.line 0 5 true)).seqWaitOf 23 = .line 0 5 true ∧
    (seqHeld 23 (.time 0 0 0)).seqWaitOf 23 = .time 0 0 0 ∧ lab.timeReached 0 0 0 = true ∧
    (seqHeld 23 (.evt 9 1)).seqWaitOf 23 = .evt 9 1 ∧
    ((seqHeld 23 (.evt 9 1)).put (Fld.SEQ_EVT_PEND_PEND 23) 1).pendMasked 23 1 ≠ 0 ∧
    ((seqHeld 23 (.cyc 7)).seqWaitOf 23 = .cyc 7 ∧ (seqHeld 23 (.cyc 7)).get (Fld.SEQ_WAIT_LIMIT_LIMIT 23) = 0) ∧
    (let m := (seqHeld 23 (.cyc 801)).put (Fld.SEQ_WAIT_LIMIT_LIMIT 23) 1
     m.seqWaitOf 23 = .cyc 801 ∧ m.get (Fld.SEQ_WAIT_LIMIT_LIMIT 23) ≠ 0 ∧
       800 * m.get (Fld.SEQ_WAIT_LIMIT_LIMIT 23) < 801) ∧
    (seqHeld 23 (.fence 0)).seqWaitOf 23 = .fence 0 ∧ lab.drained 0 = true ∧ (9 : BitVec 5) ≠ 0 := by decide

theorem witness_SeqOthersComplete :
    (∀ op ∈ [SeqOp.post 0 14, .crc .one 1 2, .crc .two 1 2, .crc .four 1 2, .rdt 2 2, .rdt 2 3, .rdt 2 0x23, .nop,
        .job 9 4 0x17 15, .job 9 4 0x18 7],
      (st (seqAt 3 op)).issues 3 op ((seqAt 3 op).seqFetch 3).1) ∧
    (let m := ((seqAt 3 (.job 9 4 0x17 15)).setWreg 3 4 0x3FC0)
     (m.wreg 3 4).toNat ≤ 0x3FC0 ∧ (m.wreg 3 4).toNat % 4 = 0 ∧
     (m.descriptorWords 3 0x3FC0 16).2 = some (List.replicate 64 0)) := by
  constructor
  · intro op hop; apply issues_of; revert op; decide
  · decide

theorem witness_SeqStopsComplete :
    (∀ op ∈ [SeqOp.halt, .brk 0xFFFF], (st (seqAt 3 op)).issues 3 op ((seqAt 3 op).seqFetch 3).1) ∧
    ((seqAt 3 .halt).is (Fld.SEQ_CTRL_BRK_FAULT 3) = false ∧
      ((seqAt 3 .halt).put (Fld.SEQ_CTRL_BRK_FAULT 3) 1).is (Fld.SEQ_CTRL_BRK_FAULT 3) = true) ∧
    (let m := lab.put (Fld.SEQ_STATUS_STATE 3) 1
     m.seqReady 3 = true ∧ m.atBreakpoint 3 = false ∧ (m.seqFetch 3).2 = some 0 ∧ seqDecode 0 = none ∧
     m.seqState 3 = 1 ∧ (m.put (Fld.SEQ_BKPT_EN 3 1) 1).atBreakpoint 3 = true) ∧
    (let m := lab.updSeq 3 fun q => { q with runOn := true }
     (m.seq 3).runOn = true ∧ (m.seq 3).stopReq = false) ∧
    (let m := (seqHeld 3 (.evt 9 1)).put (Fld.SEQ_WAIT_LIMIT_LIMIT 3) 1
     m.get (Fld.SEQ_WAIT_LIMIT_LIMIT 3) ≠ 0 ∧ m.unsatisfied 3 1 = some 3) ∧
    (let m := (lab.put (Fld.SEQ_STATUS_STATE 3) 1).updSeq 3 fun q => { q with stopReq := true }
     m.seqState 3 = 1 ∧ (m.seq 3).stopReq = true) := by
  refine ⟨?_, by decide, by decide, by decide, by decide, by decide⟩
  intro op hop; apply issues_of; revert op; decide

theorem witness_SeqControlActs :
    (∀ k ∈ [0, 1, 3, 4], (st (lab.put (Fld.SEQ_STATUS_STATE 23) k)).reaches 3 0xB7 0 ∧
      (lab.put (Fld.SEQ_STATUS_STATE 23) k).seqState 23 = k) ∧
    ((1 : Word).getLsbD 0 = true ∧ (1 : Word).getLsbD 3 = false ∧ (2 : Word).getLsbD 1 = true ∧
      (4 : Word).getLsbD 2 = true ∧ (8 : Word).getLsbD 3 = true) ∧
    ((st lab).reaches 3 0xA3 0x2C ∧ lab.seqBusy 3 = false ∧ lab.hostWaits 3 = false ∧
      lab.memDenied 3 (0x1800000000 + 3 * 0x10000 + 0x7FFC) true = none ∧
      lab.leaseHit (0x1800000000 + 3 * 0x10000 + 0x7FFC) 4 = none ∧
      lab.mirrorFull 3 [(0x1800000000 + 3 * 0x10000 + 0x7FFC, 4)] = false) ∧
    (let m := lab.put (Fld.SEQ_STATUS_STATE 3) 1
     (st m).reaches 3 0xA3 0x2C ∧ m.seqBusy 3 = true) := by
  refine ⟨?_, by decide, ⟨reaches_lab (by decide), by decide, by decide, by decide, by decide, by decide⟩,
    reaches_lab (by decide), by decide⟩
  intro k hk; exact ⟨reaches_lab (by revert k; decide), by revert k; decide⟩


/-! One step each for the commands that end an instruction or that the host sends to a sequencer. -/

theorem test_ldrDone : check (.ldrDone 3) (seqHeld 3 (.read 0 9 0x83 0 false)) (fun t =>
    t.seqState 3 == 1 && t.pcOf 3 == 4) = true := by decide
theorem test_strDone : check (.strDone 3) (seqHeld 3 (.write 0 0xA5 0x28 7 false)) (fun t =>
    t.seqState 3 == 1 && t.pcOf 3 == 4 && t.get (Fld.SEQ_DBG_SEL_REG 5) == 7) = true := by decide
theorem test_pcRunOn : check (.pcRunOn 3) ((lab.put (Fld.SEQ_STATUS_STATE 3) 1).updSeq 3 fun q =>
    { q with runOn := true }) (fun t => t.seqState 3 == 4 && t.get (Fld.SEQ_CAUSE_CODE 3) == 0x11) = true := by decide
theorem test_wlineEnd : check (.wlineEnd 3) (seqHeld 3 (.line 0 5 true)) (fun t =>
    t.seqState 3 == 1 && t.pcOf 3 == 4) = true := by decide
theorem test_wtimeEnd : check (.wtimeEnd 3) (seqHeld 3 (.time 0 0 0)) (fun t =>
    t.seqState 3 == 1 && t.pcOf 3 == 4) = true := by decide
theorem test_wevtEnd : check (.wevtEnd 3) ((seqHeld 3 (.evt 9 6)).put (Fld.SEQ_EVT_PEND_PEND 3) 5) (fun t =>
    t.wreg 3 9 == 4 && t.get (Fld.SEQ_EVT_PEND_PEND 3) == 1) = true := by decide
theorem test_wevtEnd_waits : check (.wevtEnd 3) (seqHeld 3 (.evt 9 6)) (fun t =>
    t == seqHeld 3 (.evt 9 6)) = true := by decide
theorem test_wcycEnd : check (.wcycEnd 3) (seqHeld 3 (.cyc 7)) (fun t =>
    t.seqState 3 == 1 && t.get (Fld.SEQ_CYCLES_COUNT 3) == 7) = true := by decide
theorem test_wcycEnd_limited : check (.wcycEnd 3) ((seqHeld 3 (.cyc 801)).put (Fld.SEQ_WAIT_LIMIT_LIMIT 3) 1)
    (fun t => t.seqState 3 == 4 && t.get (Fld.SEQ_CAUSE_CODE 3) == 0x18) = true := by decide
theorem test_waitTimeout : check (.waitTimeout 3) ((seqHeld 3 (.evt 9 1)).put (Fld.SEQ_WAIT_LIMIT_LIMIT 3) 1)
    (fun t => t.seqState 3 == 4 && t.get (Fld.SEQ_CAUSE_CODE 3) == 0x18 && t.pcOf 3 == 0) = true := by decide
theorem test_cmtDone_shadowless : check (.cmtDone 3) (seqHeld 3 (.commit 0 9 0x83 0 false)) (fun t =>
    t.seqState 3 == 1 && t.wreg 3 9 == 0) = true := by decide
theorem test_fprotDrainDone : check (.fprotDrainDone 3) (seqHeld 3 (.fence 0)) (fun t =>
    t.seqState 3 == 1 && t.pcOf 3 == 4) = true := by decide
theorem test_breakpointHit : check (.breakpointHit 3) ((lab.put (Fld.SEQ_STATUS_STATE 3) 1).put
    (Fld.SEQ_BKPT_EN 3 1) 1) (fun t => t.seqState 3 == 3 && t.get (Fld.SEQ_CAUSE_CODE 3) == 4) = true := by decide
theorem test_seqStop_waits_for_the_end : check (.seqStop 3 3 8) (seqHeld 3 (.evt 9 1)) (fun t =>
    (t.seq 3).stopReq) = true := by decide
theorem test_seqStopped : check (.seqStopped 3) ((seqHeld 3 (.evt 9 1)).updSeq 3 fun q => { q with stopReq := true })
    (fun t => t.seqState 3 == 3 && t.get (Fld.SEQ_CAUSE_CODE 3) == 2 && t.pcOf 3 == 0) = true := by decide
theorem test_seqResume : check (.seqResume 3 3 2) (lab.put (Fld.SEQ_STATUS_STATE 3) 3) (fun t =>
    t.seqState 3 == 1) = true := by decide
theorem test_seqStep_one : check (.seqStep 3 3 4) (lab.put (Fld.SEQ_STATUS_STATE 3) 3) (fun t =>
    t.seqState 3 == 1) = true := by decide
theorem test_seqStep_keeps_the_cause : check (.seqStep 3 3 4)
    ((lab.put (Fld.SEQ_STATUS_STATE 3) 3).put (Fld.SEQ_CAUSE_CODE 3) 4)
    (fun t => t.get (Fld.SEQ_CAUSE_CODE 3) == 4) = true := by decide
theorem test_seqDbgDataWrite : check (.seqDbgDataWrite 3 3 0x01020304)
    ((lab.put (Fld.SEQ_STATUS_STATE 3) 3).put (Fld.SEQ_DBG_SEL_REG 3) 31) (fun t =>
    t.wreg 3 31 == 0x01020304) = true := by decide
theorem test_seqDbgDataWrite_busy : check (.seqDbgDataWrite 3 3 7)
    ((lab.put (Fld.SEQ_STATUS_STATE 3) 1).put (Fld.SEQ_DBG_SEL_REG 3) 31) (fun t =>
    t.wreg 3 31 == 0) = true := by decide
theorem test_seqResume_idle : check (.seqResume 3 3 2) lab (fun t => t.seqState 3 == 0) = true := by decide
/-! ### Power, reset, boot -/

/-- The module with another power condition. -/
def inPhase (p : PwrPhase) : Mach := { lab with pwr := { lab.pwr with phase := p } }

/-- The boot ROM at a stage, image of 0x400 bytes staged. -/
def atStage (k : Nat) : Mach :=
  { lab.put Fld.BOOT_STATUS_STAGE k with boot := { lab.boot with romStarted := true, imageLen := some 0x404 } }

/-- The module as it is to enter Idle: the TARGET, self-refresh, and DRAM unused for a second. -/
def toIdle : Mach :=
  (({ lab with time := { lab.time with ticks := 250000000 } } : Mach).put Fld.SYS_PWR_CTRL_TARGET 1).put
    Fld.DRAMC_CTRL_SREF_EN 1

theorem witness_PowerUpProceeds :
    ((inPhase .off).pwr.phase = .off ∧ (inPhase .off).pwr.railLatched = false) ∧
    (inPhase .downing).pwr.phase = .downing ∧ (inPhase .dormant).pwr.phase = .dormant ∧
    ((inPhase .softStart).pwr.phase = .softStart ∧ (inPhase .softStart).pwr.railTries < 3) ∧
    3 ≤ ({ (inPhase .softStart) with pwr := { lab.pwr with railTries := 3 } } : Mach).pwr.railTries ∧
    (inPhase .railsRise).pwr.phase = .railsRise ∧
    (inPhase .retryWait).pwr.phase = .retryWait ∧
    ((inPhase .railsUp).pwr.phase = .railsUp ∧ (inPhase .railsUp).pwr.resetLow = false ∧ 3 < 4) ∧
    (lab.pwr.phase = .on ∧ lab.boot.romStarted = false) := by decide

theorem witness_PowerLossAndResets :
    lab.on = true ∧ (inPhase .entering).pwr.phase = .entering ∧ (inPhase .keep).pwr.phase = .keep ∧
    ((inPhase .railsUp).pwr.phase ≠ .on ∧ (inPhase .railsUp).pwr.phase ≠ .tripped) ∧
    (inPhase .downing).pwr.phase = .downing ∧
    (let m : Mach := { lab with pwr := { lab.pwr with phase := .railsUp, resetLow := true } }
     m.pwr.resetLow = true ∧ m.pwr.phase = .railsUp) ∧
    (let m : Mach := { lab with pwr := { lab.pwr with phase := .tripped, resetLow := true } }
     m.pwr.resetLow = true ∧ m.pwr.phase = .tripped) ∧
    (st lab).reaches 3 0 0x110 ∧ (0xA5C30001 : Word).getLsbD 0 = true ∧
    bitsOf (0xA5C30001 : Word).toNat 16 16 = 0xA5C3 ∧ bitsOf (0xA5C20001 : Word).toNat 16 16 ≠ 0xA5C3 ∧
    ∀ k < 10, 5 ≤ k → lab.dpll.valid.contains k = false :=
  ⟨by decide, by decide, by decide, by decide, by decide, by decide, by decide,
    reaches_lab (by decide), by decide, by decide, by decide, by decide⟩

theorem witness_PowerTargets :
    (st lab).reaches 3 0 0x100 ∧
    (∀ k ∈ [0, 1, 2, 3], bitsOf (BitVec.ofNat 32 (0xA5C30000 + k) : Word).toNat 0 2 = k) ∧
    (lab.paired && lab.pair.poss) = false ∧
    (let m := ({ lab with pair := { lab.pair with poss := true } } : Mach).put Fld.PAIR_CTRL_EN 1
     (m.paired && m.pair.poss) = true) :=
  ⟨reaches_lab (by decide), by decide, by decide, by decide⟩

theorem witness_LowPowerStates :
    ((inPhase .entering).pwr.phase = .entering ∧ (inPhase .entering).pwr.toDormant = false) ∧
    (let m : Mach := { lab with pwr := { lab.pwr with phase := .entering, toDormant := true } }
     m.pwr.phase = .entering ∧ m.pwr.toDormant = true) ∧
    (inPhase .keep).pwr.phase = .keep ∧ (inPhase .dormant).pwr.phase = .dormant ∧
    24000000000 < ({ inPhase .keep with pwr := { (inPhase .keep).pwr with keepTicks := 24000000001 } } :
      Mach).pwr.keepTicks ∧
    toIdle.idleReady = true ∧
    (lab.put Fld.SYS_PWR_STATUS_STATE 1).get Fld.SYS_PWR_STATUS_STATE = 1 := by decide

/-- All channels trained with eyes of 40 %, but for the second byte lane of channel 15 at point 3. -/
def trainedAll (command : Nat) : List ChannelTraining :=
  (List.range 16).map fun c => ⟨c, (List.range 4).flatMap fun p => [0, 1].map fun b =>
    if c = 15 ∧ p = 3 ∧ b = 1 then ⟨p, b, 26, 26, command⟩ else ⟨p, b, 40, 40, 40⟩⟩

/-- A module to check a boot image in, whose training has failed on a lane. -/
def untrained : Mach := { atStage 4 with boot := { (atStage 4).boot with trainFail := some 31 } }

theorem witness_BootPrepares :
    (let m := atStage 0
     m.on = true ∧ m.boot.romStarted = true ∧ m.boot.fsCleared = false ∧ m.boot.halted = false ∧ m.stage = 0 ∧
       m.boot.trained = false ∧ m.boot.trainFail = none ∧ m.boot.zeroFilled = false) ∧
    trainedWhole (trainedAll 29) = true ∧
    (untrained.stage = 4 ∧ untrained.boot.halted = false ∧ untrained.boot.trainFail = some 31 ∧ 31 < 32) ∧
    (atStage 3).stage ≠ 4 ∧
    ((atStage 4).stage = 4 ∧ (atStage 4).boot.halted = false ∧ (atStage 4).boot.trainFail = none ∧
      (atStage 4).boot.zeroFilled = false) ∧
    (let m : Mach := { atStage 3 with boot := { (atStage 3).boot with trained := true } }
     m.boot.zeroFilled = false ∧ m.boot.trained = true) := by decide +kernel

theorem witness_BootChecksAndStarts :
    ((atStage 1).stage = 1 ∧ (atStage 1).boot.halted = false ∧
      ([0x42, 0, 0, 0] : List Byte).take 4 ≠ List.replicate 4 0xFF ∧
      ([0x42, 0, 0, 0] : List Byte).take 4 ≠ List.replicate 4 0) ∧
    ((st (atStage 2)).reaches 3 5 4 ∧ (0x80000400 : Word).getLsbD 31 = true ∧ (atStage 2).stage = 2) ∧
    ((atStage 3).stage = 3 ∧ (atStage 3).boot.imageLen = some 0x404) ∧
    (let header := (atStage 5).staged 0 0x400
     (atStage 5).stage = 5 ∧ leNat ((header.2.drop 0x10).take 1) < 24 ∧
       leNat ((header.2.drop 0x14).take 4) = 0) ∧
    ((atStage 6).stage = 6 ∧ (atStage 6).locked = false) ∧
    ((st (atStage 6)).reaches 3 1 0 ∧ (1 : Word).getLsbD 0 = true) :=
  ⟨by decide, ⟨reaches_lab (by decide), by decide, by decide⟩, by decide, by decide, by decide,
    reaches_lab (by decide), by decide⟩

theorem witness_BootChecksAndStarts_locked :
    let m := (atStage 7).put Fld.PROT_BOOT_LOCK_LOCK 1
    m.on = true ∧ m.locked = true ∧ m.regDenied 0x27 1 0 true = none := by decide

theorem witness_I2cAnswers : (st (atStage 7)).m.i2cActive = true ∧ (255 : Nat) < 256 ∧ 0 + 8 ≤ 8 := by decide

theorem test_powerOn : check .powerOn (inPhase .dormant) (fun t =>
    resetOnly t [Reg.SYS_PWR_STATUS, Reg.PAIR_STATUS] && t.pwr.phase == .softStart &&
    t.get Fld.SYS_PWR_STATUS_WAKE_CAUSE == 1) = true := by decide
theorem test_railsPowerGood : check .railsPowerGood (inPhase .softStart) (fun t =>
    t == inPhase .railsUp) = true := by decide
theorem test_railRetry : check .railRetry (inPhase .retryWait) (fun t => t == inPhase .softStart) = true := by
  decide
theorem test_bootRomStart : check (.bootRomStart 1) (inPhase .railsUp) (fun t =>
    t.pwr.phase == .on && t.boot.romStarted && t.get Fld.BOOT_STATUS_SEL == 1 && !t.boot.halted &&
    regsOnly { inPhase .railsUp with pwr := t.pwr, boot := t.boot } t [Reg.BOOT_STATUS]) = true := by decide
theorem test_vinLow : check .vinLow lab (fun t =>
    t == (lab.put Fld.SYS_PWR_STATUS_VIN_LOW 1).raise 0xBC) = true := by decide
theorem test_thermWarn : check .thermWarn lab (fun t =>
    t == (lab.put Fld.SYS_PWR_STATUS_THERM_WARN 1).raise 0xBD) = true := by decide
theorem test_powerDown : check .powerDown lab (fun t =>
    t.pwr.phase == .downing && resetOnly t [Reg.PAIR_STATUS]) = true := by decide
theorem test_powerDownDone : check .powerDownDone (inPhase .downing) (fun t => t == inPhase .off) = true := by
  decide
theorem test_resetNAssert : check .resetNAssert lab (fun t =>
    t.pwr.phase == .railsUp && t.pwr.resetLow && t.get Fld.SYS_RESET_CAUSE_CAUSE == 3 &&
    resetOnly t [Reg.SYS_RESET_CAUSE, Reg.PAIR_STATUS]) = true := by decide
theorem test_resetNRelease : check .resetNRelease
    { lab with pwr := { lab.pwr with phase := .tripped, resetLow := true } } (fun t =>
      t.pwr.phase == .railsUp && !t.pwr.resetLow) = true := by decide
theorem test_thermalTrip : check .thermalTrip lab (fun t =>
    t.pwr.phase == .tripped && t.pwr.tripLatched && resetOnly t [Reg.PAIR_STATUS]) = true := by decide
theorem test_softReset : check (.softReset 3 0xA5C30001) (lab.wr Reg.TIME_INCR 7) (fun t =>
    t.time == lab.time && t.get Fld.SYS_RESET_CAUSE_CAUSE == 4 && t.mem == [] && t.seqs == [] &&
    t.pwr.phase == .on && t.rd Reg.TIME_INCR == 7) = true := by decide
theorem test_softReset_unconfirmed : check (.softReset 3 1) lab (fun t => regsOnly lab t []) = true := by decide
theorem test_pwrTargetIdle : check (.pwrTargetIdle 3 1) lab (fun t =>
    t.get Fld.SYS_PWR_CTRL_TARGET == 1 && regsOnly lab t [Reg.SYS_PWR_CTRL]) = true := by decide
theorem test_pwrTargetRun : check (.pwrTargetRun 3 0) (lab.put Fld.SYS_PWR_CTRL_TARGET 1) (fun t =>
    t.get Fld.SYS_PWR_CTRL_TARGET == 0 && regsOnly lab t [Reg.SYS_PWR_CTRL]) = true := by decide
theorem test_pwrRequestKeep : check (.pwrRequestKeep 3 0xA5C30002 false) lab (fun t =>
    t.pwr.phase == .entering && !t.pwr.toDormant &&
    regsOnly { lab with pwr := t.pwr } t [Reg.SYS_PWR_CTRL]) = true := by decide
theorem test_pwrRequestKeep_unconfirmed : check (.pwrRequestKeep 3 2 false) lab (fun t =>
    t.get Fld.SYS_PWR_STATUS_REQ_REJECT == 1 && t.get Fld.SYS_PWR_STATUS_REJECT_CAUSE == 1 &&
    t.get Fld.SYS_PWR_CTRL_TARGET == 0 &&
    regsOnly lab t [Reg.SYS_PWR_CTRL, Reg.SYS_PWR_STATUS]) = true := by decide
theorem test_pwrRequestDormant : check (.pwrRequestDormant 3 0xA5C30003 true) lab (fun t =>
    t.get Fld.SYS_PWR_STATUS_REJECT_CAUSE == 3 && t.pwr.phase == .on) = true := by decide
theorem test_keepReached : check (.keepReached false) ((inPhase .entering).put Fld.SYS_PWR_STATUS_BOOT_READY 1)
    (fun t => t.pwr.phase == .keep && t.time == lab.time && t.mem == [] &&
      t.rd Reg.SYS_IDLE_DELAY == lab.rd Reg.SYS_IDLE_DELAY &&
      t.get Fld.SYS_PWR_STATUS_BOOT_READY == 0) = true := by decide
theorem test_keepReached_wakes : check (.keepReached true) (inPhase .entering) (fun t =>
    t.pwr.phase == .railsRise && t.get Fld.SYS_PWR_STATUS_WAKE_CAUSE == 2 &&
    t.time.now == lab.time.now) = true := by decide
theorem test_dormantReached : check (.dormantReached false)
    { lab with pwr := { lab.pwr with phase := .entering, toDormant := true } } (fun t =>
      t.pwr.phase == .dormant && resetOnly t [Reg.PAIR_STATUS]) = true := by decide
theorem test_wake : check .wake (inPhase .keep) (fun t =>
    t.pwr.phase == .railsRise && t.get Fld.SYS_PWR_STATUS_WAKE_CAUSE == 2 &&
    t.get Fld.SYS_RESET_CAUSE_CAUSE == 2 && t.mem == []) = true := by decide
theorem test_wake_dormant : check .wake (inPhase .dormant) (fun t =>
    t.pwr.phase == .softStart && t.get Fld.SYS_PWR_STATUS_WAKE_CAUSE == 1 &&
    resetOnly t [Reg.SYS_PWR_STATUS, Reg.PAIR_STATUS]) = true := by decide
theorem test_idleEntry :
    let m := toIdle
    check .idleEntry m (fun t => t.get Fld.SYS_PWR_STATUS_STATE == 1 && t.get Fld.DRAMC_STATUS_SREF == 1 &&
      bitsOnly m t [Fld.SYS_PWR_STATUS_STATE, Fld.DRAMC_STATUS_SREF]) = true := by decide
theorem test_idleEntry_early : check .idleEntry (toIdle.updDram fun d => { d with lastUse := 249999990 })
    (fun t => t == toIdle.updDram fun d => { d with lastUse := 249999990 }) = true := by decide
theorem test_railFailure_after_keep : check .railFailure (inPhase .railsRise) (fun t =>
    t.pwr.phase == .retryWait && t.pwr.railTries == 1 && t.mem == []) = true := by decide
theorem test_idleWakeAccess :
    let m := (lab.put Fld.SYS_PWR_STATUS_STATE 1).put Fld.DRAMC_STATUS_SREF 1
    check .idleWakeAccess m (fun t => t.get Fld.SYS_PWR_STATUS_STATE == 0 &&
      t.get Fld.DRAMC_STATUS_SREF == 0) = true := by decide
theorem test_fsWrittenBitsCleared : check .fsWrittenBitsCleared { atStage 0 with written := [3] } (fun t =>
    t.written == [] && t.boot.fsCleared && t.stage == 1 &&
    bitsOnly { atStage 0 with written := [], boot := t.boot, sent := [.qspi 0x13 25 0 0] } t
      [Fld.BOOT_STATUS_STAGE]) = true := by decide
theorem test_dramTrainingDone : check (.dramTrainingDone (trainedAll 30)) (atStage 0) (fun t =>
    t.boot.trained && t.get (Fld.DRAMC_CH_TRAIN_OP_TRAINED 3 3) == 15 &&
    t.get (Fld.DRAMC_CH_TRAIN_MARGIN 3 3) == 26) = true := by decide +kernel
/-- A command eye under 30 % fails. -/
theorem test_dramTrainingDone_fails : check (.dramTrainingDone (trainedAll 29)) (atStage 4) (fun t =>
    t.boot.halted && t.get Fld.BOOT_STATUS_CODE == 2 && t.get Fld.BOOT_STATUS_LANE == 31 &&
    t.get (Fld.DRAMC_CH_TRAIN_OP_TRAINED 3 3) == 7 && t.get (Fld.DRAMC_CH_TRAIN_MARGIN 3 3) == 26) = true := by
  decide +kernel
theorem test_qspiImageReadDone_blank : check (.qspiImageReadDone [0xFF, 0xFF, 0xFF, 0xFF]) (atStage 1) (fun t =>
    t.boot.halted && t.get Fld.BOOT_STATUS_CODE == 3) = true := by decide
theorem test_bootSegmentCopyDone : check .bootSegmentCopyDone (atStage 5) (fun t =>
    t.stage == 6 && t.seqState 0 == 1 && t.pcOf 0 == 0 && t.seqState 23 == 0) = true := by
  decide +kernel
theorem test_bootNoLockTimeout : check .bootNoLockTimeout (atStage 6) (fun t =>
    t.get Fld.BOOT_STATUS_CODE == 0xB && bitsOnly (atStage 6) t [Fld.BOOT_STATUS_CODE]) = true := by decide
theorem test_bootLock : check (.bootLock 3 1) (atStage 6) (fun t => t.locked && t.stage == 7 &&
    t.get Fld.SYS_PWR_STATUS_BOOT_READY == 1) = true := by decide
theorem test_i2cTelemetryRead : check (.i2cTelemetryRead 0 2 0x0123 0x4567 0) (atStage 7) (fun t =>
    decide (t.sent.length = 1)) = true := by decide
theorem test_i2cEepromRead : check (.i2cEepromRead 255 2) (atStage 7) (fun t =>
    t == (atStage 7).send (.i2c [eepromByte 0 255, eepromByte 0 0])) = true := by decide
theorem test_i2cEepromWrite : check (.i2cEepromWrite 0 [1]) (atStage 7) (fun t =>
    t == (atStage 7).send .i2cAck) = true := by decide

/-- A boot image of 0x404 bytes: one segment of `len` zero bytes for instruction RAM 0, to start at its first
word in sequencer `entry`; its key is the base point (private key 1), its signature `s` is made with the nonce 1. -/
def imageOf (entry : Byte) (len s : Nat) : List Byte :=
  let b (n k : Nat) : List Byte := toBE k n
  [0x4E, 0x56, 0x42, 0x49, 1, 0, 1, 0] ++ toLE 4 0x404 ++ List.replicate 4 0 ++ [entry] ++ List.replicate 47 0 ++
  [4] ++
  b 0xAA87CA22BE8B05378EB1C71EF320AD746E1D3B628BA79B9859F741E082542A385502F25DBF55296C3A545E3872760AB7 48 ++
  b 0x3617DE4A96262C6F5D9E98BF9292DC29F8F41DBD289A147CE9DA3113B5F0B8C00A60B1CE1D7E819D7A431D7C90EA0E5F 48 ++
  List.replicate 31 0 ++ toLE 8 0x1800000000 ++ toLE 4 len ++ toLE 4 0x400 ++ List.replicate 240 0 ++
  b 0xAA87CA22BE8B05378EB1C71EF320AD746E1D3B628BA79B9859F741E082542A385502F25DBF55296C3A545E3872760AB7 48 ++
  b s 48 ++ List.replicate 484 0

/-- An image in order, one whose segment is not whole words, one whose entry is no sequencer, and one unsigned. -/
def signedImage : List Byte := imageOf 0 4
  0xB25B5DB8E116C9FB30B1BE3648E9E1B647E59E6B8A27E0450272B8A06FE62EE948C828DF4CE8DB2302FBAF6B98E6317D
def badSegment : List Byte := imageOf 0 3
  0x220D1813BAD4FBC79E7A1E4E64A11107909CF417D79AE3004F17B5621AE7461F910DAA14BAC6B0D51E2C48CE1F3426AD
def badEntry : List Byte := imageOf 24 4
  0x250D6E5F2CD3CE7DBB336518CA467E08EE65CE96537D9C7621E4A7958787D3E1D296CDE2CD47B948070014F8C15E1AE6
def unsigned : List Byte := imageOf 0 4 0

/-- An image stands in the staging region. -/
def stagedUnit (image : List Byte) : Mach :=
  { (atStage 3).setBytes fsBase image with written := List.range 17 }

/-- The digest that the signature signs, as computed outside the model. -/
theorem test_sha384 : sha384 (signedImage.take 0x1C0 ++ signedImage.drop 0x400) =
    0x7D39396228BC4C3A1FFF71755C93441D9C86308FE8044ACA87B76BFED9204B0F3C536818D93B1B6C8A75133267026C6 := by
  decide +kernel

/-- The module that an image is staged in. -/
def stager : Mach := { atStage 3 with written := List.range 17 }

theorem stagedUnit_eq (image : List Byte) :
    stagedUnit image = { stager with mem := ((atStage 3).setBytes fsBase image).mem } := by
  rw [stagedUnit, Mach.setBytes_eq]; rfl

/-- What is staged reads back. -/
theorem staged_of (unit : Mach) (image : List Byte) (n : Nat) (size : image.length = n)
    (mem : unit.mem = ((atStage 3).setBytes fsBase image).mem) (flips : unit.flips = [])
    (own : ∀ q ∈ lineParts 0 n, unit.fsPhys q.1 = (q.1, false) ∧ unit.lineWritten q.1 = true)
    (cuts : n + 0 % 64 ≤ 64 * (n / 64 + 2)) : (unit.staged 0 n).2 = image := by
  have whole : (lineParts 0 n).flatMap (fun q => unit.bytes (fsBase + q.1) q.2) =
      unit.bytes (fsBase + 0) n := unit.cut_bytes fsBase (by decide) cuts
  have back : ((atStage 3).setBytes fsBase image).bytes fsBase image.length = image :=
    Mach.bytes_setBytes _ _ _ (by decide)
  rw [Mach.staged, Mach.fsRead, Mach.fsReads_clean flips (mstSeq 23) _ own]
  show (lineParts 0 n).flatMap (fun q => unit.bytes (fsBase + q.1) q.2) = image
  rw [whole, ← size, Nat.add_zero, Mach.bytes_congr mem]
  exact back

theorem stager_clean : stager.flips = [] := by decide

theorem stager_waits : stager.stage = 3 ∧ stager.boot.halted = false ∧ stager.boot.imageLen = some 0x404 := by
  decide

theorem staged_own : ∀ q ∈ lineParts 0 0x404, stager.fsPhys q.1 = (q.1, false) ∧
    stager.lineWritten q.1 = true := by
  simp only [Mach.fsPhys, Mach.get, Mach.rd, Mach.lineWritten]; decide

theorem test_staged (image : List Byte) (size : image.length = 0x404) :
    ((stagedUnit image).staged 0 0x404).2 = image := by
  rw [stagedUnit_eq]
  exact staged_of _ image _ size rfl stager_clean staged_own (by decide)

theorem test_signature : signatureOk signedImage = true := by decide +kernel

theorem stagedUnit_waits (image : List Byte) : (stagedUnit image).stage = 3 ∧
    (stagedUnit image).boot.halted = false ∧ (stagedUnit image).boot.imageLen = some 0x404 := by
  rw [stagedUnit_eq]; exact stager_waits

theorem witness_BootChecksAndStarts_signed :
    (stagedUnit signedImage).stage = 3 ∧ (stagedUnit signedImage).boot.halted = false ∧
    (stagedUnit signedImage).boot.imageLen = some 0x404 ∧
    signatureOk ((stagedUnit signedImage).staged 0 0x404).2 = true ∧
    segmentCheck ((stagedUnit signedImage).staged 0 0x404).2 = none := by
  rw [test_staged _ (by decide +kernel)]
  exact ⟨(stagedUnit_waits _).1, (stagedUnit_waits _).2.1, (stagedUnit_waits _).2.2, test_signature,
    by decide +kernel⟩

/-- The images that stop boot, in units that wait as above (stagedUnit_waits). -/
theorem witness_BootChecksAndStarts_stops :
    signatureOk ((stagedUnit unsigned).staged 0 0x404).2 = false ∧
    (let h := ((stagedUnit badSegment).staged 0 0x404).2
     signatureOk h = true ∧ ∃ g ∈ segmentsOf h, segmentOk (leNat ((h.drop 8).take 4)) g = false) ∧
    (let h := ((stagedUnit badEntry).staged 0 0x404).2
     signatureOk h = true ∧
     ¬ ((∃ g ∈ segmentsOf h, segmentOk (leNat ((h.drop 8).take 4)) g = false) ∨
       segmentsApart (segmentsOf h) = false) ∧ 24 ≤ leNat ((h.drop 0x10).take 1)) := by
  rw [test_staged _ (by decide +kernel), test_staged _ (by decide +kernel), test_staged _ (by decide +kernel)]
  refine ⟨by decide +kernel, ⟨by decide +kernel, ⟨0x1800000000, 3, 0x400⟩, ?_, by decide +kernel⟩,
    by decide +kernel, ?_, by decide +kernel⟩
  · have h : segmentsOf badSegment = [⟨0x1800000000, 3, 0x400⟩] := by decide +kernel
    rw [h]; exact List.mem_singleton.mpr rfl
  · have h : segmentsOf badEntry = [⟨0x1800000000, 4, 0x400⟩] := by decide +kernel
    have a : segmentsApart (segmentsOf badEntry) = true := by decide +kernel
    have k : segmentOk (leNat ((badEntry.drop 8).take 4)) ⟨0x1800000000, 4, 0x400⟩ = true := by decide +kernel
    rw [a, h]; simp [k]

/-- A header: MAGIC's last byte, the form, the length; the rest zero. -/
def headerOf (last form : Byte) (len : Nat) : List Byte :=
  [0x4E, 0x56, 0x42, last, form, 0, 1, 0] ++ toLE 4 len ++ List.replicate 1012 0

theorem header_staged (h : List Byte) (size : h.length = 0x400) :
    (((stagedUnit h).setStage 3).staged 0 0x400).2 = h := by
  have own : ∀ q ∈ lineParts 0 0x400, (stager.setStage 3).fsPhys q.1 = (q.1, false) ∧
      (stager.setStage 3).lineWritten q.1 = true := by
    simp only [Mach.fsPhys, Mach.get, Mach.rd, Mach.lineWritten]; decide
  have clean : (stager.setStage 3).flips = [] := by decide
  rw [stagedUnit_eq]
  exact staged_of _ h _ size rfl clean own (by decide)

/-- A wrong MAGIC, a wrong form, a wrong length, and a header in order but for its key's hash, which the fused
one (Config.keyHash) may or may not equal. -/
theorem witness_BootChecksAndStarts_headers :
    (((stagedUnit (headerOf 0x4A 1 0x400)).setStage 3).staged 0 0x400).2.take 4 ≠ [0x4E, 0x56, 0x42, 0x49] ∧
    (let h := (((stagedUnit (headerOf 0x49 2 0x400)).setStage 3).staged 0 0x400).2
     h.take 4 = [0x4E, 0x56, 0x42, 0x49] ∧ leNat ((h.drop 4).take 2) ≠ 1) ∧
    (let h := (((stagedUnit (headerOf 0x49 1 0x3FF)).setStage 3).staged 0 0x400).2
     h.take 4 = [0x4E, 0x56, 0x42, 0x49] ∧ leNat ((h.drop 4).take 2) = 1 ∧ leNat ((h.drop 6).take 2) = 1 ∧
     headerReserved h = true ∧ leNat ((h.drop 8).take 4) < 0x400) ∧
    (let h := (((stagedUnit (headerOf 0x49 1 0x800000)).setStage 3).staged 0 0x400).2
     h.take 4 = [0x4E, 0x56, 0x42, 0x49] ∧ leNat ((h.drop 4).take 2) = 1 ∧ leNat ((h.drop 6).take 2) = 1 ∧
     headerReserved h = true ∧ leNat ((h.drop 8).take 4) = 0x800000) := by
  rw [header_staged _ (by decide +kernel), header_staged _ (by decide +kernel), header_staged _ (by decide +kernel),
    header_staged _ (by decide +kernel)]
  decide +kernel

theorem test_railFailure : check .railFailure (inPhase .softStart) (fun t =>
    t.pwr.phase == .retryWait && t.pwr.railTries == 1) = true := by decide
theorem test_railFailure_last : check .railFailure { inPhase .softStart with
    pwr := { (inPhase .softStart).pwr with railTries := 3 } } (fun t =>
      t.pwr.phase == .off && t.pwr.railLatched) = true := by decide
theorem test_dramZeroFillDone : check .dramZeroFillDone
    { (atStage 0).setBytes 0x40 [7] with boot := { (atStage 0).boot with trained := true } } (fun t =>
      t.mem == [] && t.boot.zeroFilled) = true := by decide
theorem test_bootHostLoadGo_early : check (.bootHostLoadGo 3 0x80000404) (atStage 1) (fun t =>
    regsOnly (atStage 1) t []) = true := by decide
theorem test_bootHostLoadGo_blank : check (.bootHostLoadGo 3 0x80000404) (atStage 2) (fun t =>
    t.boot.halted && t.get Fld.BOOT_STATUS_CODE == 4) = true := by decide +kernel
/-! ### Registers, memory, host and chain -/

/-- A head with its link up, at address 0 of a chain of 3 with its DOWN port up. -/
def headUnit : Mach :=
  { ((((lab.put Fld.CHAIN_STATUS_HEAD 1).put Fld.CHAIN_STATUS_ADDR_VALID 1).put Fld.CHAIN_STATUS_DOWN_UP 1)) with
    pcie := { lab.pcie with linkUp := true }, chain := { lab.chain with routed := 3 } }

/-- A member at address 2, with both ports up. -/
def memberUnit : Mach :=
  (((lab.put Fld.CHAIN_STATUS_ADDR_VALID 1).put Fld.CHAIN_STATUS_ADDR 2).put Fld.CHAIN_STATUS_UP_UP 1).put
    Fld.CHAIN_STATUS_DOWN_UP 1

/-- DRAM runs: trained and zero-filled. -/
def dramUp : Mach := { lab with boot := { lab.boot with romStarted := true, trained := true, zeroFilled := true } }

theorem test_registerWrite : check (.registerWrite 3 0x0E 0x100 0x12345678) lab (fun t =>
    regsOnly lab t [regKey 0 0x0E 0x100]) = true := by decide
theorem test_registerWrite_denied : check (.registerWrite 0x13 0x0E 0x100 1)
    (lab.put (Fld.PROT_SLOT_RULE_RULE 0x0E) 0) (fun t => t.get Fld.PROT_VIOL_COUNT_COUNT == 1 &&
      t.get Fld.PROT_VIOL_INFO_TARGET == 0x0E && t.get Fld.PROT_VIOL_INFO_MASTER == 0x13 &&
      t.rd (regKey 0 0x0E 0x100) == lab.rd (regKey 0 0x0E 0x100)) = true := by decide
theorem test_registerWrite_locked : check (.registerWrite 3 1 4 0) (lab.put Fld.PROT_BOOT_LOCK_LOCK 1) (fun t =>
    t.get Fld.PROT_DEBUG_OPEN_OPEN == 1 && t.get Fld.PROT_VIOL_INFO_KIND == 4) = true := by decide
theorem test_memoryAccess_write : check (.memoryAccess 3 5 2 (some [7, 9]) []) dramUp (fun t =>
    t.mem == [(5, 7), (6, 9)] && t == { dramUp with mem := t.mem }) = true := by decide
theorem test_memoryAccess_read : check (.memoryAccess 3 4 4 none []) { dramUp with mem := [(5, 7), (6, 9)] }
    (fun t => t.sent == [.data 3 [0, 7, 9, 0]] && t.mem == [(5, 7), (6, 9)]) = true := by
  decide
theorem test_memoryAccess_denied_read : check (.memoryAccess 0x13 0x20000E0100 4 none [])
    (lab.put (Fld.PROT_SLOT_RULE_RULE 0x0E) 0) (fun t =>
      t.sent.any fun x => x == .data 0x13 [0xAD, 0x0B, 0xAD, 0x0B]) = true := by decide

theorem test_pcieLinkUp : check .pcieLinkUp lab (fun t => t.isHead && t.pcie.linkUp && t.chain.wasHead) =
    true := by decide +kernel
theorem test_pcieLinkUp_conflict : check .pcieLinkUp memberUnit (fun t => !t.isHead &&
    t.get Fld.CHAIN_STATUS_ROLE_CONFLICT == 1 && bitsOnly { memberUnit with pcie := t.pcie } t
      [Fld.CHAIN_STATUS_HEAD, Fld.CHAIN_STATUS_ROLE_CONFLICT]) = true := by decide +kernel
theorem test_pcieLinkDown : check (.pcieLinkDown false) headUnit (fun t => !t.isHead && !t.pcie.linkUp &&
    bitsOnly { headUnit with pcie := t.pcie } t [Fld.CHAIN_STATUS_HEAD]) = true := by decide
theorem test_pcieLinkDown_perst : check (.pcieLinkDown true) (headUnit.wr (regKey 0 0x0E 0x100) 1) (fun t =>
    !t.isHead && t.pcie.vecs == [] && t.rd (regKey 0 0x0E 0x100) == resetOf (regKey 0 0x0E 0x100)) = true := by
  decide
theorem test_pcieD3hot : check .pcieD3hot headUnit (fun t => t.pcie.d3hot &&
    t == { headUnit with pcie := t.pcie }) = true := by decide
theorem test_pcieD3hotExit : check .pcieD3hotExit { headUnit with pcie := { headUnit.pcie with d3hot := true } }
    (fun t => t == headUnit) = true := by decide +kernel
theorem test_bar0Access_absent : check (.bar0Access 0x3000000 4 none) headUnit (fun t =>
    t.get Fld.CHAIN_HOST_ERR_ABSENT == 1 && t.sent == [.hostRead [0xFF, 0xFF, 0xFF, 0xFF]]) = true := by decide
theorem test_bar0Access_remote : check (.bar0Access 0x2000100 4 none) headUnit (fun t =>
    t == headUnit.remoteRequest 2 0x2000000100 4 false none && t.chain.reads.length == 1) = true := by decide
theorem test_bar0Access_no_head : check (.bar0Access 0 4 none)
    { memberUnit with pcie := { memberUnit.pcie with linkUp := true } } (fun t =>
      t.get Fld.CHAIN_STATUS_ROLE_CONFLICT == 1 && t.sent == [.unsupported]) = true := by decide
theorem test_bar2Access :
    let m := (headUnit.put (Fld.PCIE_AP_EN 1) 1).put (Fld.PCIE_AP_MODULE 1) 2
    check (.bar2Access 0x40000004 4 none) m (fun t => t == m.remoteRequest 2 4 4 true none) = true := by decide
theorem test_msixTableAccess : check (.msixTableAccess 0x3F8 (some 0xABCD)) headUnit (fun t =>
    t.msixWord 0x3F8 == 0xABCD && t.msixWord 0x3F4 == headUnit.msixWord 0x3F4 &&
    t == { headUnit with pcie := t.pcie }) = true := by decide
theorem test_remoteRequestReceive : check (.remoteRequestReceive 5 2 0x20000F0000 4 false none) memberUnit
    (fun t => t == memberUnit.busAccess 0x02 0x20000F0000 4 none (.chain 5)) = true := by decide
theorem test_remoteRequestReceive_passed : check (.remoteRequestReceive 5 7 0 4 true none) memberUnit
    (fun t => t == memberUnit.sendChain false (.request 5 7 0 4 true none)) = true := by decide
theorem test_remoteCompletion :
    let m : Mach := { headUnit with chain := { headUnit.chain with reads := [⟨5, 1, 4, 0⟩] } }
    check (.remoteCompletion 5 [1, 2, 3, 4]) m (fun t => t == headUnit.send (.hostRead [1, 2, 3, 4])) = true := by
  decide
theorem test_remoteReadTimeout :
    let m : Mach := { headUnit with chain := { headUnit.chain with reads := [⟨5, 1, 4, 0⟩] } }
    check (.remoteReadTimeout 5) m (fun t => t.get Fld.CHAIN_HOST_ERR_TIMEOUT == 1 &&
      bitsOnly (headUnit.send (.hostRead [0xFF, 0xFF, 0xFF, 0xFF])) t [Fld.CHAIN_HOST_ERR_TIMEOUT]) = true := by
  decide
theorem test_flitReceive : check (.flitReceive false (.flit 0 false [1] (crc32c [1]))) memberUnit (fun t =>
    t.chain.down.rxNext == 1 && t.sent == [.chainDownAck 0]) = true := by decide
theorem test_flitReceive_bad : check (.flitReceive true (.flit 0 false [1] (~~~ crc32c [1]))) memberUnit (fun t =>
    t.sent == [.chainUpRefuse 0]) = true := by decide
/-- A good TIME flit is acknowledged and in sequence like any other (R70). -/
theorem test_flitReceive_time : check (.flitReceive true (.flit 0 true [1] (crc32c [1]))) memberUnit (fun t =>
    t.sent == [.chainUpAck 0]) = true := by decide
theorem test_remoteRequest_beyond : check (.remoteRequestReceive 5 2 0x10000000000 4 true none) memberUnit
    (fun t => t.get Fld.PROT_VIOL_COUNT_COUNT == 1) = true := by decide
theorem test_flitReceive_refusal :
    let m : Mach := { memberUnit with chain := { memberUnit.chain with
      down := { memberUnit.chain.down with replay := [(4, .event 3)] } } }
    check (.flitReceive false (.refusal 4)) m (fun t => t == m.send (.chainDown (.event 3))) = true := by decide
theorem test_apbudLinkUp : check (.apbudLinkUp true) lab (fun t => t.portUp true &&
    t == ((lab.put Fld.CHAIN_STATUS_UP_UP 1).raise 0xE7).takeRole) = true := by decide
theorem test_apbudLinkDown : check (.apbudLinkDown false) headUnit (fun t => !t.portUp false &&
    t == (({ headUnit.put Fld.CHAIN_STATUS_DOWN_UP 0 with
      chain := { headUnit.chain with down := ApPort.reset } } : Mach).raise 0xE7).linkChangeAt 0) = true := by decide
theorem test_linkChangeReport : check (.linkChangeReport 63) memberUnit (fun t =>
    t == memberUnit.sendChain true (.report 63)) = true := by decide
theorem test_linkChangeReport_head : check (.linkChangeReport 1) headUnit (fun t =>
    t == { headUnit with chain := { headUnit.chain with routed := 2 } }.enumStart) = true := by decide
theorem test_chainEnumStart : check (.chainEnumStart 3 1) headUnit (fun t => t.get Fld.CHAIN_STATUS_GEN == 1 &&
    t.get Fld.CHAIN_STATUS_ENUM_BUSY == 1 && t.get Fld.CHAIN_STATUS_ADDR_VALID == 1 &&
    regsOnly (headUnit.sendChain false (.token 1 1)) t [Reg.CHAIN_STATUS, Reg.CHAIN_ENUM_CTRL]) = true := by decide
theorem test_tokenReceive : check (.tokenReceive 63 7) memberUnit (fun t => t.get Fld.CHAIN_STATUS_ADDR == 63 &&
    t.get Fld.CHAIN_STATUS_GEN == 7 &&
    regsOnly ({ memberUnit with chain := { memberUnit.chain with enumPass := true } }.sendChain false (.token 64 7)) t
      [Reg.CHAIN_STATUS]) = true := by decide
theorem test_tokenReceive_overflow : check (.tokenReceive 64 7) memberUnit (fun t =>
    t.get Fld.CHAIN_STATUS_ADDR_VALID == 0 && t.get Fld.CHAIN_STATUS_OVERFLOW == 1 &&
    regsOnly (memberUnit.sendChain true (.endOf 64 true)) t [Reg.CHAIN_STATUS]) = true := by decide
theorem test_endReceive : check (.endReceive 64 true) headUnit (fun t => t.get Fld.CHAIN_STATUS_COUNT == 64 &&
    t.get Fld.CHAIN_STATUS_OVERFLOW == 1 && t.get Fld.CHAIN_STATUS_ENUM_BUSY == 0 &&
    t.chain == { headUnit.chain with routed := 64 }) = true := by decide
theorem test_eventForward : check (.eventForward 63) memberUnit (fun t =>
    t == memberUnit.sendChain true (.event 63)) = true := by decide
theorem test_eventForward_dropped : check (.eventForward 63) (lab.put Fld.CHAIN_STATUS_UP_UP 1) (fun t =>
    t.get Fld.CHAIN_HOST_ERR_EVT_DROP == 1) = true := by decide
theorem test_relayFlitReceive : check (.relayFlitReceive 5 0x1000 [1]) headUnit (fun t =>
    t == headUnit.send (.hostWrite 0x1000 [1])) = true := by decide
theorem test_relayFlitReceive_member : check (.relayFlitReceive 5 0x1000 [1]) memberUnit (fun t =>
    t == memberUnit.sendRelay true ⟨true, 5, .hostWrite 0x1000 [1]⟩) = true := by decide
theorem test_relayFlitReceive_no_link : check (.relayFlitReceive 5 0x1000 [1]) lab (fun t =>
    t.get (Fld.INGEST_HQ_DROP_COUNT 5) == 1 && bitsOnly lab t [Fld.INGEST_HQ_DROP_COUNT 5]) = true := by decide
theorem test_relayCreditTimeout :
    let m := memberUnit.updPort true fun p => { p with relayHeld := [⟨true, 5, .hostWrite 0x1000 [1]⟩], credit := false }
    check (.relayCreditTimeout true) m (fun t => t.get (Fld.INGEST_HQ_DROP_COUNT 5) == 1 &&
      bitsOnly (memberUnit.updPort true fun p => { p with credit := false }) t [Fld.INGEST_HQ_DROP_COUNT 5]) =
    true := by decide
/-- TIME goes before EVENT, EVENT before RELAY (R69). -/
theorem test_port_order :
    let p : ApPort := { ApPort.reset with ready := [.hostWrite 0 [1], .event 3, .timeRequest] }
    (p.next.map (·.1)) = some .timeRequest ∧
    (({ p with ready := [.hostWrite 0 [1], .event 3, .event 4] } : ApPort).next.map (·.1)) = some (.event 3) := by
  decide
theorem test_bar2Access_off : check (.bar2Access 0x40000004 4 none) headUnit (fun t =>
    t.get Fld.CHAIN_HOST_ERR_AP_OFF == 1 && t.sent == [.hostRead [0, 0, 0, 0]]) = true := by decide
theorem test_msixTableAccess_unmask :
    let m := headUnit.setVec 3 { MsixVec.reset with masked := true, pendingBit := true }
    check (.msixTableAccess 0x3C (some 0)) m (fun t => t.sent == [.msix 3] && !(t.vec 3).pendingBit) = true := by
  decide

theorem witness_RegisterWriteStores :
    (st lab).reaches 3 0x0E 0x100 ∧ deafReg 0x0E 0x100 = false ∧ offOk 0x100 = true ∧
    (slotOk 0x0E = true ∧ drainGate 0x0E 0x100 0 = none) ∧
    (match lab.regAt 3 0x0E 0x100 with
      | some (d, _) => (d.flds.all fun f => decide (f.lo + f.width ≤ 32)) &&
          decide (d.flds.Pairwise fun f g => f.lo + f.width ≤ g.lo ∨ g.lo + g.width ≤ f.lo)
      | none => false) = true ∧
    (∀ x ∈ [(0x03, 0x00C), (0x10, 0), (0x13, 0), (0x1A, 0x10)], (st lab).reaches 3 x.1 x.2) :=
  ⟨reaches_lab (by decide), by decide, by decide, by decide, by decide, fun _ _ => reaches_lab (by decide)⟩

theorem witness_ProtectionHolds :
    (lab.put (Fld.PROT_SLOT_RULE_RULE 0x0E) 0).regDenied 0x13 0x0E 0x100 true = some 1 ∧
    (lab.put (Fld.PROT_SLOT_RULE_RULE 0x0E) 0).regDenied 0x13 0x0E 0x100 false = some 0 ∧
    (lab.put (Fld.PROT_SLOT_RULE_RULE 0x0E) 0).hostWaits 0x13 = false ∧
    (lab.regDenied 3 0x0E 0xFFFC true = none ∧ lab.standbyDrops 3 0x0E 0xFFFC = false ∧
      (findReg 0x0E 0xFFFC).isNone = true) ∧
    (deafReg 3 0x400 = reservedSource 0 ∧ deafReg 3 (0x400 + 4 * 0xEF) = true ∧
      lab.regDenied 3 3 (0x400 + 4 * 0xEF) true = none) ∧
    lab.is Fld.PROT_VIOL_INFO_VALID = false ∧
    (lab.put Fld.PROT_VIOL_INFO_VALID 1).is Fld.PROT_VIOL_INFO_VALID = true := by decide

theorem witness_MemoryKeepsWhatIsWritten :
    dramUp.on = true ∧ mstOk 255 = true ∧ Memory.wf dramUp.mem = true ∧
    accessOk 0x6FFFFFFF8 8 (some (List.replicate 8 1)) = true ∧ accessOk 0x6FFFFFFF8 8 none = true ∧
    dramUp.memDenied 3 0x6FFFFFFF8 true = none ∧ dramUp.memDenied 3 0x6FFFFFFF8 false = none ∧
    dramUp.leaseHit 0x6FFFFFFF8 8 = none ∧ dramUp.freezing = false ∧ dramUp.mirrorFull 3 [(0x6FFFFFFF8, 8)] = false ∧
    dramUp.dramHolds = false ∧
    dramUp.flipMask 0x6FFFFFFF8 = 0 ∧ dramUp.repair.inject = none ∧ dramUp.hostWaits 3 = false ∧
    dramUp.monChannels = [] := by decide

theorem witness_PcieLinkActs :
    lab.on = true ∧ lab.portUp true = false ∧ memberUnit.portUp true = true ∧ lab.chain.wasHead = false ∧
    ({ lab with chain := { lab.chain with wasHead := true } } : Mach).chain.wasHead = true ∧
    headUnit.pcie.linkUp = true := by decide

/-- An access of the host that waits, and a masked vector with its message pending. -/
def waiting : HeldAccess := ⟨0, 0x01, 0x40, 4, none, .host, [], []⟩
def pendingVec : MsixVec := { MsixVec.reset with masked := true, pendingBit := true }

theorem witness_HostAccessesComplete :
    (headUnit.on = true ∧ headUnit.pcie.linkUp = true ∧ headUnit.pcie.d3hot = false ∧ headUnit.isHead = true ∧
      barOk 0x40000000 0xFFFFFC 4 none = true ∧ barOk 0x40000000 0x1000000 4 none = true ∧
      barOk 0x40000000 0x3FFFFFFC 4 none = true ∧ headUnit.chain.routed ≤ 0x3FFFFFFC / 0x1000000) ∧
    (barOk 0x100000000 0xFFFFFFFC 4 none = true ∧
      (headUnit.put (Fld.PCIE_AP_EN 3) 1).is (Fld.PCIE_AP_EN 3) = true ∧
      headUnit.is (Fld.PCIE_AP_EN 3) = false) ∧
    ((headUnit.updDram fun d => { d with held := [waiting] }).hostWaits 0x01 = true ∧
      headUnit.hostWaits 0x01 = false ∧ (0x3FFC : Nat) < 0x4000 ∧ (headUnit.setVec 3 pendingVec).vec 3 = pendingVec) ∧
    (memberUnit.isHead = false ∧ memberUnit.is Fld.CHAIN_STATUS_ADDR_VALID = true ∧
      memberUnit.get Fld.CHAIN_STATUS_ADDR = 2 ∧ chainOk 63 = true ∧
      remoteOk 64 none = true ∧ remoteOk 1 (some [0]) = true ∧ memberUnit.portUp false = true) ∧
    headUnit.monChannels = [] := by decide

theorem witness_FlitsAndPorts :
    memberUnit.portUp false = true ∧ memberUnit.portUp true = true ∧ memberUnit.chain.down.rxNext = 0 ∧
    memberUnit.chain.up.refusals = [] ∧ memberUnit.chain.down.passed = [] ∧
    ({ ApPort.reset with ready := [.event 3] } : ApPort).next.map (·.1) = some (.event 3) ∧
    memberUnit.isHead = false ∧ memberUnit.is Fld.CHAIN_STATUS_ADDR_VALID = true ∧
    lab.is Fld.CHAIN_STATUS_ADDR_VALID = false ∧
    headUnit.pcie.d3hot = false ∧ ({ headUnit with pcie := { headUnit.pcie with d3hot := true } } : Mach).pcie.d3hot = true ∧
    (memberUnit.apPort true).credit = true ∧
    (let m := memberUnit.updPort true fun p => { p with credit := false, relayHeld := [⟨true, 5, .event 1⟩] }
     (m.apPort true).credit = false ∧ (m.apPort true).relayHeld = [⟨true, 5, .event 1⟩]) ∧ (memberUnit.apPort false).relayHeld = [] ∧
    ((memberUnit.updPort true fun p => { p with relayHeld := [⟨true, 5, .event 1⟩] }).apPort true).relayHeld =
      [⟨true, 5, .event 1⟩] ∧
    crc32c [1] ≠ ~~~ crc32c [1] ∧ headUnit.isHead = true ∧
    headUnit.portUp false = true ∧ lab.portUp true = false ∧ headUnit.chain.reads = [] ∧ hqOk 5 = true ∧
    memberUnit.pcie.linkUp = false ∧ memberUnit.chainRoot = false ∧
    ({ headUnit with pcie := lab.pcie } : Mach).chainRoot = true := by decide

theorem witness_EnumerationRuns :
    (st headUnit).reaches 3 0x0F 4 ∧ (1 : Word).getLsbD 0 = true ∧ headUnit.isHead = true ∧
    headUnit.is Fld.CHAIN_STATUS_ENUM_BUSY = false ∧ headUnit.portUp false = true ∧
    memberUnit.isHead = false ∧ memberUnit.portUp true = true ∧ headUnit.chainRoot = true ∧
    memberUnit.chainRoot = false ∧ memberUnit.is Fld.CHAIN_STATUS_ADDR_VALID = true ∧
    (let m := lab.put Fld.CHAIN_STATUS_UP_UP 1
     m.chainRoot = false ∧ m.is Fld.CHAIN_STATUS_ADDR_VALID = false) ∧
    ((st (headUnit.put Fld.CHAIN_STATUS_DOWN_UP 0)).reaches 3 0x0F 4 ∧
      (headUnit.put Fld.CHAIN_STATUS_DOWN_UP 0).portUp false = false) ∧
    ((st memberUnit).reaches 3 0x0F 4 ∧ (st (headUnit.put Fld.CHAIN_STATUS_ENUM_BUSY 1)).reaches 3 0x0F 4) ∧
    lab.portUp true = false :=
  ⟨reaches_lab (by decide), by decide, by decide, by decide, by decide, by decide, by decide, by decide,
    by decide, by decide, by decide, ⟨reaches_lab (by decide), by decide⟩,
    ⟨reaches_lab (by decide), reaches_lab (by decide)⟩, by decide⟩

/-! ### Ethernet ingest -/

/-- Port 2 enabled, HQ1 with 16 entries; session entry 4095 selected by the debug master. -/
def portUnit : Mach :=
  ((((lab.wr (Reg.ETH_MAC_LO 2) 0x00000002).wr (Reg.ETH_MAC_HI 2) 0x0200).put (Fld.ETH_CTRL_EN 2) 1).put
    (Fld.INGEST_HQ_BASE_LO_EN 1) 1).put (Fld.INGEST_SESS_INDEX_INDEX 3) 4095

/-- An ARP request: broadcast, EtherType 0x0806 (R145), padded, with its FCS. -/
def arpBody : List Byte :=
  List.replicate 6 0xFF ++ [2, 0, 0, 0, 0, 1, 0x08, 0x06] ++ List.replicate 46 0
def arp : List Byte := arpBody ++ [0xDE, 0xB5, 0x4A, 0x54]

/-- A group frame of no class. -/
def strangeBody : List Byte := List.replicate 5 0xFF ++ [0xFD] ++ List.replicate 54 0
def strange : List Byte := strangeBody ++ [0x3F, 0xF2, 0xC7, 0x06]

/-- An RTP packet of 12 bytes in UDP and IPv4 to port 2's own address. -/
def rtpBody : List Byte :=
  [2, 0, 0, 0, 0, 2, 2, 0, 0, 0, 0, 1, 8, 0, 0x45, 0, 0, 0x28, 0, 0, 0, 0, 0, 0x11, 0xBA, 0xC6] ++
  List.replicate 8 0 ++ [0, 0, 0, 0, 0, 20, 0, 0, 0x80] ++ List.replicate 17 0
def rtpFrame : List Byte := rtpBody ++ toLE 4 0x2CE395E7

theorem fcs_rtp : fcs (rtpFrame.take 60) = 0x2CE395E7#32 := by
  rw [show rtpFrame.take 60 = rtpBody by decide]; simp [rtpBody, fcs, List.replicate, crc32Byte, crc32Bit]

/-- Session 4095 enabled on port 2. -/
def sessUnit : Mach :=
  (portUnit.put (Fld.INGEST_SESS_CTRL_EN 4095) 1).put (Fld.INGEST_SESS_CTRL_PORTS 4095) 4

theorem rtp_class (stamp : Nat) :
    sessUnit.classify 2 stamp (ethFrame (rtpFrame.take 60)) = .session 4095 (0x80 :: List.replicate 11 0) := by
  have h : ∀ k, sessUnit.sessOnAt k = sessUnit.sessOn := by
    intro k; simp [Mach.sessOnAt, show sessUnit.ingest.sessions = [] by decide]
  have e : sessUnit.classify 2 stamp (ethFrame (rtpFrame.take 60)) =
      sessUnit.classify 2 0 (ethFrame (rtpFrame.take 60)) := by
    unfold Mach.classify Mach.classIp Mach.classUdp; simp only [h]
  rw [e]; decide +kernel

theorem fcs_arp : fcs (arp.take 60) = 0x544AB5DE#32 := by
  rw [show arp.take 60 = arpBody by decide]; simp [arpBody, fcs, List.replicate, crc32Byte, crc32Bit]

theorem fcs_strange : fcs (strange.take 60) = 0x06C7F23F#32 := by
  rw [show strange.take 60 = strangeBody by decide]; simp [strangeBody, fcs, List.replicate, crc32Byte, crc32Bit]

def noEnv : RxEnv := ⟨0, 0, [], []⟩

/-- An H.264 High 10 picture set: level 5.2, 64 by 64, BT.709 limited. -/
def setH10 : SeqSet :=
  { id := 0, base := true, profile := 110, compat := [], level := 52, lumaDepth := 10, chromaDepth := 10
    chromaFormat := 1, fields := false, codedW := 64, codedH := 64, cropX := 0, cropY := 0, width := 64
    height := 64, topTid := 0, matrix := none, fullRange := false, reorder := 0 }

/-- An IDR picture of H.264 with its parameter sets: one piece without references. -/
def facts : PicFacts :=
  { nals := [⟨7, 1, false, 0, 0⟩, ⟨8, 1, false, 0, 0⟩, ⟨5, 1, false, 0, 0⟩], seqSets := [setH10]
    picSets := [⟨0, true, 0, 1, false, false⟩], jpeg := ⟨0, 0, 0, [], 8, false, 3, false⟩, picture := true, pps := 0
    arbitraryOrder := false, recovery := none, leading := false, opens := false, poc := 0, refs := [], keep := []
    pieces := [⟨0, 0, 0, 4096, 1000, 0, 64⟩], bounds := [] }

theorem test_ethFrameReceive_short : check (.ethFrameReceive 2 0 [] noEnv) portUnit (fun t =>
    t.get (Fld.ETH_RX_DROP_MALFORMED 2) == 1 && bitsOnly portUnit t [Fld.ETH_RX_DROP_MALFORMED 2]) = true := by
  decide
theorem test_ethFrameReceive_disabled : check (.ethFrameReceive 1 0 [] noEnv) portUnit (fun t => t == portUnit) =
    true := by decide
theorem test_ethLinkChange : check (.ethLinkChange 3 true true) lab (fun t =>
    t == ((lab.put (Fld.ETH_STATUS_LINK 3) 1).put (Fld.ETH_STATUS_BLOCK_LOCK 3) 1).raise 0xE3) = true := by decide
theorem test_ethSidebandChange : check (.ethSidebandChange 3 true false true) lab (fun t =>
    t.get (Fld.ETH_STATUS_MODABS 3) == 1 && t.get (Fld.ETH_STATUS_LOS 3) == 0 &&
    t.get (Fld.ETH_STATUS_TXFLT 3) == 1 && regsOnly lab t [Reg.ETH_STATUS 3]) = true := by decide
theorem test_relayPacketReceive_passed : check (.relayPacketReceive true 5 7 0 [] noEnv) memberUnit (fun t =>
    t == memberUnit.sendRelay false ⟨false, 7, .relay 5 7 0 []⟩) = true := by decide
theorem test_sessionEnable :
    let m := portUnit.put (Fld.INGEST_SESS_STATUS_DRAINED 4095) 1
    check (.sessionEnable 3 0x80000000) m (fun t => t.sessEn 4095 &&
      t.rd (Reg.INGEST_SESS_CTRL 4095) == 0x80000000 &&
      regsOnly { m with ingest := t.ingest } t [Reg.INGEST_SESS_CTRL 4095]) = true := by decide +kernel
theorem test_sessionEnable_conflict :
    let m := (portUnit.put (Fld.INGEST_SESS_STATUS_DRAINED 4095) 1).wr (Reg.INGEST_SESS_CTRL 0) 0x80000001
    check (.sessionEnable 3 0x80000001) m (fun t => !t.sessEn 4095 &&
      t.get (Fld.INGEST_SESS_STATUS_KEY_CONFLICT 4095) == 1) = true := by decide +kernel
theorem test_sessionEnable_undrained :
    let m := portUnit.put (Fld.INGEST_SESS_STATUS_DRAINED 4095) 0
    check (.sessionEnable 3 0x80000000) m (fun t => !t.sessEn 4095) = true := by decide +kernel
theorem test_sessionDisable :
    let m := portUnit.put (Fld.INGEST_SESS_CTRL_EN 4095) 1
    check (.sessionDisable 3 0) m (fun t => !t.sessEn 4095 &&
      regsOnly { m with ingest := t.ingest } t [Reg.INGEST_SESS_CTRL 4095]) = true := by decide +kernel
theorem test_sessionDrained : check (.sessionDrained 4095) (portUnit.put (Fld.INGEST_SESS_STATUS_DRAINED 4095) 0)
    (fun t => t.get (Fld.INGEST_SESS_STATUS_DRAINED 4095) == 1) = true := by decide
theorem test_sessionActiveTimeout : check (.sessionActiveTimeout 4095)
    (lab.put (Fld.INGEST_SESS_STATUS_ACTIVE 4095) 1) (fun t =>
      t.get (Fld.INGEST_SESS_STATUS_ACTIVE 4095) == 0) = true := by decide
theorem test_sessionMapWrite_range : check (.sessionMapWrite 3 0x3B9ACA00) portUnit (fun t => t == portUnit) =
    true := by decide +kernel

/-- Session 4095 with one closed unit without packets. -/
def oneUnit : Mach := portUnit.updSess 4095 fun q =>
  { q with units := [⟨0, 0, [], [], some 0, [], 0, none, none, none⟩] }

theorem test_unitLossWaitExpiry :
    let m := portUnit.updSess 4095 fun q => { q with units := [⟨0, 0, [], [], none, [], 0, none, none, none⟩] }
    check (.unitLossWaitExpiry 4095 0) m (fun t => (t.sess 4095).units.all fun u => u.closedAt.isSome) = true := by
  decide +kernel
theorem test_unitRelease : check (.unitRelease 4095 facts 0) oneUnit (fun t =>
    t.get (Fld.INGEST_SESS_CNT_COUNT 4095 5) == 1 && (t.sess 4095).units == []) = true := by decide +kernel
/-- Units of timestamps 5 and 6, numbers 100 to 102 without 101, and 103. -/
def twoUnits : Session :=
  { Session.reset with high := some 103, got := [103, 102, 100], units :=
      [⟨0, 5, [⟨100, 0, false, none, []⟩, ⟨102, 0, true, none, []⟩], [], some 0, [], 0, none, none, none⟩,
       ⟨1, 6, [⟨103, 0, true, none, []⟩], [], some 0, [], 0, none, none, none⟩] }

theorem test_unit_gap : twoUnits.units.map IngUnit.missing = [[101], []] := by decide
theorem test_unit_is_a_run :
    (twoUnits.units.map (twoUnits.holds 5 101), twoUnits.units.map (twoUnits.holds 5 104)) =
      ([true, false], [false, false]) := by decide
theorem test_liveness_low_bits : (livenessOf [0x10, 4, 0, 55]).map (fun l => liveAlive l.word) = some 7 := by decide
theorem test_hq5ProdWrite :
    let m := lab.put (Fld.INGEST_HQ_BASE_LO_EN 5) 1
    check (.hq5ProdWrite 3 0x00010000 [List.replicate 32 7]) m (fun t => t.get Fld.INGEST_HQ5_PTR_PROD == 1 &&
      t.ingest.tx == [(0, some (List.replicate 32 7))] &&
      regsOnly { m with ingest := t.ingest } t [Reg.INGEST_HQ5_PTR]) = true := by decide +kernel
theorem test_hostqTransmitDone :
    let e : List Byte := [14, 0, 3, 0, 0, 0] ++ List.replicate 40 0
    let m : Mach := { headUnit with ingest := { lab.ingest with tx := [(0, none)] } }
    check (.hostqTransmitDone ⟨0, e⟩) m (fun t => t.ingest.tx == [] && t.get Fld.INGEST_HQ5_PTR_CONS == 1) = true := by
  decide +kernel

theorem witness_FramesAreSorted :
    portUnit.is (Fld.ETH_CTRL_EN 2) = true ∧ envOk noEnv = true ∧ arp.length = 64 ∧
    leNat (arp.drop 60) = (fcs (arp.take 60)).toNat ∧ be (arp.take 60) 12 2 ≠ 0x8808 ∧
    portUnit.classify 2 0 (ethFrame (arp.take 60)) = .hostQueue 1 0xFFFF ∧
    (leNat (rtpFrame.drop 60) = (fcs (rtpFrame.take 60)).toNat ∧
      sessUnit.classify 2 (sessUnit.rxStamp 2 0) (ethFrame (rtpFrame.take 60)) =
        .session 4095 (0x80 :: List.replicate 11 0) ∧ sessUnit.sessGone 4095 (sessUnit.rxStamp 2 0) = false) ∧
    leNat (strange.drop 60) = (fcs (strange.take 60)).toNat ∧ be (strange.take 60) 12 2 ≠ 0x8808 ∧
    portUnit.classify 2 0 (ethFrame (strange.take 60)) = .unmatched ∧
    leNat ((arpBody ++ [0, 0, 0, 0]).drop 60) ≠ (fcs (arp.take 60)).toNat := by
  refine ⟨by decide, by decide, by decide, ?_, by decide, by decide, ⟨?_, rtp_class _, rfl⟩, ?_, by decide, by decide, ?_⟩ <;>
    first | (rw [fcs_arp]; decide) | (rw [fcs_strange]; decide) | (rw [fcs_rtp]; decide)

theorem witness_FramesAreSorted_gone :
    let m := sessUnit.updSess 4095 fun q => { q with cleared := some (sessUnit.rxStamp 2 0 + 1) }
    m.sessGone 4095 (m.rxStamp 2 0) = true := by
  intro m
  have h : m.rxStamp 2 0 = sessUnit.rxStamp 2 0 := rfl
  have c : (m.sess 4095).cleared = some (sessUnit.rxStamp 2 0 + 1) := rfl
  simp [Mach.sessGone, c, h]

theorem witness_UnitsAreReleased :
    sessOk 4095 = true ∧ chainOk 63 = true ∧
    (let m := (memberUnit.put (Fld.INGEST_SESS_CTRL_EN 4095) 1).put (Fld.INGEST_SESS_CTRL_KIND 4095) 1
     m.is Fld.CHAIN_STATUS_ADDR_VALID = true ∧ m.get Fld.CHAIN_STATUS_ADDR = 2 ∧
     m.enumerating = false ∧ m.sessEn 4095 = true ∧
     m.is (Fld.INGEST_SESS_CTRL_KIND 4095) = true ∧ m.sessGone 4095 0 = false ∧
     m.get Fld.CHAIN_STATUS_ADDR ≠ 3 ∧ m.portUp true = true) ∧
    oneUnit.frozen = false ∧ ((oneUnit.sess 4095).units = [⟨0, 0, [], [], some 0, [], 0, none, none, none⟩]) ∧
    oneUnit.is (Fld.INGEST_SESS_CTRL_CHASE 4095) = false ∧
    (oneUnit.put Fld.DRAMC_STATUS_FROZEN 1).frozen = true := by decide

theorem witness_PortsAndQueuesReport :
    lab.is (Fld.ETH_STATUS_LINK 3) = false ∧ (lab.put (Fld.ETH_STATUS_LINK 3) 1).is (Fld.ETH_STATUS_LINK 3) = true ∧
    (st (lab.put (Fld.INGEST_HQ_BASE_LO_EN 5) 1)).reaches 3 0x14 0x258 ∧
    (lab.put (Fld.INGEST_HQ_BASE_LO_EN 5) 1).is (Fld.INGEST_HQ_BASE_LO_EN 5) = true ∧
    bitsOf (0x00010000 : Word).toNat 16 16 = (lab.get Fld.INGEST_HQ5_PTR_PROD + 1) % lab.hqEntries 5 :=
  ⟨by decide, by decide, reaches_lab (by decide), by decide, by decide⟩

theorem witness_PortsAndQueuesReport_sent :
    let e : List Byte := [14, 0, 3, 0, 0, 0] ++ List.replicate 26 0
    headUnit.hostReaches = true ∧ e.length = 32 ∧ byteAt e 2 < 4 ∧ leNat (e.take 2) = 14 ∧ byteAt e 5 % 2 = 0 ∧
    (∀ h ∈ [none, some e], e = h.getD e) := by decide

theorem witness_SessionsComeAndGo :
    (st portUnit).reaches 3 0x14 0x1000 ∧ (st portUnit).reaches 3 0x14 0x1048 ∧
    portUnit.get (Fld.INGEST_SESS_INDEX_INDEX 3) = 4095 ∧ portUnit.sessEn 4095 = false ∧
    (portUnit.put (Fld.INGEST_SESS_CTRL_EN 4095) 1).sessEn 4095 = true ∧
    (∀ k ∈ [0, 1], (portUnit.put (Fld.INGEST_SESS_STATUS_DRAINED 4095) k).is
      (Fld.INGEST_SESS_STATUS_DRAINED 4095) = (k == 1)) ∧
    bitsOf (0x3B9AC9FF : Word).toNat 0 30 < 1000000000 ∧ 1000000000 ≤ bitsOf (0x3B9ACA00 : Word).toNat 0 30 :=
  ⟨reaches_lab (by decide), reaches_lab (by decide), by decide, by decide, by decide, by decide, by decide,
    by decide⟩

/-! ### The decode fabric -/

def aUnit : UnitInfo := ⟨4095, 0, 0, 0, 0, false, false, false, 0⟩

/-- The coded picture that `facts` holds, whole. -/
def coded : CodedPic := codedOf 0 setH10 ⟨0, true, 0, 1, false, false⟩ facts false

/-- A partition of 32 rows. -/
def aPart (i : Nat) (st : PartState) : DecPart :=
  { idx := i, work := 300, samples := 2048, top := 32 * i, rows := 32, follows := false, rest := none
    cell := none, chase := false, lastPacket := 0, deadline := 0, st := st, ended := 0 }

/-- A picture in decode with two partitions, in descriptor 16383 of stream 2047. -/
def twoParts (a b : PartState) : DecPic :=
  { desc := 16383, facts := coded, parts := [aPart 0 a, aPart 1 b], bounds := [(0, 1)]
    impaired := false, concealed := false, chase := false, closed := true, taker := 0, ends := false, subst := []
    nearRef := none, lost := [], written := [], filtered := [] }

def aPicture : Picture :=
  { serial := 0, unit := aUnit, chroma := .c420, tenBits := false, codedW := 64, codedH := 64, cropX := 0
    cropY := 0, width := 64, height := 64, preset := 0, jpeg := false, seqNo := 0, poc := 0, stale := false
    abandoned := false, readyAt := 0
    frozenAlive := false, frozenSig := false, queued := 0, deadline := 0, front := 0, firstFinal := 0, firstRows := 0
    lastFinal := 0 }

/-- The fabric and cell 1 enabled, stream 2047 enabled with the picture in decode. -/
def fabric (p : DecPic) : Mach :=
  let m := ((lab.put Fld.DECSCHED_CTRL_EN 1).put (Fld.DEC_CTRL_EN 1) 1).put (Fld.DECSCHED_STREAM_CTRL_EN 2047) 1
  let m := (m.put (Fld.DECSCHED_DESC_STATE_STATE 16383) dFilling).put (Fld.DECSCHED_DESC_STATE_STREAM 16383) 2047
  let m := m.updStrm 2047 fun s => { s with cur := some p }
  { m with decode := { m.decode with pics := [(16383, aPicture)] } }

/-- Cell 1 works on partition 0. -/
def decoding : Mach :=
  (fabric (twoParts (.running 1) .waiting)).updCell 1 fun r =>
    { r with cur := some (2047, 0), holds := some 2047, busyFrom := some 0 }

/-- The decode stream 2047 and the descriptor 16383 are selected by the debug master. -/
def selecting (m : Mach) : Mach :=
  (m.put (Fld.DECSCHED_STREAM_INDEX_INDEX 3) 2047).put (Fld.DECSCHED_DESC_INDEX_INDEX 3) 16383

/-- The codes of R174 and R176 for H.264. -/
theorem test_set_codes :
    lab.setCodes 0 setH10 = [] ∧ lab.setCodes 0 { setH10 with level := 60 } = [0x0C] ∧
    lab.setCodes 0 { setH10 with fields := true } = [0x01] ∧
    lab.setCodes 0 { setH10 with profile := 83 } = [0x02] ∧
    lab.setCodes 0 { setH10 with profile := 100 } = [0x0B] ∧
    lab.setCodes 0 { setH10 with width := 8208 } = [0x0D] := by decide
/-- Slices become partitions (R182), rows follow with wavefronts, and eight restart intervals go together. -/
theorem test_cut :
    let piece (i : Nat) : PieceFacts := ⟨i, 0, i, 64, 8, 16 * i, 16⟩
    let f := { facts with pieces := (List.range 9).map piece }
    let one := { facts with pieces := (List.range 9).map fun i => { piece i with slice := 0 } }
    let j := { one with jpeg := { facts.jpeg with restarts := true } }
    (cutParts 0 ⟨0, true, 0, 1, false, false⟩ f false).length = 9 ∧
    (cutParts 0 ⟨0, true, 0, 1, false, false⟩ f true).length = 1 ∧
    (cutParts 1 ⟨0, true, 0, 1, false, true⟩ one false).map (·.follows) = false :: List.replicate 8 true ∧
    (cutParts 2 ⟨0, true, 0, 1, false, false⟩ j false).map (·.samples) = [512, 64] := by decide
theorem test_cellChoose : check (.cellChoose 1 [(2047, 0), (2047, 1)]) (fabric (twoParts .waiting .waiting)) (fun t =>
    (t.cell 1).cur.isSome && ((t.strm 2047).cur.any fun p => p.parts.any fun q => q.st == .running 1) &&
    t.get (Fld.DEC_CNT_STEAL_COUNT 1) == 1) = true := by decide +kernel
theorem test_contextLoadDone :
    let m := decoding.updCell 1 fun r => { r with loading := some 2047, holds := none }
    check (.contextLoadDone 1) m (fun t => (t.cell 1).loading.isNone && (t.cell 1).holds == some 2047 &&
      t.get (Fld.DEC_CNT_SWITCH_COUNT 1) == 1) = true := by decide +kernel
theorem test_partitionDone : check (.partitionDone 1 ⟨16, []⟩ []) decoding (fun t => (t.cell 1).cur.isNone &&
    t.get (Fld.DEC_CNT_PART_COUNT 1) == 1) = true := by decide +kernel
theorem test_partitionDone_concealed : check (.partitionDone 1 ⟨16, []⟩ [⟨0, 0, 64, 32⟩]) decoding (fun t =>
    t.get (Fld.DECSCHED_DESC_STATE_IMPAIRED 16383) == 1) = true := by decide +kernel
theorem test_partitionTimeout : check (.partitionTimeout 1 ⟨⟨16, []⟩, [⟨0, 0, 64, 32⟩]⟩) decoding (fun t =>
    t.get (Fld.DEC_CNT_TIMEOUT_COUNT 1) == 1 && (t.cell 1).cur.isNone) = true := by decide +kernel
theorem test_partitionEnded : check (.partitionEnded 1 10 10 ⟨8, []⟩)
    (decoding.updCell 1 fun r => { r with preempt := some 2047 }) (fun t =>
      (t.strm 2047).cur.any fun p => p.parts.length == 3) = true := by decide +kernel
theorem test_boundaryFilterDone : check (.boundaryFilterDone 16383 0 1 ⟨8, []⟩) (fabric (twoParts .done .done)) (fun t =>
    (t.strm 2047).cur.any fun p => p.bounds == []) = true := by decide +kernel
theorem test_streamEnable :
    let m := selecting lab
    check (.streamEnable 3 0x80000000) m (fun t => t.streamEn 2047 &&
      t.get (Fld.DECSCHED_STREAM_STATUS_STATE 2047) == stWaitRap &&
      regsOnly { m with decode := t.decode } t
        [Reg.DECSCHED_STREAM_CTRL 2047, Reg.DECSCHED_STREAM_STATUS 2047]) = true := by decide +kernel
theorem test_streamDisable : check (.streamDisable 3 0) (selecting decoding) (fun t => !t.streamEn 2047 &&
    (t.strm 2047).cur.isNone && t.get (Fld.DECSCHED_STREAM_STATUS_STATE 2047) == stStopped) = true := by
  decide +kernel
theorem test_streamDrained : check (.streamDrained 2047) (lab.put (Fld.DECSCHED_STREAM_STATUS_DRAINED 2047) 0)
    (fun t => t.get (Fld.DECSCHED_STREAM_STATUS_DRAINED 2047) == 1 &&
      bitsOnly { lab with decode := t.decode } t [Fld.DECSCHED_STREAM_STATUS_DRAINED 2047]) = true := by
  decide +kernel
theorem test_descKeepSet : check (.descKeepSet 3 2) (selecting lab) (fun t =>
    t.get (Fld.DECSCHED_DESC_STATE_KEEP 16383) == 1 &&
    bitsOnly (selecting lab) t [Fld.DECSCHED_DESC_STATE_KEEP 16383]) = true := by decide +kernel
theorem test_descKeepClr : check (.descKeepClr 3 4) ((selecting lab).put (Fld.DECSCHED_DESC_STATE_KEEP 16383) 1)
    (fun t => t.get (Fld.DECSCHED_DESC_STATE_KEEP 16383) == 0) = true := by decide +kernel
theorem test_descFree : check (.descFree 3 1) ((selecting lab).put (Fld.DECSCHED_DESC_STATE_STATE 16383) dReady)
    (fun t => t.descState 16383 == dFree && t.decode.retire == [16383]) = true := by decide +kernel
theorem test_descFree_filling : check (.descFree 3 1)
    ((selecting lab).put (Fld.DECSCHED_DESC_STATE_STATE 16383) dFilling) (fun t =>
      t.descState 16383 == dFilling && t.get Fld.DECSCHED_STATUS_CMD_REJECT == 1) = true := by decide +kernel
theorem test_decschedRetireRead :
    let m : Mach := { lab with decode := { lab.decode with retire := [16383, 4] } }
    check (.decschedRetireRead 3) m (fun t => t.decode.retire == [4] &&
      t.sent == [.data 3 [0xFF, 0x3F, 0x00, 0x80]]) = true := by decide +kernel
theorem test_fabricEnable : check (.fabricEnable 3 1) lab (fun t => t.get Fld.DECSCHED_CTRL_EN == 1 &&
    regsOnly lab t [Reg.DECSCHED_CTRL]) = true := by decide +kernel
theorem test_fabricDisable : check (.fabricDisable 3 0) (lab.put Fld.DECSCHED_CTRL_EN 1) (fun t =>
    t.get Fld.DECSCHED_CTRL_EN == 0) = true := by decide +kernel
theorem test_decCellDisable : check (.decCellDisable 3 63 0) (lab.put (Fld.DEC_CTRL_EN 63) 1) (fun t =>
    t.get (Fld.DEC_CTRL_EN 63) == 0 && regsOnly lab t [Reg.DEC_CTRL 63]) = true := by decide +kernel

/-- Cell 1 waits for the context of stream 2047, with errors at places of DRAM, which runs. -/
def contextUnit (flips : List (Nat × Nat)) : Mach :=
  { decoding.updCell 1 fun r => { r with loading := some 2047, holds := none } with
    flips := flips
    boot := { lab.boot with romStarted := true, trained := true, zeroFilled := true } }

theorem witness_CellsDecode :
    (let m := fabric (twoParts .waiting .waiting)
     decOk 63 = true ∧ m.frozen = false ∧ m.mayChoose 1 = true ∧
     (m.choice 1 [(2047, 0), (2047, 1)]).any (fun a => a.strm == 2047 && a.part == some 0) = true ∧
     (m.strm 2047).cur = some (twoParts .waiting .waiting)) ∧
    (let m := (fabric (twoParts .done .done)).updStrm 2047 fun s =>
       { s with cur := none, jobs := [⟨aUnit, coded, false, false, false, 0, 0, 0, 0⟩] }
     m.mayChoose 1 = true ∧ (m.choice 1 []).any (fun a => a.strm == 2047 && a.part.isNone) = true) ∧
    ((contextUnit []).cell 1).loading = some 2047 ∧
    ((contextUnit []).memScan (mstDec 1) ((contextUnit []).ctxAddr 2047) 0x10000).frozen = false ∧
    ((contextUnit [(0x7FFFFF8, 3)]).frozen = false ∧
      ((contextUnit [(0x7FFFFF8, 3)]).memScan (mstDec 1) ((contextUnit [(0x7FFFFF8, 3)]).ctxAddr 2047) 0x10000).frozen =
        true) ∧
    (let m := decoding.updStrm 2047 fun s => { s with cur := none }
     (m.cell 1).cur = some (2047, 0) ∧ (m.cell 1).loading ≠ some 2047 ∧ (m.strm 2047).cur = none) ∧
    frontOk ⟨16, []⟩ = true ∧
    ((decoding.cell 1).cur = some (2047, 0) ∧ (decoding.cell 1).loading ≠ some 2047 ∧
      (decoding.strm 2047).cur = some (twoParts (.running 1) .waiting)) ∧
    (lab.cell 1).cur = none := by decide +kernel

theorem witness_PicturesFinish :
    (let m := decoding.updCell 1 fun r => { r with preempt := some 2047 }
     (m.cell 1).cur = some (2047, 0) ∧ (m.cell 1).preempt = some 2047 ∧ m.frozen = false ∧ descOk 16383 = true) ∧
    (let m := fabric (twoParts .done .done)
     m.descStream 16383 = 2047 ∧ (m.strm 2047).finishing = [] ∧ (m.strm 2047).cur = some (twoParts .done .done) ∧
     (twoParts .done .done).desc = 16383 ∧ (twoParts .done .done).bounds = [(0, 1)] ∧
     (∀ k ∈ [0, 1], (twoParts .done .done).whole k = true) ∧
     (twoParts .done .done).part 0 = some (aPart 0 .done) ∧ (twoParts .done .done).part 1 = some (aPart 1 .done) ∧
     ∀ k ∈ [0, 1], (aPart k .done).rest = none) ∧
    (let f := { twoParts .done .done with bounds := [] }
     let m := (fabric f).updStrm 2047 fun s => { s with cur := none, finishing := [f] }
     (m.strm 2047).finishing = [f] ∧ f.ends = false ∧ f.bounds = [] ∧ m.pic 16383 = some aPicture ∧
       aPicture.seqNo = (m.strm 2047).seqNo) := by decide +kernel

theorem witness_StreamsComeAndGo :
    (st (selecting lab)).reaches 3 0x1B 0x104 ∧ (selecting lab).get (Fld.DECSCHED_STREAM_INDEX_INDEX 3) = 2047 ∧
    (selecting lab).streamEn 2047 = false ∧ (selecting lab).is (Fld.DECSCHED_STREAM_STATUS_DRAINED 2047) = true ∧
    (selecting lab).streamConflict 2047 = false ∧
    (let m := ((selecting lab).put (Fld.DECSCHED_STREAM_DESC_FIRST 2047) 16383).put
       (Fld.DECSCHED_STREAM_DESC_COUNT 2047) 2
     m.streamConflict 2047 = true) ∧
    (decoding.streamEn 2047 = true ∧ (0xF801F000 : Word).getLsbD 31 = true ∧
      ((0x7801F000 : Word) ^^^ decoding.rd (Reg.DECSCHED_STREAM_CTRL 2047)) &&& 0x07FE0FFF = 0 ∧
      (0x7801F000 : Word).getLsbD 31 = false ∧ (st (selecting decoding)).reaches 3 0x1B 0x104) ∧
    (let m := lab.put (Fld.DECSCHED_STREAM_STATUS_DRAINED 2047) 0
     m.is (Fld.DECSCHED_STREAM_STATUS_DRAINED 2047) = false ∧ m.streamBusy 2047 = false ∧
     (m.strm 2047).leaving = []) :=
  ⟨reaches_lab (by decide), by decide, by decide, by decide, by decide, by decide,
    ⟨by decide, by decide, by decide, by decide, reaches_lab (by decide)⟩, by decide⟩

theorem witness_DescriptorsObey :
    (st (selecting lab)).reaches 3 0x1B 0x224 ∧ (selecting lab).get (Fld.DECSCHED_DESC_INDEX_INDEX 3) = 16383 ∧
    (∀ k ∈ [dReady, dFilling], ((selecting lab).put (Fld.DECSCHED_DESC_STATE_STATE 16383) k).descState 16383 = k) ∧
    (selecting lab).is (Fld.DECSCHED_DESC_STATE_REF 16383) = false ∧
    ((selecting lab).put (Fld.DECSCHED_DESC_STATE_REF 16383) 1).is (Fld.DECSCHED_DESC_STATE_REF 16383) = true ∧
    (∀ k ∈ [1, 2, 3, 4, 5, 6, 7], bitsOf (BitVec.ofNat 32 k : Word).toNat 0 3 = k) ∧
    (st ({ lab with decode := { lab.decode with retire := [16383] } } : Mach)).shows 3 0x1B 0x028 ∧
    (st lab).reaches 3 0x1B 0 ∧ (st lab).reaches 3 (0x20 + 63) 0 :=
  ⟨reaches_lab (by decide), by decide, by decide, by decide, by decide, by decide, shows_lab (by decide), reaches_lab (by decide),
    reaches_lab (by decide)⟩

/-! ### Heads, layers, links -/

/-- Head `h` set to 640 × 480 at 60 Hz: 800 × 525 in all. -/
def raster (h : Nat) : Mach :=
  let m := (lab.wr (Reg.HEAD_HTIME_A h) (BitVec.ofNat 32 (640 * 0x10000 + 16))).wr (Reg.HEAD_HTIME_B h)
    (BitVec.ofNat 32 (96 * 0x10000 + 48))
  let m := (m.wr (Reg.HEAD_VTIME_A h) (BitVec.ofNat 32 (480 * 0x10000 + 10))).wr (Reg.HEAD_VTIME_B h)
    (BitVec.ofNat 32 (2 * 0x10000 + 33))
  let m := (m.put (Fld.HEAD_FRATE_FR_NUM h) 60).put (Fld.HEAD_FRATE_FR_DEN h) 1
  let m := (m.put (Fld.HEAD_SLATE_ADDR_EN h) 0).put (Fld.HEAD_FS_ADDR_EN h) 0
  if h < 16 then (m.put (Fld.HEAD_DP_CTRL_RATE h) 1).put (Fld.HEAD_DP_CTRL_LANES h) 2
  else m.put (Fld.HEAD_DSI_CTRL_LANE_RATE h) 1000

/-- Head `h` scans line `y`. -/
def scan (h y : Nat) : Mach :=
  (((raster h).put (Fld.HEAD_CTRL_EN h) 1).put (Fld.HEAD_STATUS_SCANNING h) 1).updHead h fun r =>
    { r with line := y, vtot := 525 }

def noLine : LineEnv := ⟨none, 0, 0, 0, false, []⟩

/-- A line at which one picture's rows are final to row 16. -/
def oneFront : LineEnv := ⟨none, 0, 0, 0, false, [(0, ⟨16, []⟩)]⟩

theorem test_headEnable : check (.headEnable 3 15 0x80000000) (raster 15) (fun t =>
    t.is (Fld.HEAD_CTRL_EN 15) && t.get (Fld.HEAD_PIPE_DELAY_DELAY 15) == 1965 &&
    (t.head 15).target.isSome && regsOnly { raster 15 with heads := t.heads } t
      [Reg.HEAD_CTRL 15, Reg.HEAD_STATUS 15, Reg.HEAD_PIPE_DELAY 15]) = true := by decide +kernel
theorem test_headEnable_rejected : check (.headEnable 3 15 0x80000000) lab (fun t =>
    !t.is (Fld.HEAD_CTRL_EN 15) && t.get (Fld.HEAD_STATUS_TIMING_REJECT 15) == 1 &&
    t.get (Fld.HEAD_STATUS_TIMING_CAUSE 15) == 1) = true := by decide +kernel
theorem test_headDisable : check (.headDisable 3 15 0) (scan 15 7) (fun t => !t.is (Fld.HEAD_CTRL_EN 15) &&
    t.scanning 15 && regsOnly (scan 15 7) t [Reg.HEAD_CTRL 15]) = true := by decide +kernel
theorem test_headSlateForce : check (.headSlateForce 3 15 0x40000000) (raster 15) (fun t =>
    t.get (Fld.HEAD_CTRL_SLATE_FORCE 15) == 1 && regsOnly (raster 15) t [Reg.HEAD_CTRL 15]) = true := by
  decide +kernel
/-- Head 15 is enabled, and its start is due. -/
def starting : Mach := ((raster 15).put (Fld.HEAD_CTRL_EN 15) 1).updHead 15 fun r => { r with target := some 0 }

theorem test_headStart : check (.headStart 15 noLine) starting (fun t =>
    t.scanning 15 && (t.head 15).line == 480 && (t.head 15).vtot == 525) = true := by decide +kernel
theorem test_headLineStart : check (.headLineStart 15 noLine) (scan 15 490) (fun t => (t.head 15).line == 491) =
    true := by decide +kernel
theorem test_headLineStart_wraps : check (.headLineStart 15 noLine) (scan 15 524) (fun t =>
    (t.head 15).line == 0 && (t.head 15).frames == 1) = true := by decide +kernel
theorem test_frameDone :
    let m := lab.updHead 15 fun r => { r with result := some ⟨0xABCD, [], 0, none, false⟩ }
    check (.frameDone 15) m (fun t => t.get (Fld.HEAD_FRAME_CRC_CRC 15) == 0xABCD &&
      (t.head 15).result.isNone) = true := by decide +kernel
theorem test_change_window :
    let r : FrameResult := ⟨0, [(2, 3, 0, 0)], 0, none, false⟩
    let m := lab.updHead 15 fun x => { x with computed := [2] }
    (lab.mismatches 15 r, m.mismatches 15 r) = ([], [2]) := by decide +kernel
theorem test_layer_pool_free : lab.showPool.get Fld.LAYERPOOL_STATUS_FREE = 384 := by decide
theorem test_headCommit : check (.headCommit 3 15 0x12340001) (scan 15 7) (fun t =>
    t.get (Fld.HEAD_STATUS_COMMIT_PENDING 15) == 1 && (t.head 15).commitHead && (t.head 15).tag == 0x1234 &&
    regsOnly { scan 15 7 with heads := t.heads } t [Reg.HEAD_STATUS 15]) = true := by decide +kernel
theorem test_layerpoolCommit : check (.layerpoolCommit 3 0x00080001) lab (fun t =>
    (t.head 0).commitLayers && (t.head 19).commitLayers && t.head 7 == lab.head 7 &&
    regsOnly { lab with heads := t.heads } t [Reg.HEAD_STATUS 0, Reg.HEAD_STATUS 19]) = true := by decide +kernel
theorem test_freshCommit : check (.freshCommit 3 0x00080001) lab (fun t =>
    (t.head 0).commitFresh && (t.head 19).commitFresh && t.head 7 == lab.head 7) = true := by decide +kernel
theorem test_layerAssign : check (.layerAssign 3 383 0x80000013) lab (fun t => t.owner 383 == 19 &&
    t.is (Fld.LAYER_OWN_ASSIGNED 383) && regsOnly lab t [Reg.LAYER_OWN 383]) = true := by decide +kernel
theorem test_layerAssign_refused : check (.layerAssign 3 383 0x80000014) lab (fun t =>
    t.get Fld.LAYERPOOL_STATUS_OWN_REFUSED == 1 && bitsOnly lab t [Fld.LAYERPOOL_STATUS_OWN_REFUSED]) = true := by
  decide +kernel
theorem test_leaseEndedRead :
    let m : Mach := { lab with leases := { lab.leases with ended := [(19, 383, 1)] } }
    check (.leaseEndedRead 3) m (fun t => t.leases.ended == [] && t.sent == [.data 3 [0x7F, 0x01, 0x38, 0x81]]) =
      true := by decide +kernel
theorem test_dpTrain : check (.dpTrain 3 15 0x80000021) lab (fun t =>
    t.get (Fld.HEAD_DP_STATUS_TRAIN_BUSY 15) == 1 && t.get (Fld.HEAD_DP_CTRL_LANES 15) == 2 &&
    t.get (Fld.HEAD_DP_CTRL_RATE 15) == 1 &&
    regsOnly lab t [Reg.HEAD_DP_CTRL 15, Reg.HEAD_DP_STATUS 15, Reg.HEAD_STATUS 15]) = true := by decide +kernel
theorem test_dpTrainDone : check (.dpTrainDone 15 true ⟨1, 2⟩ ⟨2, 2⟩ true false)
    ((raster 15).put (Fld.HEAD_DP_STATUS_TRAIN_BUSY 15) 1) (fun t => t.get (Fld.HEAD_DP_STATUS_TRAINED 15) == 1 &&
      t.get (Fld.HEAD_DP_STATUS_RATE_ACT 15) == 1 && t.get (Fld.HEAD_DP_STATUS_LANES_ACT 15) == 2 &&
      t.get (Fld.HEAD_DP_STATUS_PSR_CAP 15) == 1 && t.get (Fld.HEAD_DP_STATUS_TRAIN_BUSY 15) == 0) = true := by
  decide +kernel
theorem test_dpUnplug : check (.dpUnplug 15) lab (fun t => t.get (Fld.HEAD_DP_STATUS_UNPLUG 15) == 1 &&
    t.get (Fld.HEAD_DP_STATUS_HPD 15) == 0 && (t.head 15).unplugged &&
    regsOnly { lab with heads := t.heads } t [Reg.HEAD_DP_STATUS 15, Reg.HEAD_STATUS 15]) = true := by
  decide +kernel
theorem test_dpReplug : check (.dpReplug 15) ((lab.put (Fld.HEAD_DP_CTRL_AUTO_RETRAIN 15) 1).updHead 15 fun r =>
    { r with unplugged := true }) (fun t => t.get (Fld.HEAD_DP_STATUS_HPD 15) == 1 &&
      t.get (Fld.HEAD_DP_STATUS_TRAIN_BUSY 15) == 1) = true := by decide +kernel
theorem test_dpIrqHpd : check (.dpIrqHpd 15 true) lab (fun t => t.get (Fld.HEAD_DP_STATUS_IRQ_HPD 15) == 1 &&
    t.is (Fld.HEAD_DP_STATUS_TRAIN_BUSY 15) == lab.is (Fld.HEAD_DP_CTRL_AUTO_RETRAIN 15)) = true := by decide +kernel

/-- DATA0 of head 15 holds four bytes. -/
def auxUnit : Mach := lab.wr (Reg.HEAD_AUX_DATA 15 0) 0x04030201

theorem test_auxNativeWrite : check (.auxNativeWrite 3 15 0x88112345) auxUnit (fun t =>
    t.sent == [.aux 15 8 0x12345 2 [1, 2]] && t.get (Fld.HEAD_AUX_STATUS_BUSY 15) == 1) = true := by decide +kernel
theorem test_auxNativeRead : check (.auxNativeRead 3 15 0x89F12345) auxUnit (fun t =>
    t.sent == [.aux 15 9 0x12345 16 []]) = true := by decide +kernel
theorem test_auxI2cWrite : check (.auxI2cWrite 3 15 0x84000050) auxUnit (fun t =>
    t.sent == [.aux 15 4 0x50 1 [1]]) = true := by decide +kernel
theorem test_auxI2cRead : check (.auxI2cRead 3 15 0x85000050) auxUnit (fun t =>
    t.sent == [.aux 15 5 0x50 1 []]) = true := by decide +kernel

/-- An AUX read is open on head 15. -/
def auxBusy : Mach := (lab.put (Fld.HEAD_AUX_STATUS_BUSY 15) 1).put (Fld.HEAD_AUX_CTRL_CMD 15) 9

theorem test_auxReply : check (.auxReply 15 0 2 [7, 9]) auxBusy (fun t =>
    t.get (Fld.HEAD_AUX_STATUS_DONE 15) == 1 && t.get (Fld.HEAD_AUX_STATUS_REPLY 15) == 0 &&
    t.get (Fld.HEAD_AUX_STATUS_COUNT 15) == 2 && bitsOf (t.rd (Reg.HEAD_AUX_DATA 15 0)).toNat 0 16 == 0x0907) =
    true := by decide +kernel
theorem test_auxTimeout : check (.auxTimeout 15) auxBusy (fun t =>
    t.get (Fld.HEAD_AUX_STATUS_BUSY 15) == 0 && t.get (Fld.HEAD_AUX_STATUS_REPLY 15) == 3) = true := by
  decide +kernel
theorem test_auxDeferRetry : check (.auxDeferRetry 15)
    (auxBusy.updHead 15 fun r => { r with auxDeferred := true, auxRetries := 7 }) (fun t =>
      t.get (Fld.HEAD_AUX_STATUS_BUSY 15) == 0 && t.get (Fld.HEAD_AUX_STATUS_REPLY 15) == 2) = true := by
  decide +kernel
theorem test_auxDeferRetry_again : check (.auxDeferRetry 15)
    (auxBusy.updHead 15 fun r => { r with auxDeferred := true, auxRetries := 6 }) (fun t =>
      t.get (Fld.HEAD_AUX_STATUS_BUSY 15) == 1 && t.sent.length == 1 && (t.head 15).auxRetries == 7) = true := by
  decide +kernel

/-- The first data word of DSI head 19 holds four bytes. -/
def dsiUnit : Mach := lab.wr (Reg.HEAD_DSI_DATA 19 0) 0x04030201

theorem test_dcsShortWrite : check (.dcsShortWrite 3 19 0x85010000) dsiUnit (fun t =>
    (t.head 19).dsi == some ⟨false, 5, [1], true⟩ && t.sent == [.dsi 19 false 5 [1]] && t.get (Fld.HEAD_DSI_CMD_STATUS_BUSY 19) == 1) = true := by
  decide +kernel
theorem test_dcsShortWriteParam : check (.dcsShortWriteParam 3 19 0xD5020000) dsiUnit (fun t =>
    (t.head 19).dsi == some ⟨true, 0x15, [1, 2], true⟩) = true := by decide +kernel
theorem test_dcsLongWrite : check (.dcsLongWrite 3 19 0xB9030000) dsiUnit (fun t =>
    (t.head 19).dsi == some ⟨false, 0x39, [1, 2, 3], true⟩) = true := by decide +kernel
theorem test_dcsRead : check (.dcsRead 3 19 0x86010000) dsiUnit (fun t =>
    (t.head 19).dsi == some ⟨false, 6, [1], true⟩) = true := by decide +kernel
theorem test_dsiCmdDone : check (.dsiCmdDone 19 [] none)
    (dsiUnit.updHead 19 fun r => { r with dsi := some ⟨false, 5, [1], true⟩ }) (fun t =>
      t.get (Fld.HEAD_DSI_CMD_STATUS_DONE 19) == 1 && (t.head 19).dsi.isNone) = true := by decide +kernel
theorem test_dsiPanelReset : check (.dsiPanelReset 3 19 0x80000000) lab (fun t =>
    t.get (Fld.HEAD_DSI_CTRL_PANEL_RST 19) == 1 && regsOnly lab t [Reg.HEAD_DSI_CTRL 19]) = true := by
  decide +kernel
theorem test_dsiTeEdge :
    let m := ((scan 19 100).put (Fld.HEAD_DSI_CTRL_TE_SYNC 19) 1).put (Fld.HEAD_DSI_CTRL_TE_DELAY 19) 50
    check (.dsiTeEdge 19) m (fun t => (t.head 19).teAt == some 492) = true := by decide +kernel
theorem test_dsiTeLost : check (.dsiTeLost 19) ((scan 19 100).put (Fld.HEAD_DSI_CTRL_TE_SYNC 19) 1) (fun t =>
    t.get (Fld.HEAD_STATUS_TE_LOST 19) == 1 && (t.head 19).teLost) = true := by decide +kernel

theorem witness_HeadsAreEnabled :
    (st (raster 15)).reaches 3 0x8F 0 ∧ headOk 19 = true ∧ (raster 15).is (Fld.HEAD_CTRL_EN 15) = false ∧
    ((raster 15).put (Fld.HEAD_CTRL_EN 15) 1).timingCause 15 = none ∧
    (lab.put (Fld.HEAD_CTRL_EN 15) 1).timingCause 15 = some 1 ∧
    ((scan 15 7).is (Fld.HEAD_CTRL_EN 15) = true ∧ (scan 15 7).scanning 15 = true ∧
      ((raster 15).put (Fld.HEAD_CTRL_EN 15) 1).scanning 15 = false) :=
  ⟨reaches_lab (by decide), by decide, by decide, by decide +kernel, by decide +kernel, by decide⟩

theorem witness_HeadsScan :
    (starting.on = true ∧ headOk 15 = true ∧ lineOk noLine = true ∧ lineOk oneFront = true ∧
      starting.startDue 15 = true ∧ starting.scanning 15 = false ∧
      (starting.put (Fld.HEAD_STATUS_SCANNING 15) 1).startDue 15 = true) ∧
    ((scan 15 7).nextLine 15 ≠ 0 ∧ (scan 15 524).nextLine 15 = 0 ∧ (scan 15 7).teSync 15 = false) ∧
    (let m := lab.updHead 15 fun r => { r with result := some ⟨0xABCD, [], 0, none, false⟩ }
     (m.head 15).result = some ⟨0xABCD, [], 0, none, false⟩ ∧ m.balloted 15 = false) := by decide +kernel

theorem witness_CommitsAreMarked :
    (st (scan 15 490)).reaches 3 0x8F 0x10 ∧ (st lab).reaches 3 0x1D 0x10 ∧ (st lab).reaches 3 0x19 0x10 ∧
    ((scan 15 480).put (Fld.HEAD_LATCH_COMMIT_GUARD 15) 2).commitLate 15 = true ∧
    ((scan 19 480).put (Fld.HEAD_LATCH_COMMIT_GUARD 19) 2).commitLate 19 = true ∧
    (0x00080001 : Word).getLsbD 19 = true ∧ (0x00080001 : Word).getLsbD 18 = false :=
  ⟨reaches_lab (by decide), reaches_lab (by decide), reaches_lab (by decide), by decide, by decide, by decide, by decide⟩

/-- Slots 0 to 31 belong to head 19. -/
def full19 : Mach := forEach (List.range 32) lab fun m x => m.wr (Reg.LAYER_OWN x) 0x80000013

/-- An active lease of head 3 on the first 4 KiB of DRAM. -/
def leased : Mach := { dramUp with leases := { dramUp.leases with table := [(0, ⟨3, 383, 0, 0, 0, 0xFFF⟩)] } }

theorem witness_SlotsAndLeases :
    (st lab).reaches 3 0x1D (0x1000 + 0x40 * 383) ∧ lab.slotBusy 383 = false ∧
    (lab.slotsOf 19).length < 32 ∧ bitsOf (0x80000013 : Word).toNat 0 5 = 19 ∧
    (full19.slotsOf 19).length = 32 ∧ full19.slotBusy 383 = false ∧ full19.is (Fld.LAYER_OWN_ASSIGNED 383) = false ∧
    (st ({ lab with leases := { lab.leases with ended := [(19, 383, 1)] } } : Mach)).shows 3 0x1A 0x30 ∧
    leaseChecked 0x10 = true ∧ (leaseChecked (mstDec 0) = false ∧ ∀ p ∈ partsOf 0xFF8 16, leased.memDenied (mstDec 0) p.1 true = none) ∧
    (∀ p ∈ partsOf 0xFF8 16, leased.memDenied 0x10 p.1 true = none) ∧
    leased.leaseHits (partsOf 0xFF8 16) = some (0xFF8, 0, ⟨3, 383, 0, 0, 0, 0xFFF⟩) :=
  ⟨reaches_lab (by decide), by decide, by decide, by decide, by decide +kernel, by decide +kernel,
    by decide +kernel, shows_lab (by decide), by decide, by decide, by decide, by decide⟩

theorem witness_DisplayPortTrains :
    dpOk 15 = true ∧ (st lab).reaches 3 0x8F 0x200 ∧ lab.is (Fld.HEAD_CTRL_EN 15) = false ∧
    (let m := (raster 15).put (Fld.HEAD_DP_STATUS_TRAIN_BUSY 15) 1
     m.is (Fld.HEAD_DP_STATUS_TRAIN_BUSY 15) = true ∧ m.trainAllowed 15 1 2 1 3 = true ∧
     (m.head 15).auxWaits = false) ∧
    (0x80000021 : Word).getLsbD 31 = true ∧
    (lab.put (Fld.HEAD_CTRL_EN 15) 1).rd (Reg.HEAD_DP_CTRL 15) &&& 0x7FFFFFFF = lab.rd (Reg.HEAD_DP_CTRL 15) &&& 0x7FFFFFFF ∧
    (let m := (lab.put (Fld.HEAD_DP_CTRL_AUTO_RETRAIN 15) 1).updHead 15 fun r => { r with unplugged := true }
     m.is (Fld.HEAD_DP_CTRL_AUTO_RETRAIN 15) = true ∧ (m.head 15).unplugged = true) :=
  ⟨by decide, reaches_lab (by decide), by decide, by decide +kernel, by decide, by decide, by decide⟩

theorem witness_AuxTransactionsRun :
    (st auxUnit).reaches 3 0x8F 0x208 ∧ auxUnit.is (Fld.HEAD_AUX_STATUS_BUSY 15) = false ∧
    auxUnit.is (Fld.HEAD_DP_STATUS_TRAIN_BUSY 15) = false ∧
    (bitsOf (0x88112345 : Word).toNat 24 4 = 8 ∧ bitsOf (0x85000050 : Word).toNat 24 4 = 5) ∧
    ((st auxBusy).reaches 3 0x8F 0x208 ∧ auxBusy.is (Fld.HEAD_AUX_STATUS_BUSY 15) = true) ∧
    auxBusy.get (Fld.HEAD_AUX_CTRL_CMD 15) % 2 = 1 ∧
    auxBusy.auxOpen 15 = true ∧ (auxBusy.put (Fld.HEAD_AUX_CTRL_CMD 15) 8).get (Fld.HEAD_AUX_CTRL_CMD 15) % 2 = 0 ∧
    (let m := auxBusy.updHead 15 fun r => { r with auxDeferred := true, auxRetries := 6 }
     (m.head 15).auxDeferred = true ∧ (m.head 15).auxRetries < 7) ∧
    (let m := auxBusy.updHead 15 fun r => { r with auxDeferred := true, auxRetries := 7 }
     m.is (Fld.HEAD_AUX_STATUS_BUSY 15) = true ∧ (m.head 15).auxDeferred = true ∧
     7 ≤ (m.head 15).auxRetries) :=
  ⟨reaches_lab (by decide), by decide, by decide, by decide, ⟨reaches_lab (by decide), by decide⟩, by decide, by decide,
    by decide, by decide, by decide⟩

theorem witness_DsiCommandsRun :
    dsiOk 19 = true ∧ dsiOk 16 = true ∧ (st dsiUnit).reaches 3 0x93 0x208 ∧ (st lab).reaches 3 0x93 0x200 ∧
    dsiUnit.is (Fld.HEAD_DSI_CMD_STATUS_BUSY 19) = false ∧ lab.is (Fld.HEAD_CTRL_EN 19) = false ∧
    ((dsiUnit.updHead 19 fun r => { r with dsi := some ⟨false, 5, [1], true⟩ }).head 19).dsi =
      some ⟨false, 5, [1], true⟩ ∧
    (let m := (scan 19 100).put (Fld.HEAD_DSI_CTRL_TE_SYNC 19) 1
     m.teSync 19 = true ∧ m.is (Fld.HEAD_CTRL_EN 19) = true ∧ m.scanning 19 = true ∧
     (m.put (Fld.HEAD_STATUS_SCANNING 19) 0).scanning 19 = false ∧ (m.head 19).target = none ∧
     ((m.updHead 19 fun r => { r with target := some 5 }).head 19).target ≠ none) :=
  ⟨by decide, by decide, reaches_lab (by decide), reaches_lab (by decide), by decide, by decide, by decide,
    by decide⟩


theorem test_auxReply_nack : check (.auxReply 15 1 0 []) auxBusy (fun t =>
    t.get (Fld.HEAD_AUX_STATUS_REPLY 15) == 1 && t.get (Fld.HEAD_AUX_STATUS_BUSY 15) == 0) = true := by decide +kernel
theorem test_dsiCmdDone_report : check (.dsiCmdDone 19 [5, 6] (some 0x8001))
    (dsiUnit.updHead 19 fun r => { r with dsi := some ⟨false, 6, [1], true⟩ }) (fun t =>
      t.get (Fld.HEAD_DSI_CMD_STATUS_RD_LEN 19) == 2 && t.get (Fld.HEAD_DSI_CMD_STATUS_ERR_REPORT 19) == 0x8001 &&
      bitsOf (t.rd (Reg.HEAD_DSI_DATA 19 0)).toNat 0 16 == 0x0605) = true := by decide +kernel
/-! ### Re-encoding -/

/-- Stream 31 selected and set up: 128 × 64 of head 15, H.265 Main at level 1 (30), session 4095 sending on
port 2, 1 Mbit/s. -/
def encUnit : Mach :=
  let m := ((scan 15 7).put (Fld.ENCSCHED_STREAM_INDEX_INDEX 3) 31).put (Fld.INGEST_SESS_CTRL_PORTS 4095) 4
  let m := (m.wr (Reg.ENCSCHED_STREAM_CTRL 31) 0x00000FFF).wr (Reg.ENCSCHED_STREAM_SRC 31) 15
  let m := (m.wr (Reg.ENCSCHED_STREAM_CROP_SIZE 31) (BitVec.ofNat 32 (64 * 0x10000 + 128))).wr
    (Reg.ENCSCHED_STREAM_GOP 31) 0x1E000100
  let m := ((m.wr (Reg.ENCSCHED_STREAM_RATE 31) 1000).wr (Reg.ENCSCHED_STREAM_CPB 31) 350).wr
    (Reg.ENCSCHED_STREAM_RC 31) 0x33000000
  m.wr (Reg.ENCSCHED_STREAM_BUF 31) 0x00000008

/-- The stream enabled, with nothing captured. -/
def encRun : Mach :=
  ((((encUnit.updEnc 31 fun q => { q with tx := some (encUnit.encCopy 4095), free := [0, 1] }).put
    (Fld.ENCSCHED_STREAM_CTRL_EN 31) 1).put (Fld.ENCSCHED_STREAM_STATUS_STATE 31) 2).put
    (Fld.ENCSCHED_STREAM_STATUS_DRAINED 31) 0).put Fld.ENCSCHED_CTRL_EN 1

/-- A picture captured whole. -/
def encOne : EncPic := { EncPic.fresh (encRun.sliceCount 31) 0 with slot := some 1, rows := 64 }

/-- The picture waits with its slices as given. -/
def encWith (p : EncPic) : Mach := encRun.updEnc 31 fun q => { q with pics := [p], free := [0] }

/-- The picture with all slices ready. -/
def encReady : EncPic :=
  { encOne with slices := encOne.slices.map fun q => { q with readyAt := some 0 } }

/-- The picture started as an IDR picture. -/
def encIdr : EncPic :=
  { encReady with started := true, idr := true, target := 66666, cap := 350000, qpHi := 51 }
def encStarted : Mach := encRun.updEnc 31 fun q => { q with pics := [encIdr], free := [0], coded := 1 }

/-- Cell 15 runs slice 0 of it. -/
def encCoding (allot : Nat) : Mach :=
  (encStarted.updOldest 31 fun p => { p with slices := p.slices.zipIdx.map fun k =>
      if k.2 = 0 then { k.1 with cell := some 15, allot := allot } else k.1 }).updEncCell 15 fun q =>
    { q with cur := some (31, 0), live := true, holds := some 31, busyFrom := some 0 }

def zeroFrame : List Byte := List.replicate 60 0

/-- A packet waits for port 2. -/
def encPacket : Mach := encRun.updEnc 31 fun q => { q with packets := [⟨2, zeroFrame, none⟩] }

theorem test_encStreamEnable : check (.encStreamEnable 3 0x80000FFF) encUnit (fun t => t.encEn 31 &&
    t.get (Fld.ENCSCHED_STREAM_STATUS_DRAINED 31) == 0 && (t.enc 31).free == [0, 1] &&
    ((t.enc 31).tx.map fun x => x.port) == some 2) = true := by decide +kernel
theorem test_encStreamEnable_refused : check (.encStreamEnable 3 0x80000FFF)
    (encUnit.put (Fld.INGEST_SESS_CTRL_PORTS 4095) 6) (fun t => !t.encEn 31 &&
      t.get (Fld.ENCSCHED_STREAM_STATUS_LAST_ERR 31) == 2 &&
      t.get (Fld.ENCSCHED_STREAM_STATUS_BIND_CONFLICT 31) == 1) = true := by decide +kernel
theorem test_encStreamDisable : check (.encStreamDisable 3 0x00000FFF) (encWith encReady) (fun t =>
    !t.encEn 31 && (t.enc 31).pics == [] && (t.enc 31).free == [0, 1]) = true := by decide +kernel
theorem test_encStreamDrained : check (.encStreamDrained 31) (encRun.put (Fld.ENCSCHED_STREAM_CTRL_EN 31) 0)
    (fun t => t.get (Fld.ENCSCHED_STREAM_STATUS_DRAINED 31) == 1) = true := by decide +kernel
theorem test_encForceIdr : check (.encForceIdr 3 1) encRun (fun t => (t.enc 31).forced) = true := by
  decide +kernel
theorem test_encCellDisable : check (.encCellDisable 3 15 0) (encRun.put (Fld.ENC_CTRL_EN 15) 1) (fun t =>
    t.get (Fld.ENC_CTRL_EN 15) == 0) = true := by decide +kernel
theorem test_encSliceReady : check (.encSliceReady 31) (encWith encOne) (fun t =>
    ((t.enc 31).pics.map fun p => p.slices.map fun q => q.readyAt.isSome) == [[true, false]]) = true := by
  decide +kernel
/-- A picture after the first that no floor fits: it is dropped. -/
def encTight : Mach :=
  ((encWith encReady).updEnc 31 fun q => { q with coded := 1 }).put (Fld.ENCSCHED_STREAM_CPB_CPB_SIZE 31) 0

theorem test_encPictureStart_drops : check (.encPictureStart 31 [] []) encTight (fun t => (t.enc 31).pics == [] &&
    (t.enc 31).coded == 1 && t.get (Fld.ENCSCHED_STREAM_CNT_COUNT 31 1) == 1) = true := by decide +kernel
theorem test_encCap : (let m := encWith encReady
    (m.encCap 31 (m.enc 31) (m.encFullness 31 (m.enc 31) 0) true).2) = 350000 := by decide +kernel
theorem test_encSliceStart : check (.encSliceStart 15) (encStarted.put (Fld.ENC_CTRL_EN 15) 1) (fun t =>
    (t.encCell 15).cur == some (31, 0) && ((t.enc 31).pics.map fun p => p.slices.map fun q => q.allot) ==
      [[349904, 0]]) = true := by decide +kernel
/-- A CTU of 100 bits. -/
def code : CtuCode := ⟨100, 30, [(768, -384)]⟩

theorem test_codeCtus : codeCtus 24 250 0 [code, code, code, code] = (248, 2, [code, code]) := by
  decide
/-- A slice of a stream that has been disabled ends, and its cell is free. -/
theorem test_encSliceDone_ended : check (.encSliceDone 15 [code] [17] [99])
    ((encCoding 250).updEncCell 15 fun q => { q with live := false }) (fun t =>
      t.get (Fld.ENC_CNT_SLICE_COUNT 15) == 0 && (t.encCell 15).cur.isNone) = true := by decide +kernel
theorem test_encPacketSend : check (.encPacketSend 31) (encPacket.put (Fld.ETH_STATUS_LINK 2) 1) (fun t =>
    t.sent == [.eth 2 zeroFrame] && (t.enc 31).packets == [] &&
    t.get (Fld.ENCSCHED_STREAM_CNT_COUNT 31 4) == 1) = true := by decide +kernel
theorem test_encPacketSend_down : check (.encPacketSend 31) encPacket (fun t => t.sent == [] &&
    t.get (Fld.ENCSCHED_STREAM_CNT_COUNT 31 6) == 1 && t.get (Fld.ENCSCHED_STREAM_STATUS_LAST_ERR 31) == 9) =
    true := by decide +kernel

theorem witness_EncodersComeAndGo :
    (st encUnit).reaches 3 0x1C 0x104 ∧ (st encUnit).reaches 3 0x1C 0x138 ∧ (st encUnit).reaches 3 (0x60 + 15) 0 ∧
    encUnit.get (Fld.ENCSCHED_STREAM_INDEX_INDEX 3) = 31 ∧
    (encUnit.encEn 31 = false ∧ encUnit.is (Fld.ENCSCHED_STREAM_STATUS_DRAINED 31) = true ∧
      ((encUnit.wr (Reg.ENCSCHED_STREAM_CTRL 31) 0x80000FFF).updEnc 31 fun _ => EncStream.reset).encRefusal 31 =
        none ∧
      (((encUnit.put (Fld.INGEST_SESS_CTRL_PORTS 4095) 6).wr (Reg.ENCSCHED_STREAM_CTRL 31) 0x80000FFF).updEnc 31
        fun _ => EncStream.reset).encRefusal 31 = some 2) ∧
    ((st encRun).reaches 3 0x1C 0x104 ∧ encRun.encEn 31 = true ∧
      ((0x00000FFF : Word) ^^^ encRun.rd (Reg.ENCSCHED_STREAM_CTRL 31)) &&& 0x3FDF0FFF = 0) ∧
    (estreamOk 31 = true ∧ encUnit.encBusy 31 = false ∧ (encUnit.enc 31).packets = []) :=
  ⟨reaches_lab (by decide), reaches_lab (by decide), reaches_lab (by decide), by decide,
    by decide +kernel, ⟨reaches_lab (by decide), by decide, by decide⟩, by decide⟩

theorem witness_PicturesAreCoded :
    (estreamOk 31 = true ∧ encOk 15 = true ∧ encRun.frozen = false ∧ encRun.encEn 31 = true ∧
      encRun.is Fld.ENCSCHED_CTRL_EN = true) ∧
    ((encWith encOne).enc 31).pics = [encOne] ∧
    (0 = (encOne.slices.takeWhile fun q => q.readyAt.isSome).length ∧ 0 < encOne.slices.length ∧
      (encWith encOne).sliceEnd 31 0 ≤ encOne.rows) ∧
    ((encWith encReady).encNext 31 = some encReady ∧
      ((encWith encReady).enc 31).tx = some (encUnit.encCopy 4095) ∧
      (encWith encReady).encIdrDue 31 ((encWith encReady).enc 31) = true) ∧
    (let m := encWith encReady
     let full := m.encFullness 31 (m.enc 31) ((encUnit.encCopy 4095).rtpTime encReady.capture)
     m.floorBits 31 true * m.ctus 31 ≤ (m.encCap 31 (m.enc 31) full true).2) ∧
    (let m := (encWith encReady).updEnc 31 fun q => { q with coded := 1 }
     let full := m.encFullness 31 (m.enc 31) ((encUnit.encCopy 4095).rtpTime encReady.capture)
     m.encNext 31 = some encReady ∧ m.encIdrDue 31 (m.enc 31) = false ∧
     m.floorBits 31 false * m.ctus 31 ≤ (m.encCap 31 (m.enc 31) full false).2) ∧
    (let p := { encReady with slot := none, desc := some 5 }
     let m := encTight.updOldest 31 fun _ => p
     let full := m.encFullness 31 (m.enc 31) ((encUnit.encCopy 4095).rtpTime p.capture)
     m.encNext 31 = some p ∧ m.encIdrDue 31 (m.enc 31) = false ∧
     ¬ m.floorBits 31 false * m.ctus 31 ≤ (m.encCap 31 (m.enc 31) full false).2) ∧
    (let m := encStarted.put (Fld.ENC_CTRL_EN 15) 1
     m.is (Fld.ENC_CTRL_EN 15) = true ∧ (m.encCell 15).cur = none ∧ m.earliestSlice m.encOn = some (31, 0, 0) ∧
     (m.enc 31).pics = [encIdr]) := by
  refine ⟨?_, ?_, ?_, ?_, ?_, ?_, ?_, ?_⟩ <;> decide +kernel

theorem witness_SlicesAndPacketsEnd_allotment : 24 * [code, code].length ≤ 48 := by decide

theorem witness_SlicesAndPacketsEnd :
    encOk 15 = true ∧ estreamOk 31 = true ∧ [code, code].all ctuOk = true ∧ (encCoding 1000).frozen = false ∧
    (let m := (encCoding 1000).updEncCell 15 fun q => { q with live := false }
     (m.encCell 15).cur = some (31, 0) ∧ (m.encCell 15).live = false) ∧
    (((encCoding 1000).encCell 15).cur = some (31, 0) ∧ ((encCoding 1000).encCell 15).live = true ∧
      ((encCoding 1000).enc 31).pics ≠ [] ∧ ((encCoding 1000).enc 31).tx = some (encUnit.encCopy 4095)) ∧
    ((encPacket.enc 31).packets = [⟨2, zeroFrame, none⟩] ∧
      encPacket.hq5First 2 = false ∧ (encPacket.enc 31).nextAt ≤ encPacket.nowNs ∧
      (encPacket.put (Fld.ETH_STATUS_LINK 2) 1).is (Fld.ETH_STATUS_LINK 2) = true ∧
      encPacket.is (Fld.ETH_STATUS_LINK 2) = false ∧
      encPacket.is (Fld.ENCSCHED_STREAM_CTRL_ERR_EVT 31) = false) := by
  refine ⟨?_, ?_, ?_, ?_, ?_, ?_⟩ <;> decide +kernel

/-- Cell 15 runs slice 0 in a module whose DRAM runs, with errors at places of it. -/
def encErr (flips : List (Nat × Nat)) : Mach :=
  { encCoding 1000 with flips := flips
                        boot := { lab.boot with romStarted := true, trained := true, zeroFilled := true } }

/-- A picture without a source to read. -/
def encBlank : EncPic := { encIdr with slot := none }

/-- The access of a cell freezes the DRAM as it reads, or as it writes; with no row to write, neither does. -/
theorem witness_SlicesAndPacketsEnd_freezes :
    (let m : Mach := { encErr [] with dram := { (encErr []).dram with pendingFreeze := some ⟨false, 0, 0, 0, 0, 0, 0⟩ } }
     m.frozen = false ∧ ((m.encRead 31 15 encBlank 0).1.encRefRead 31 15 encBlank 0).1.freezing = true) ∧
    (let r := ((encErr []).encRead 31 15 encBlank 2).1.encRefRead 31 15 encBlank 2
     r.1.freezing = false ∧ (r.1.encRebuild 31 15 encBlank 2 [] []).freezing = false) := by
  refine ⟨?_, ?_⟩ <;> decide +kernel

/-- A picture so small that one error meets its writes. -/
def encSmall (flips : List (Nat × Nat)) : Mach :=
  (encErr flips).wr (Reg.ENCSCHED_STREAM_CROP_SIZE 31) (BitVec.ofNat 32 (16 * 0x10000 + 16))

theorem witness_SlicesAndPacketsEnd_write_freezes :
    ((encSmall [(20480, 3)]).encRebuild 31 15 encBlank 0 [] []).freezing = true := by decide +kernel
/-! ### Network time and the DPLL -/

/-- Domain B is on with software samples and may step. -/
def domUnit : Mach := (lab.put (Fld.TIME_DOM_CFG_EN 1) 1).put (Fld.TIME_DOM_CFG_STEP_EN 1) 1

/-- Domain B in a state. -/
def domIn (st : DomState) : Mach := domUnit.updDom 1 fun x => { x with st := st }

/-- An exchange of chain time is open; its request left at 100. -/
def asked : Mach := { memberUnit with time := { memberUnit.time with exchange := some 100 } }

/-- The DPLL selects input 4, which is valid, by itself. -/
def dpllUnit : Mach :=
  ((((lab.put Fld.DPLL_CTRL_EN 1).put Fld.DPLL_CTRL_MODE 1).put Fld.DPLL_PRIO0_ENTRIES 0x4).put
    (Fld.DPLL_IN_CFG_ALLOW 4) 1).updDpll fun x => { x with valid := [4] }

/-- The DPLL in a state on an input. -/
def dpllIn (q : DomState) (k : Option Nat) : Mach := dpllUnit.updDpll fun x =>
  { x with st := q, active := k, valid := k.toList, qualified := k.toList }

/-- The target of phase steps and their mode. -/
def phaseUnit (target mode : Nat) : Mach :=
  (lab.put Fld.DPLL_PHASE_CTRL_TARGET target).put Fld.DPLL_PHASE_CTRL_MODE mode

theorem test_timeClkTick : check (.timeClkTick 3) lab (fun t => t.time.now == 3 * 2 ^ 30 &&
    t.time.ticks == 3) = true := by decide +kernel
theorem test_timeClkTick_keep : check (.timeClkTick 1) (inPhase .keep) (fun t => t.time.ticks != 0 ||
    t.time.now != 0) = true := by decide +kernel
theorem test_timeSnap : check (.timeSnap 3 1)
    { lab with time := { lab.time with now := 5 * unitSec + 7 * unitNs + 3 * 4096 } } (fun t =>
      t.get (Fld.TIME_SNAP_SEC_LO_SEC_LO 2) == 5 && t.get (Fld.TIME_SNAP_NS_NS 2) == 7 &&
      t.get (Fld.TIME_SNAP_HI_FRAC 2) == 3) = true := by decide +kernel
theorem test_domainSample : check (.domainSample 3 1 0x05F5E100) domUnit (fun t =>
    (t.dom 1).st == .acquiring && (t.dom 1).ofs == 100000000 * 2 ^ 28 &&
    t.get (Fld.TIME_DOM_LAST_ERR_ERR 1) == 100000000 && t.get (Fld.TIME_DOM_CNT_ACCEPTED 1) == 1) = true := by
  decide +kernel
theorem test_domainSample_rejected : check (.domainSample 3 1 0x3B9ACA00) domUnit (fun t =>
    t.get (Fld.TIME_DOM_CNT_REJECTED 1) == 1 && t.dom 1 == domUnit.dom 1) = true := by decide +kernel
theorem test_domainEnable : check (.domainEnable 3 1 0xC0000000) lab (fun t =>
    t.is (Fld.TIME_DOM_CFG_EN 1) && t.is (Fld.TIME_DOM_CFG_SRC 1)) = true := by decide +kernel
theorem test_domainDisable : check (.domainDisable 3 1 0x201E0258) (domIn .locked) (fun t =>
    (t.dom 1).st == .freeRun && !t.is (Fld.TIME_DOM_CFG_EN 1)) = true := by decide +kernel
theorem test_domainTimeout : check (.domainTimeout 1) (domIn .locked) (fun t => (t.dom 1).st == .holdover) =
    true := by decide +kernel
theorem test_domainHoldMax : check (.domainHoldMax 1) (domIn .holdover) (fun t => (t.dom 1).st == .lost) =
    true := by decide +kernel
theorem test_chainTimeExchange : check (.chainTimeExchange 5) memberUnit (fun t =>
    (t.apPort true).ready == [ChainMsg.timeRequest] && t.time.exchange == some 5) = true := by decide +kernel
theorem test_chainTimeRequest : check (.chainTimeRequest 5 9) memberUnit (fun t =>
    (t.apPort false).ready == [ChainMsg.timeReply 5 14 0 0 .freeRun .freeRun]) = true := by decide +kernel
theorem test_chainOffset : lab.chainOffset 100 150 160 110 = 50 := by decide +kernel
theorem test_chainTimeReply : check (.chainTimeReply 150 160 7 8 .locked .locked 110)
    ((asked.put (Fld.TIME_DOM_CFG_EN 1) 1).put (Fld.TIME_DOM_CFG_SRC 1) 1) (fun t =>
      t.time.exchange == none && t.dpll.valid == [1, 9] && (t.dom 1).upState == some (0, .locked)) = true := by
  decide +kernel
theorem test_ppsInEdge : check (.ppsInEdge true 4096)
    ((lab.put Fld.TIME_PPS_IN_CTRL_EN 1).put Fld.TIME_PPS_IN_CTRL_POL 1) (fun t =>
      t.get Fld.TIME_PPS_IN_CTRL_NEW == 1 && t.get Fld.TIME_PPS_IN_HI_FRAC == 1) = true := by decide +kernel
theorem test_dpllInputValidity : check (.dpllInputValidity 4 true (-3)) lab (fun t => t.dpll.valid == [4]) =
    true := by decide +kernel
theorem test_dpllInputValidity_link : check (.dpllInputValidity 5 true 0) lab (fun t => t.dpll.valid == []) =
    true := by decide +kernel
theorem test_dpllInputQualified : check (.dpllInputQualified 4) dpllUnit (fun t => t.dpll.active == some 4 &&
    t.dpll.st == .acquiring) = true := by decide +kernel
theorem test_dpllEnable : check (.dpllEnable 3 0x80000000) lab (fun t => t.is Fld.DPLL_CTRL_EN) = true := by
  decide +kernel
theorem test_dpllDisable : check (.dpllDisable 3 0x40000000) (dpllIn .locked (some 4)) (fun t =>
    t.dpll.active == none && t.dpll.st == .freeRun) = true := by decide +kernel
theorem test_dpllHoldMax : check .dpllHoldMax (dpllIn .holdover none) (fun t => t.dpll.st == .lost) = true := by
  decide +kernel
theorem test_dpllClockEdge : check (.dpllClockEdge 6 268435456) (dpllIn .acquiring (some 6)) (fun t =>
    t.dpll.freqBase == some (-268435456) && !t.dpll.firstSample) = true := by decide +kernel
theorem test_phaseStep : check (.phaseStep 3 0xFFFFFFFF) (phaseUnit 1 0) (fun t =>
    t.time.domA.ofs == -268435456 && t.time.now == 0 && t.get Fld.TIME_STATUS_STEPPED == 1) = true := by
  decide +kernel
theorem test_phaseStep_ignored : check (.phaseStep 3 0xFFFFFFFF) (phaseUnit 3 0) (fun t =>
    t.time == lab.time) = true := by decide +kernel
theorem test_phaseSlew : check (.phaseSlew 3 0xFFFFFFFF) (phaseUnit 2 1) (fun t => t.dpll.slewing &&
    t.dpll.remain == -268435456 && t.dpll.slewTarget == 2) = true := by decide +kernel
theorem test_phaseSlewDone : check .phaseSlewDone (lab.updDpll fun x => { x with slewing := true }) (fun t =>
    !t.dpll.slewing) = true := by decide +kernel
/-- FRAME_OUT3 at 60 Hz of LOCAL, at a time of LOCAL in ns. -/
def outUnit (ns : Nat) : Mach :=
  let m := (((lab.put (Fld.TIME_FRAME_OUT_CFG_EN 3) 1).put (Fld.TIME_FRAME_OUT_CFG_DOM 3) 0).put
    (Fld.TIME_FRAME_OUT_FRATE_FR_NUM 3) 60).put (Fld.TIME_FRAME_OUT_FRATE_FR_DEN 3) 1
  { m with time := { m.time with now := ns * unitNs, ticks := ns / 4 } }

/-- An output's edge was at tick 0 of `ticks`, and its WIDTH is `ns`. -/
def pulsing (ticks ns : Nat) : Mach :=
  let m := (lab.put (Fld.TIME_FRAME_OUT_CFG_WIDTH 3) ns).put Fld.TIME_PPS_OUT_CFG_WIDTH 2
  { m with
    time := { m.time with ticks := ticks },
    pins := { m.pins with frameOut := [2, 3], frameEdge := [(3, 0)], ppsOut := true, ppsEdge := some 0 } }

/-- T_3 of 60 Hz is 50 ms. -/
theorem test_frameOutEdge : check (.frameOutEdge 3) (outUnit 50000000) (fun t => t.pins.frameOut == [3] &&
    t.pins.frameEdge == [(3, 12500000)]) = true := by decide +kernel
theorem test_frameOutEdge_other : check (.frameOutEdge 3) (outUnit 50000004) (fun t => t.pins.frameOut == []) =
    true := by decide +kernel
theorem test_frameOutPulseEnd : check (.frameOutPulseEnd 3) { lab with pins := { lab.pins with frameOut := [2, 3] } }
    (fun t => t.pins.frameOut == [2]) = true := by decide +kernel
theorem test_frameOutPulseEnd_early : check (.frameOutPulseEnd 3) (pulsing 249 1000) (fun t =>
    t.pins.frameOut == [2, 3]) = true := by decide +kernel
theorem test_ppsOutEdge : check .ppsOutEdge (lab.put Fld.TIME_PPS_OUT_CFG_EN 1) (fun t => t.pins.ppsOut &&
    t.pins.ppsEdge == some 0) = true := by decide +kernel
theorem test_ppsOutPulseEnd_early : check .ppsOutPulseEnd (pulsing 499 1000) (fun t => t.pins.ppsOut) = true := by
  decide +kernel
theorem test_ppsOutPulseEnd : check .ppsOutPulseEnd { lab with pins := { lab.pins with ppsOut := true } } (fun t =>
    !t.pins.ppsOut) = true := by decide +kernel

theorem witness_TimeIsCounted :
    lab.on = true ∧ (inPhase .keep).pwr.phase = .keep ∧ (inPhase .railsRise).pwr.phase = .railsRise ∧
    lab.dpll.remain = 0 ∧ (st lab).reaches 3 0x0C 8 :=
  ⟨by decide, by decide, by decide, by decide, reaches_lab (by decide)⟩

theorem witness_DomainsFollowSamples :
    (st lab).reaches 3 0x0C (0x118 + 0x40 * 1) ∧ (st domUnit).reaches 3 0x0C (0x118 + 0x40 * 0) ∧
    (st domUnit).reaches 3 0x0C (0x100 + 0x40 * 1) ∧ domOk 1 = true ∧
    (lab.is (Fld.TIME_DOM_CFG_EN 1) = false ∧ domUnit.is (Fld.TIME_DOM_CFG_EN 1) = true ∧
      domUnit.is (Fld.TIME_DOM_CFG_SRC 1) = false ∧ domUnit.domOwn 1 ≠ .locked ∧
      domUnit.is (Fld.TIME_DOM_CFG_STEP_EN 1) = true) ∧
    (bitsOf (0x3B9AC9FF : Word).toNat 0 30 < 1000000000 ∧ 1000000000 ≤ bitsOf (0x3B9ACA00 : Word).toNat 0 30) ∧
    (∀ q ∈ [DomState.locked, .acquiring, .holdover], ((domIn q).setValid 1 false).dpll.active ≠ some 1 ∧
      (((domIn q).setValid 1 false).dom 1).st = q ∧ (domIn q).dpll.active ≠ some 1 ∧
      ((domIn q).dom 1).st = q) :=
  ⟨reaches_lab (by decide), reaches_lab (by decide), reaches_lab (by decide), by decide, by decide +kernel,
    by decide, by decide +kernel⟩

/-- A sample of 1 s at a LOCKED domain B whose OUTLIER is 600 us is an outlier, and one of 599 us is none; a
write of 0 to CFG of a domain that is off, and of CFG with EN alone 0, disable it. -/
theorem witness_DomainsFollowSamples_outlier :
    let m := (domIn .locked).put (Fld.TIME_DOM_LIMITS_OUTLIER 1) 600
    (st m).reaches 3 0x0C (0x118 + 0x40 * 1) ∧ m.is (Fld.TIME_DOM_CFG_EN 1) = true ∧
    m.is (Fld.TIME_DOM_CFG_SRC 1) = false ∧ m.domOwn 1 = .locked ∧
    m.get (Fld.TIME_DOM_LIMITS_OUTLIER 1) * 1000 * unitNs ≤ absInt (errOf 1 0 0 + (m.dom 1).applied) ∧
    ¬ m.get (Fld.TIME_DOM_LIMITS_OUTLIER 1) * 1000 * unitNs ≤ absInt (errOf 0 599000 0 + (m.dom 1).applied) ∧
    (st m).reaches 3 0x0C (0x100 + 0x40 * 1) ∧
    (m.rd (Reg.TIME_DOM_CFG 1) &&& 0x7FFFFFFF).getLsbD 31 = false :=
  ⟨reaches_lab (by decide +kernel), by decide +kernel, by decide +kernel, by decide +kernel, by decide +kernel,
    by decide +kernel, reaches_lab (by decide +kernel), by decide +kernel⟩

theorem witness_ChainTimeIsExchanged :
    partOk (2 ^ 30 - 1) = true ∧ asked.on = true ∧ asked.portUp true = true ∧ asked.portUp false = true ∧
    asked.time.exchange = some 100 ∧ asked.get Fld.TIME_CHAIN_ASYM_ADJ = 0 ∧
    ((150 : Int) - 100 + (160 - asked.instant 110)) % 2 = 0 ∧
    (let m := (lab.put Fld.TIME_PPS_IN_CTRL_EN 1).put Fld.TIME_PPS_IN_CTRL_POL 1
     m.is Fld.TIME_PPS_IN_CTRL_EN = true ∧ m.is Fld.TIME_PPS_IN_CTRL_POL = true) := by decide

theorem witness_DpllFollowsItsInput :
    inputOk 9 = true ∧ dpllUnit.dpll.valid.contains 4 = true ∧
    ((dpllIn .acquiring (some 8)).dpll.active = some 8 ∧
      (let m := (dpllIn .acquiring (some 4)).put (Fld.DPLL_IN_FREQ_NUM_NUM 4) 1
       m.dpll.active = some 4 ∧ m.get (Fld.DPLL_IN_FREQ_NUM_NUM 4) ≠ 0)) ∧
    (st lab).reaches 3 0x0D 0 ∧ lab.is Fld.DPLL_CTRL_EN = false ∧
    (st dpllUnit).reaches 3 0x0D 0 ∧ dpllUnit.is Fld.DPLL_CTRL_EN = true ∧
    ((dpllIn .holdover none).dpll.st = .holdover ∧ (dpllIn .holdover none).dpll.active = none) :=
  ⟨by decide, by decide, by decide, reaches_lab (by decide), by decide, reaches_lab (by decide), by decide,
    by decide⟩

/-- Input 4's measured offset is one more than INTOL, and input 2 and 8 end the clock inputs. -/
theorem witness_DpllFollowsItsInput_intol :
    let m := dpllUnit.put Fld.DPLL_QUAL_INTOL 20
    m.on = true ∧ inputOk 4 = true ∧ inputOk 2 = true ∧ inputOk 8 = true ∧
    m.get Fld.DPLL_QUAL_INTOL * 1000 < absInt (-20001) ∧ ¬ m.get Fld.DPLL_QUAL_INTOL * 1000 < absInt 20000 := by
  decide +kernel
theorem test_dpllInputValidity_intol : check (.dpllInputValidity 4 true (-20001))
    (lab.put Fld.DPLL_QUAL_INTOL 20) (fun t => t.dpll.valid == []) = true := by decide +kernel

theorem witness_DpllFollowsItsInput_phase :
    (st (phaseUnit 2 0)).reaches 3 0x0D 0x44 ∧ (st (phaseUnit 3 1)).reaches 3 0x0D 0x44 ∧
    (∀ k ∈ [0, 1, 2, 3], ∀ q ∈ [0, 1], (phaseUnit k q).get Fld.DPLL_PHASE_CTRL_TARGET = k ∧
      (phaseUnit k q).is Fld.DPLL_PHASE_CTRL_MODE = (q == 1)) ∧
    (let m := lab.updDpll fun x => { x with slewing := true }
     m.dpll.slewing = true ∧ m.dpll.remain = 0) :=
  ⟨reaches_lab (by decide), reaches_lab (by decide), by decide, by decide⟩

/-- Where WIDTH has passed since the edge, and one tick before. -/
theorem witness_TimeIsCounted_width :
    (let m := pulsing 500 1000
     m.on = true ∧ fourOk 3 = true ∧ tabFind m.pins.frameEdge 3 = some 0 ∧
     m.get (Fld.TIME_FRAME_OUT_CFG_WIDTH 3) / 4 ≤ m.time.ticks - 0 ∧
     m.pins.ppsEdge = some 0 ∧ m.get Fld.TIME_PPS_OUT_CFG_WIDTH * 1000 / 4 ≤ m.time.ticks - 0) ∧
    (let m := pulsing 249 1000
     tabFind m.pins.frameEdge 3 = some 0 ∧
     ¬ m.get (Fld.TIME_FRAME_OUT_CFG_WIDTH 3) / 4 ≤ m.time.ticks - 0 ∧
     ¬ m.get Fld.TIME_PPS_OUT_CFG_WIDTH * 1000 / 4 ≤ m.time.ticks - 0) := by decide +kernel

theorem witness_TimeIsCounted_outputs : (outUnit 50000000).on = true ∧ fourOk 3 = true ∧
    (outUnit 50000000).frameDue 3 = true ∧
    (outUnit 50000000).is (Fld.TIME_FRAME_OUT_CFG_MODE 3) = false ∧
    tabFind (outUnit 50000000).pins.frameEdge 3 = none ∧
    (outUnit 50000000).get (Fld.TIME_FRAME_OUT_CFG_DOM 3) = 0 ∧
    ((outUnit 50000000).now : Rat) / unitNs =
      (nearest ((((3 : Int) : Rat) * 1 * 1000000000 / 60 + 0) * 65536) : Rat) / 65536 ∧
    0 < (outUnit 50000000).incr := by decide +kernel
/-! ### DRAM, frame store, repair, vault -/

/-- A frequency change in a state. -/
def fcIn (q : FcState) : Mach := lab.updDram fun d => { d with fc := q }

/-- The DRAM controller is frozen; the diagnostic port addresses the last burst of DRAM. -/
def frozenUnit : Mach :=
  ((lab.put Fld.DRAMC_STATUS_FROZEN 1).put Fld.DRAMC_DIAG_ADDR_HI_ADDR_HI 6).put
    Fld.DRAMC_DIAG_ADDR_LO_ADDR_LO (0xFFFFFFC0 / 64)

/-- The diagnostic port works on the last burst of DRAM. -/
def diagIn (op : Bool) : Mach :=
  (frozenUnit.updDram fun d => { d with diag := some (op, 0x6FFFFFFC0) }).put Fld.DRAMC_DIAG_CTRL_BUSY 1

/-- Lines 3 to 5 of the frame store are written. -/
def fsUnit : Mach :=
  { (lab.setBytes (fsBase + 0x100) [1]).put Fld.FSTORE_UNWRITE_START_START 4 with written := [3, 4, 5] }

/-- REPAIR in a state; macro 0 has all its spare rows. -/
def repairIn (f : Repair → Repair) : Mach := (lab.updRepair f).wr (Reg.REPAIR_MACRO_STATUS 0) 0

/-- A corrected error waits for its write-back. -/
def corrUnit : Mach := (repairIn fun x => { x with corr := [⟨true, 0x40, fsBase + 0x40, 3, false⟩] }).setFlips
  (fsBase + 0x40) 1

/-- The last vault word with a copy that disagrees in bit 5. -/
def vaultUnit : Mach := { lab with vault := ⟨[(255, 9)], [(255, 9)], [(255, 41)]⟩ }

/-- Channel 15 retrained: its second byte lane has an eye below 30 % to write. -/
def weak : ChannelTraining := ⟨15, [⟨0, 0, 40, 40, 40⟩, ⟨0, 1, 40, 9, 40⟩]⟩

/-- A checker test of DRAM word 0 with bit 71, or beyond it. -/
def injWord : Word := 0x80470000

theorem test_dramFreqChangeRequest : check (.dramFreqChangeRequest 3 0x81000000) lab (fun t =>
    t.dram.fc == .requested 1 && t.get Fld.DRAMC_STATUS_FC_BUSY == 1) = true := by decide +kernel
theorem test_dramFreqChangeRequest_frozen : check (.dramFreqChangeRequest 3 0x81000000) frozenUnit (fun t =>
    t.get Fld.DRAMC_FC_STATUS_RESULT == 5 && t.get Fld.DRAMC_FC_STATUS_DONE == 1) = true := by decide +kernel
theorem test_dramFreqChangeStart : check .dramFreqChangeStart (fcIn (.requested 1)) (fun t => t == fcIn (.running 1)) =
    true := by decide +kernel
theorem test_dramFreqChangeNoWindow : check .dramFreqChangeNoWindow (fcIn (.requested 1)) (fun t =>
    t.get Fld.DRAMC_FC_STATUS_RESULT == 3 && t.dram.fc == .idle) = true := by decide +kernel
theorem test_dramFreqChangeDone : check (.dramFreqChangeDone true 77) (fcIn (.running 1)) (fun t =>
    t.get Fld.DRAMC_STATUS_OP == 1 && t.get Fld.DRAMC_STATUS_TSET == 1 &&
    t.get Fld.DRAMC_FC_STATUS_BLACKOUT == 77) = true := by decide +kernel
theorem test_dramFreqChangeReverted : check (.dramFreqChangeReverted [⟨15, 2⟩] 77) (fcIn .returning) (fun t =>
    t.get Fld.DRAMC_FC_STATUS_RESULT == 4 && t.get Fld.DRAMC_STATUS_TRAIN_FAIL == 1 &&
    t.get (Fld.DRAMC_CH_TRAIN_FAIL_KIND 3 3) == 2) = true := by decide +kernel
theorem test_dramRetrain : check (.dramRetrain ⟨15, [⟨0, 0, 40, 31, 35⟩, ⟨0, 1, 40, 40, 40⟩]⟩ true) (lab.put Fld.DRAMC_CTRL_RETRAIN_EN 1) (fun t =>
    t.get (Fld.DRAMC_CH_TRAIN_MARGIN 3 3) == 31 && t.get Fld.DRAMC_STATUS_HOT == 1) = true := by decide +kernel
theorem test_dramRefresh : check (.dramRefresh 15 false) ((lab.put (Fld.HEAD_STATUS_PANIC 19) 1).updDram fun d =>
    { d with debt := [(15, 7)] }) (fun t => t.dram.debt == [(15, 7)] && t.get Fld.DRAMC_REFRESH_FORCED == 1) =
    true := by decide +kernel
theorem test_dramCommandError : check (.dramCommandError 0x40 3 0x6FFFFFFF8) lab (fun t => t.frozen &&
    t.get Fld.DRAMC_FREEZE_INFO_CHANNEL == 15 && t.get Fld.DRAMC_FREEZE_INFO_MASTER == 0x40 &&
    t.get Fld.DRAMC_FREEZE_ADDR_HI_ADDR_HI == 6) = true := by decide +kernel
theorem test_dramFreezeRelease : check (.dramFreezeRelease 3 0xA5C30001) frozenUnit (fun t => !t.frozen) = true := by
  decide +kernel
theorem test_dramFreezeRelease_unconfirmed : check (.dramFreezeRelease 3 0xA5C40001) frozenUnit (fun t => t.frozen) =
    true := by decide +kernel
theorem test_diagRawRead : check (.diagRawRead 3 0x80000000) frozenUnit (fun t =>
    t.dram.diag == some (false, 0x6FFFFFFC0)) = true := by decide +kernel
theorem test_diagWrite : check (.diagWrite 3 0xA0000000) frozenUnit (fun t =>
    t.dram.diag == some (true, 0x6FFFFFFC0)) = true := by decide +kernel
theorem test_diagDone_read : check .diagDone ((diagIn false).setBytes 0x6FFFFFFF8 [1, 2, 3, 4, 5]) (fun t =>
    t.get (Fld.DRAMC_DIAG_DATA_DATA 14) == 0x04030201 && t.get (Fld.DRAMC_DIAG_DATA_DATA 15) == 5 &&
    t.get Fld.DRAMC_DIAG_CTRL_BUSY == 0) = true := by decide +kernel
theorem test_diagDone_write : check .diagDone ((diagIn true).wr (Reg.DRAMC_DIAG_DATA 15) 0x01020304) (fun t =>
    t.bytes 0x6FFFFFFFC 4 == [4, 3, 2, 1]) = true := by decide +kernel
theorem test_fsUnwrite : check (.fsUnwrite 3 0x80000040) fsUnit (fun t => t.written == [3, 5] && t.mem == []) =
    true := by decide +kernel
theorem test_fsUnwriteDone : check .fsUnwriteDone (fsUnit.put Fld.FSTORE_STATUS_UNWRITE_BUSY 1) (fun t =>
    t.get Fld.FSTORE_STATUS_UNWRITE_BUSY == 0) = true := by decide +kernel
theorem test_scrubWriteback : check (.scrubWriteback false) corrUnit (fun t => t.flips == [] &&
    t.repair.corr == []) = true := by decide +kernel
/-- The example of R358: 0x12345678 in channel 6, column 0x578, bank 8, row 582, with check row 57416. -/
theorem test_dramPlace : [dramChannel 0x12345678, dramColumn 0x12345678, dramBank 0x12345678,
    dramRow 0x12345678, checkRow 0x12345678, checkColumn 0x12345678] = [6, 0x578, 8, 582, 57416, 1711] := by decide
/-- Two inverted bits in an unwritten line of the frame store are a hard fault. -/
theorem test_scrubRead_unwritten : check (.scrubRead 1 false [(7, 3)])
    (lab.put Fld.REPAIR_CTRL_FS_PERIOD 60) (fun t => t.repair.faults == [56] &&
      t.get Fld.REPAIR_HARD_FS_HARD == 1 && t.repair.fsSweep == 1) = true := by decide +kernel
theorem test_scrubRead : check (.scrubRead 2 false []) { vaultUnit with repair :=
    { vaultUnit.repair with vaultSweep := 255 } } (fun t => t.vaultCopies 255 == (9, 9, 9) &&
      t.repair.vaultSweep == 0) = true := by decide +kernel
theorem test_repairStart : check .repairStart (repairIn fun x => { x with faults := [0x20000] }) (fun t =>
    t.repair.job == some (.spareRow 0x20000) && t.sparesLeft 0 == 7) = true := by decide +kernel
theorem test_repairStart_granule : check .repairStart (repairIn fun x =>
    { x with faults := [0x20000], sparesTaken := [(0, 8)] }) (fun t =>
      t.repair.job == some (.granule 2 1984) && t.get Fld.REPAIR_STATUS_RESERVE_FREE == 63) = true := by
  decide +kernel
theorem test_spareRowCopyDone : check (.spareRowCopyDone false) (repairIn fun x =>
    { x with job := some (.spareRow 0x20000) }) (fun t => t.repair.job.isNone) = true := by decide +kernel
theorem test_granuleCopyDone : check (.granuleCopyDone true) (repairIn fun x =>
    { x with job := some (.granule 1983 2047) }) (fun t => t.get (Fld.REPAIR_GMAP_STATE 1983) == 3 &&
      t.get Fld.REPAIR_STATUS_RETIRED == 1) = true := by decide +kernel
theorem test_repairOfflineRead : check (.repairOfflineRead 3) (repairIn fun x => { x with offline := [(5, true)] })
    (fun t => t.sent == [.data 3 [5, 0, 0, 0xA0]] && t.repair.offline == []) = true := by decide +kernel
theorem test_eccInjArm : check (.eccInjArm 3 injWord) lab (fun t => t.repair.inject == some ⟨0, false⟩) = true := by
  decide +kernel
theorem test_eccInjArm_refused : check (.eccInjArm 3 (injWord + 0x10000)) lab (fun t => t.repair.inject.isNone &&
    t.get Fld.REPAIR_INJ_STATUS_RESULT == 5) = true := by decide +kernel
theorem test_vaultRead : check (.vaultRead 3 255) vaultUnit (fun t => t.sent == [.data 3 [9, 0, 0, 0]] &&
    t.vaultCopies 255 == (9, 9, 9) && t.get Fld.VAULT_DISAGREE_COUNT_COUNT == 1 &&
    t.get Fld.VAULT_STATUS_FIRST_WORD == 255) = true := by decide +kernel
theorem test_vaultWrite : check (.vaultWrite 3 255 77) lab (fun t => t.vaultCopies 255 == (77, 77, 77)) = true := by
  decide +kernel
theorem test_vaultWrite_locked : check (.vaultWrite 3 255 77) (lab.put Fld.PROT_BOOT_LOCK_LOCK 1) (fun t =>
    t.vaultCopies 255 == (0, 0, 0) && t.get Fld.VAULT_STATUS_WRITE_DROPPED == 1 &&
    t.get Fld.PROT_VIOL_COUNT_COUNT == 1) = true := by decide +kernel
theorem test_vaultInject : check (.vaultInject 3 0x81FF001F) lab (fun t =>
    t.vaultCopies 255 == (0, 0x80000000, 0)) = true := by decide +kernel
theorem test_vaultInject_refused : check (.vaultInject 3 0x80FF001F) vaultUnit (fun t =>
    t.get Fld.VAULT_STATUS_INJ_REFUSED == 1 && t.vault == vaultUnit.vault) = true := by decide +kernel
theorem test_protFence : check (.protFence 3) lab (fun t => t.sent == [.data 3 [1, 0, 0, 0]]) = true := by
  decide +kernel
theorem test_protFenceDone : check .protFenceDone { lab with fences := [(3, lab.nextAccess, .data)] } (fun t =>
    t.fences == [] && t.sent == [.data 3 [1, 0, 0, 0]]) = true := by decide +kernel

theorem witness_FrequencyChanges :
    (st frozenUnit).reaches 3 0x06 0x20 ∧ frozenUnit.frozen = true ∧ (st lab).reaches 3 0x06 0x20 ∧
    lab.frozen = false ∧ lab.is Fld.DRAMC_STATUS_FC_BUSY = false ∧
    (lab.boot.romStarted && !lab.boot.trained) = false ∧
    bitsOf (0x80000000 : Word).toNat 24 2 = lab.get Fld.DRAMC_STATUS_OP ∧
    bitsOf (0x83000000 : Word).toNat 24 2 ≠ lab.get Fld.DRAMC_STATUS_OP ∧
    ((fcIn (.requested 3)).dram.fc = .requested 3 ∧ 13000 < (fcIn (.requested 3)).tolMin ∧
      (fcIn (.requested 3)).anyPanic = false) ∧
    (fcIn (.running 3)).dram.fc = .running 3 ∧ (fcIn .returning).dram.fc = .returning ∧
    [(⟨15, 3⟩ : LaneFailure)].all laneFailureOk = true ∧ trainingOk weak = true ∧ failingLanes weak = 2 ∧
    failingLanes { weak with eyes := weak.eyes.take 1 } = 0 ∧
    (let m := lab.put Fld.DRAMC_CTRL_RETRAIN_EN 1
     m.is Fld.DRAMC_CTRL_RETRAIN_EN = true ∧ m.anyPanic = false ∧ m.frozen = false ∧ m.dram.fc = .idle ∧
     m.is Fld.DRAMC_STATUS_SREF = false) ∧ frozenUnit.frozen = true ∧
    channelOk 15 = true ∧ (lab.put (Fld.HEAD_STATUS_PANIC 19) 1).anyPanic = true :=
  ⟨reaches_lab (by decide), by decide, reaches_lab (by decide), by decide, by decide, by decide, by decide,
    by decide, by decide +kernel, by decide, by decide, by decide, by decide, by decide, by decide,
    by decide +kernel, by decide, by decide, by decide +kernel⟩

theorem witness_FreezesAndDiagnosis :
    (mstOk 0x40 = true ∧ lab.frozen = false ∧ lab.dram.fc = .idle ∧ (fcIn (.running 1)).dram.fc = .running 1 ∧
      (fcIn (.running 1)).frozen = false) ∧
    (st frozenUnit).reaches 3 0x06 0x50 ∧ (st frozenUnit).reaches 3 0x06 0x60 ∧
    (frozenUnit.frozen = true ∧ frozenUnit.dram.diag = none) ∧
    bitsOf (0xA5C30001 : Word).toNat 16 16 = 0xA5C3 ∧ bitsOf (0xA5C40001 : Word).toNat 16 16 ≠ 0xA5C3 ∧
    (∀ op ∈ [true, false], (diagIn op).dram.diag = some (op, 0x6FFFFFFC0) ∧ (diagIn op).frozen = true ∧
      (diagIn op).flips = []) ∧ 0x6FFFFFFC0 + 64 = 0x700000000 ∧
    (st (diagIn true)).memoryOk :=
  ⟨by decide, reaches_lab (by decide), reaches_lab (by decide), by decide, by decide, by decide, by decide,
    by decide, by unfold State.memoryOk; decide⟩

theorem witness_UnwritingAndRepair_unwriting :
    (st fsUnit).reaches 3 0x0A 0x44 ∧ fsUnit.is Fld.FSTORE_STATUS_UNWRITE_BUSY = false ∧
    bitsOf (0x80000040 : Word).toNat 6 21 = 1 ∧ (fsUnit.rangeDenied 3 (fsBase + 4 * 64) (1 * 64)).2 = false ∧
    fsUnit.leaseHit (fsBase + 4 * 64) (1 * 64) = none ∧
    (bitsOf (0x80000000 : Word).toNat 6 21 = 0 ∧ (fsUnit.rangeDenied 3 (fsBase + 4 * 64) (0 * 64)).2 = false ∧
      fsUnit.leaseHit (fsBase + 4 * 64) (0 * 64) = none) ∧
    (let m := fsUnit.put Fld.FSTORE_STATUS_UNWRITE_BUSY 1
     (st m).reaches 3 0x0A 0x44 ∧ m.is Fld.FSTORE_STATUS_UNWRITE_BUSY = true) :=
  ⟨reaches_lab (by decide), by decide, by decide, by decide +kernel, by decide +kernel, by decide +kernel,
    reaches_lab (by decide), by decide⟩

theorem test_fsUnwrite_of_length_0 : check (.fsUnwrite 3 0x80000000) fsUnit (fun t =>
    t.get Fld.FSTORE_STATUS_UNWRITE_BUSY == 0 && t.written == fsUnit.written) = true := by decide +kernel

theorem witness_UnwritingAndRepair_repair :
    (corrUnit.repair.corr = [⟨true, 0x40, fsBase + 0x40, 3, false⟩] ∧ corrUnit.flipMask (fsBase + 0x40) ≠ 0 ∧
      corrUnit.injected (fsBase + 0x40) = false ∧ beyondCorrection (corrUnit.flipMask (fsBase + 0x40)) = false ∧
      (fsBase + 0x40) % 8 = 0 ∧ (fsBase + 0x40) / 64 * 64 = fsBase + 0x40 ∧
      (∀ i, i < 8 → fsBase + 0x40 + 8 * i ≠ fsBase + 0x40 → corrUnit.flipMask (fsBase + 0x40 + 8 * i) = 0) ∧
      (corrUnit.scrubWriteback true).repair.faults = [0x40]) ∧
    (dramUp.scrubBlocked = false ∧ dramUp.get Fld.REPAIR_CTRL_DRAM_PERIOD ≠ 0 ∧ dramUp.flips = [] ∧
      dramUp.memDenied mstScrub (dramUp.repair.dramSweep * 64) false = none) ∧
    ([(7, 2 ^ 72 - 1)].all fun u => decide (u.1 < 8 ∧ u.2 < 2 ^ 72)) = true ∧
    (let m := repairIn fun x => { x with faults := [0x20000] }
     m.repair.job = none ∧ m.repair.faults = [0x20000] ∧ m.sparesLeft (macroOf 0x20000) ≠ 0) ∧
    (repairIn fun x => { x with faults := [0x20000], sparesTaken := [(0, 8)] }).sparesLeft (macroOf 0x20000) = 0 ∧
    (repairIn fun x => { x with job := some (.spareRow 0x20000) }).repair.job = some (.spareRow 0x20000) ∧
    (repairIn fun x => { x with job := some (.granule 1983 2047) }).repair.job = some (.granule 1983 2047) ∧
    (let m := repairIn fun x => { x with offline := [(2 ^ 23 - 1, true)] }
     (st m).shows 3 0x0B 0x40 ∧ m.repair.offline = [(2 ^ 23 - 1, true)]) ∧
    ((st lab).reaches 3 0x0B 0x50 ∧ lab.repair.inject = none ∧
      (lab.wr Reg.REPAIR_INJ_CTRL injWord).injectKey = some 0 ∧ bitsOf injWord.toNat 16 7 = 71 ∧
      bitsOf (injWord + 0x10000).toNat 16 7 = 72 ∧
      (lab.wr Reg.REPAIR_INJ_CTRL 0xE0000000).injectKey = none) :=
  ⟨by decide, by decide +kernel, by decide, by decide, by decide, by decide, by decide,
    ⟨shows_lab (by decide), by decide⟩, reaches_lab (by decide), by decide +kernel⟩

theorem witness_VaultVotes :
    vaultOk 255 = true ∧ (st vaultUnit).shows 3 0x02 (0x1000 + 4 * 255) ∧
    (vaultUnit.vaultCopies 255 ≠ (9, 9, 9) ∧ vaultUnit.vaultMajority 255 = 9) ∧
    lab.vaultCopies 255 = (0, 0, 0) ∧ (st lab).reaches 3 0x02 (0x1000 + 4 * 255) ∧
    (mstOk 3 = true ∧ (lab.put Fld.PROT_BOOT_LOCK_LOCK 1).locked = true) ∧
    (st lab).reaches 3 0x02 8 ∧
    (∀ p ∈ [lab.vaultCopies 255 |>.1, (lab.vaultCopies 255).2.1, (lab.vaultCopies 255).2.2].zipIdx,
      p.2 ≠ 1 → p.1 = lab.vaultMajority 255) ∧
    (∃ p ∈ [vaultUnit.vaultCopies 255 |>.1, (vaultUnit.vaultCopies 255).2.1,
        (vaultUnit.vaultCopies 255).2.2].zipIdx, p.2 ≠ 0 ∧ p.1 ≠ vaultUnit.vaultMajority 255) ∧
    (st lab).shows 3 0x01 8 ∧ lab.drained lab.nextAccess = true ∧
    (seqHeld 3 (.read 0 1 0x1C 0 false)).drained 1 = false :=
  ⟨by decide, shows_lab (by decide), by decide, by decide, reaches_lab (by decide), by decide,
    reaches_lab (by decide), by decide, by decide, shows_lab (by decide), by decide, by decide⟩
/-! ### Paired operation -/

/-- The standby of a pair, with its port up, booted. -/
def standbyUnit : Mach :=
  ((lab.put Fld.PAIR_CTRL_EN 1).put Fld.PAIR_STATUS_LINK_UP 1).put Fld.SYS_PWR_STATUS_BOOT_READY 1

/-- Side B of a pair, which holds possession and is protected. -/
def activeUnit : Mach :=
  ((((standbyUnit.put Fld.PAIR_CTRL_SIDE 1).put Fld.PAIR_STATUS_POSS_LOW 1).put
    Fld.PAIR_STATUS_PROTECTED 1).put Fld.PAIR_STATUS_SYNCED 1).updPair fun p => { p with poss := true }

/-- The partner is to hand over. -/
def granted : Mach := (standbyUnit.put Fld.PAIR_STATUS_POSS_LOW 1).updPair fun p => { p with grant := some 5 }

/-- The watchdog is set to 100 ms and has run out. -/
def lateUnit : Mach :=
  { activeUnit.put Fld.PAIR_SYNC_WDOG_TIME 1 with time := { activeUnit.time with ticks := 25000000 } }

/-- A frame's results on head 19. -/
def sig (crc : Word) (pass : Bool) : SigMsg := ⟨19, 4, crc, [], pass, false, true, false⟩

/-- The results of a frame wait for the partner's. -/
def unanswered (m : Mach) (s : SigMsg) : Mach := m.updPair fun p => { p with ownSigs := [s] }

theorem test_pairEnable : check (.pairEnable 3 0x80000000) (lab.vaultStore 0x30 0x80000000) (fun t => t.paired) =
    true := by decide +kernel
theorem test_pairEnable_refused : check (.pairEnable 3 0x80000000) lab (fun t => !t.paired &&
    t.get Fld.PAIR_STATUS_NO_REFEREE == 1) = true := by decide +kernel
theorem test_pairDisable : check (.pairDisable 3 0x60020000) activeUnit (fun t => !t.paired && !t.pair.poss &&
    t.get Fld.PAIR_LAST_CAUSE_CAUSE == causeHost && t.get Fld.PAIR_STATUS_SYNCED == 0) = true := by decide +kernel
theorem test_possNRise : check .possNRise granted (fun t => t.pair.poss &&
    t.get Fld.PAIR_LAST_CAUSE_CAUSE == 5) = true := by decide +kernel
theorem test_possNFall : check .possNFall standbyUnit (fun t => t.get Fld.PAIR_STATUS_POSS_LOW == 1) = true := by
  decide +kernel
theorem test_possQuietExpiry : check .possQuietExpiry standbyUnit (fun t => t.pair.poss &&
    t.get Fld.PAIR_LAST_CAUSE_CAUSE == causePartnerLost) = true := by decide +kernel
theorem test_pairStatusSend : check .pairStatusSend activeUnit (fun t =>
    t.sent == [.pair (.status true none)]) = true := by decide +kernel
theorem test_pairStatusReceive_split : check (.pairStatusReceive true none) activeUnit (fun t => !t.pair.poss &&
    t.get Fld.PAIR_STATUS_SPLIT == 1 && t.get Fld.PAIR_LAST_CAUSE_CAUSE == causeSplit) = true := by decide +kernel
theorem test_pairStatusReceive_handover : check (.pairStatusReceive false (some 5)) standbyUnit (fun t =>
    t.pair.poss && t.get Fld.PAIR_LAST_CAUSE_CAUSE == 5) = true := by decide +kernel
theorem test_pairWdogExpiry : check .pairWdogExpiry lateUnit (fun t => !t.pair.poss &&
    t.pair.announced == some causeWdog) = true := by decide +kernel
theorem test_pairWdogKick : check (.pairWdogKick 3 1) lateUnit (fun t => t.pair.kick == 25000000) = true := by
  decide +kernel
theorem test_pairHandover : check (.pairHandover 3 0xA5C30002) activeUnit (fun t => !t.pair.poss &&
    t.pair.announced == some causeHost) = true := by decide +kernel
theorem test_pairHandover_unconfirmed : check (.pairHandover 3 0xA5C40002) activeUnit (fun t => t.pair.poss &&
    t.get Fld.PAIR_STATUS_CMD_REJECT == 1) = true := by decide +kernel
theorem test_pairClearFault : check (.pairClearFault 3 4) (standbyUnit.put Fld.PAIR_STATUS_SELF_FAULTY 1) (fun t =>
    t.get Fld.PAIR_STATUS_SELF_FAULTY == 0) = true := by decide +kernel
theorem test_pairLinkUp : check .pairLinkUp lab (fun t => t.get Fld.PAIR_STATUS_LINK_UP == 1) = true := by
  decide +kernel
theorem test_pairLinkDown : check .pairLinkDown standbyUnit (fun t => t.get Fld.PAIR_STATUS_LINK_UP == 0) = true := by
  decide +kernel
theorem test_pairPgChange : check (.pairPgChange true) standbyUnit (fun t =>
    t.get Fld.PAIR_STATUS_PARTNER_PG == 1) = true := by decide +kernel
theorem test_pairMirrorWrite : check (.pairMirrorWrite (.register 0x93 0x20 0 0x02800010)) standbyUnit (fun t =>
    t.rd (regKey 0 0x93 0x20) == 0x02800010) = true := by decide +kernel
theorem test_pairMirrorWrite_memory : check (.pairMirrorWrite (.memory 0x6FFFFFFFF [7]))
    { standbyUnit with boot := dramUp.boot } (fun t => t.mem == [(0x6FFFFFFFF, 7)]) = true := by decide +kernel
theorem test_ballotReceive : check (.ballotReceive ⟨19, false, false, 0, 4, []⟩) standbyUnit (fun t =>
    t.pair.ballots.map (fun w => w.ballot.grid) == [4]) = true := by decide +kernel
theorem test_signatureReceive_match : check (.signatureReceive (sig 1 true)) (unanswered activeUnit (sig 1 true))
    (fun t => t.pair.syncRun == 1 && t.pair.ownSigs == []) = true := by decide +kernel
theorem test_signatureReceive_mismatch : check (.signatureReceive (sig 1 true)) (unanswered activeUnit (sig 2 true))
    (fun t => t.get Fld.PAIR_CNT_UNRESOLVED_COUNT == 1 && t.get Fld.PAIR_MISMATCH_INFO_HEAD == 19 &&
      t.pair.poss) = true := by decide +kernel
theorem test_signatureReceive_referee : check (.signatureReceive (sig 1 true)) (unanswered activeUnit (sig 2 false))
    (fun t => !t.pair.poss && t.get Fld.PAIR_STATUS_SELF_FAULTY == 1 &&
      t.get Fld.PAIR_LAST_CAUSE_CAUSE == causeReferee) = true := by decide +kernel

theorem witness_PossessionChanges :
    (let m := lab.vaultStore 0x30 0x80000000
     (st m).reaches 3 0x15 0 ∧ m.paired = false ∧ (m.vaultMajority 0x30).getLsbD 31 = true) ∧
    ((st lab).reaches 3 0x15 0 ∧ lab.paired = false ∧ (lab.vaultMajority 0x30).getLsbD 31 = false) ∧
    ((st activeUnit).reaches 3 0x15 0 ∧ activeUnit.paired = true) ∧
    (granted.pair.poss = false ∧ granted.pair.grant = some 5 ∧ granted.eligible = true) ∧
    (standbyUnit.pair.poss = false ∧ standbyUnit.pair.grant = none ∧
      standbyUnit.is Fld.PAIR_STATUS_POSS_LOW = false ∧ standbyUnit.eligible = true ∧
      standbyUnit.pair.announced = none ∧ standbyUnit.pairTalks = true) ∧
    (activeUnit.pairTalks = true ∧ activeUnit.pair.poss = true ∧ activeUnit.is Fld.PAIR_CTRL_SIDE = true) ∧
    (lateUnit.paired = true ∧ lateUnit.pair.poss = true ∧ 0 < lateUnit.wdogTicks ∧
      lateUnit.pair.kick + lateUnit.wdogTicks = lateUnit.time.ticks) ∧
    ((activeUnit.put Fld.PAIR_CTRL_SIDE 0).pairTalks = true ∧
      (activeUnit.put Fld.PAIR_CTRL_SIDE 0).pair.poss = true ∧
      (activeUnit.put Fld.PAIR_CTRL_SIDE 0).is Fld.PAIR_CTRL_SIDE = false) ∧
    (standbyUnit.pairTalks = true ∧ ((0x60020000 : Word) ^^^ activeUnit.rd Reg.PAIR_CTRL) &&& 0x600F0000 = 0) ∧
    (∀ k ∈ [1, 2, 3, 4, 5, 6, 7], (BitVec.ofNat 32 k).toNat % 8 = k) ∧
    (st activeUnit).reaches 3 0x15 8 ∧
    ((0xA5C30002 : Word).toNat % 8 = 2 ∧ bitsOf (0xA5C30002 : Word).toNat 16 16 = 0xA5C3 ∧
      bitsOf (0xA5C40002 : Word).toNat 16 16 ≠ 0xA5C3 ∧ activeUnit.is Fld.PAIR_STATUS_PROTECTED = true ∧
      standbyUnit.is Fld.PAIR_STATUS_PROTECTED = false) :=
  ⟨⟨reaches_lab (by decide), by decide⟩, ⟨reaches_lab (by decide), by decide⟩,
    ⟨reaches_lab (by decide), by decide⟩, by decide, by decide, by decide, by decide, by decide, by decide +kernel,
    by decide, reaches_lab (by decide), by decide⟩

theorem witness_PartnersAreWatched :
    lab.is Fld.PAIR_STATUS_LINK_UP = false ∧
    (standbyUnit.is Fld.PAIR_STATUS_LINK_UP = true ∧ standbyUnit.pair.ownSigs = []) ∧
    (standbyUnit.pairTalks = true ∧ standbyUnit.pair.poss = false ∧
      mirrorOk (.register 0x93 0x20 0 1) = true ∧ mirroredReg 0x93 0x20 = true ∧
      standbyUnit.regDenied mstPair 0x93 0x20 true = none ∧ (findReg 0x93 0x20).isSome = true ∧
      mirrorOk (.memory 0x6FFFFFFFF [7]) = true ∧ headOk 19 = true) ∧
    ((unanswered activeUnit (sig 2 true)).pairTalks = true ∧
      (unanswered activeUnit (sig 2 true)).pair.ownSigs.find? (sameFrame (sig 1 true)) = some (sig 2 true) ∧
      standbyUnit.pair.ownSigs.find? (sameFrame (sig 1 true)) = none) ∧
    (activeUnit.pair.poss = true ∧ (sig 1 false).refereePass = false ∧ (sig 1 true).refereePass = true) ∧
    (standbyUnit.pair.poss = false ∧ (some 19 : Option Nat).isSome = true) := by
  refine ⟨by decide, by decide, by decide +kernel, by decide, by decide, by decide⟩

/-- The active with a frame the partner has not answered; its partner was heard `age` ticks ago. -/
def aloneUnit (age : Nat) : Mach :=
  { unanswered activeUnit (sig 1 false) with
    time := { activeUnit.time with ticks := age }
    pair := { (unanswered activeUnit (sig 1 false)).pair with partnerEligible := true, heard := some 0 } }

/-- The last message that counts is 100 µs old, and one that does not a tick older. -/
theorem witness_PartnersAreWatched_alone :
    (aloneUnit 25000).pair.poss = true ∧ (aloneUnit 25000).pair.partnerEligible = true ∧
    (aloneUnit 25000).pair.heard = some 0 ∧ (aloneUnit 25000).time.ticks ≤ 0 + 25000 ∧
    ¬ (aloneUnit 25001).time.ticks ≤ 0 + 25000 ∧
    (aloneUnit 25000).is Fld.PAIR_STATUS_LINK_UP = true := by decide
theorem test_pairLinkDown_alone : check .pairLinkDown (aloneUnit 25000) (fun t => !t.pair.poss &&
    t.get Fld.PAIR_STATUS_SELF_FAULTY == 1) = true := by decide +kernel
theorem test_pairLinkDown_silent : check .pairLinkDown (aloneUnit 25001) (fun t => t.pair.poss) = true := by
  decide +kernel
/-! ### Touch keys -/

/-- Matrix mode of 24 × 24 elements; the last element is enabled with TOUCH_TH = 100. -/
def touchUnit : Mach :=
  (((lab.wr Reg.TOUCH_CTRL 0x40181800).wr (Reg.TOUCH_ELEM_CFG 575) 0x80064032).put
    Fld.TOUCH_SCAN_SCAN_PERIOD 0xFFFF).put (Fld.TOUCH_ELEM_INDEX_INDEX 3) 575

/-- Enabled, with the calibration to end. -/
def calUnit : Mach := (touchUnit.put Fld.TOUCH_CTRL_EN 1).updTouch fun t => { t with calibrating := true }

/-- Scanning. -/
def scanUnit (f : Touch → Touch) : Mach :=
  ((touchUnit.put Fld.TOUCH_CTRL_EN 1).put Fld.TOUCH_STATUS_SCANNING 1).updTouch f

/-- A scan ends in which the last element is 200 above its baseline; one scan debounces. -/
def pressUnit : Mach :=
  (((scanUnit fun t => { t with scan := some [(575, 0x80064032)] }).updElem 575 fun x =>
    { x with hasBase := true }).put (Fld.TOUCH_ELEM_DATA_BASELINE 575) 1000).put Fld.TOUCH_DEB_DEB_ON 1

/-- Keep, with channel 47 to wake on its second count 50 above its base. -/
def keepUnit : Mach :=
  (((inPhase .keep).put Fld.TOUCH_WAKE_MASK1_CH 0x8000).put Fld.TOUCH_WAKE_CFG_WAKE_TH 50).put
    Fld.SYS_PWR_CTRL_TOUCH_WAKE 1
def wakeUnit (n : Nat) : Mach := keepUnit.updTouch fun t => { t with wake := [(47, ⟨1000, 0, n⟩)] }

theorem test_touchEnable : check (.touchEnable 3 0xC0181800) touchUnit (fun t => t.is Fld.TOUCH_CTRL_EN &&
    t.touch.calibrating) = true := by decide +kernel
/-- Hop 0 is not enabled: the calibration starts at hop 1. -/
theorem test_touchEnable_hop : check (.touchEnable 3 0xC0181800) (touchUnit.put Fld.TOUCH_HOP_CTRL_HOP_EN 6)
    (fun t => t.get Fld.TOUCH_STATUS_HOP == 1) = true := by decide +kernel
theorem test_touchEnable_range : check (.touchEnable 3 0xC0191800) touchUnit (fun t => !t.is Fld.TOUCH_CTRL_EN &&
    t.get Fld.TOUCH_STATUS_TIMING_REJECT == 1 && !t.touch.calibrating) = true := by decide +kernel
theorem test_touchCalibrationDone : check (.touchCalibrationDone ⟨[(575, [(0, 64000)])], [(0, List.replicate 48 (-7))]⟩) calUnit (fun t =>
    t.get Fld.TOUCH_STATUS_SCANNING == 1 && t.get (Fld.TOUCH_HOP_NOISE 0) == 7 && t.get (Fld.TOUCH_ELEM_DATA_BASELINE 575) == 1535) = true := by
  decide +kernel
theorem test_touchScanStart : check .touchScanStart (scanUnit id) (fun t =>
    t.touch.scan == some [(575, 0x80064032)]) = true := by decide +kernel
theorem test_touchScanStart_test : check .touchScanStart (scanUnit fun t => { t with go := some 2 }) (fun t =>
    t.touch.test == some 2 && t.get Fld.TOUCH_STATUS_TEST_BUSY == 1) = true := by decide +kernel
theorem test_touchScanEnd : check (.touchScanEnd [(575, 64335)] (List.replicate 48 (-9)) []) pressUnit (fun t =>
    t.get (Fld.TOUCH_ELEM_STATUS_STATE 575) == 1 && t.touch.change == [(575, 1)] &&
    t.get (Fld.TOUCH_PRESSED_BITS 17) == 0x80000000 && t.get (Fld.TOUCH_HOP_NOISE 0) == 9) = true := by
  decide +kernel
theorem test_touchRebase : check (.touchRebase 3 1) touchUnit (fun t => (t.elem 575).rebase) = true := by
  decide +kernel
theorem test_touchRebaseAll : check (.touchRebaseAll 3 2) (scanUnit id) (fun t => t.touch.calibrating &&
    (t.elem 575).rebase && t.get Fld.TOUCH_STATUS_SCANNING == 0) = true := by decide +kernel
theorem test_touchTestGo : check (.touchTestGo 3 0xB0000000) (scanUnit id) (fun t => t.touch.go == some 0) = true := by
  decide +kernel
theorem test_touchTestPeriod : check .touchTestPeriod ((scanUnit id).put Fld.TOUCH_TEST_CTRL_TEST_PERIOD 1) (fun t =>
    t.touch.auto == [0, 1]) = true := by decide +kernel
theorem test_touchTestDone_open : check (.touchTestDone [] true) (scanUnit fun t => { t with test := some 2 }) (fun t =>
    t.get Fld.TOUCH_TEST_STATUS_RESULT == 3 && t.touch.test.isNone) = true := by decide +kernel
theorem test_touchTestDone : check (.touchTestDone [⟨0, 1, 0⟩, ⟨47, 1, 0⟩] false)
    ((lab.wr Reg.TOUCH_CTRL 0xC0010100).updTouch fun t => { t with test := some 0 }) (fun t =>
      t.get Fld.TOUCH_TEST_STATUS_RESULT == 2 && t.get Fld.TOUCH_OPEN_MAP0_CH == 1 &&
      t.get (Fld.TOUCH_ELEM_STATUS_STATE 0) == 3) = true := by decide +kernel
theorem test_touchChangeRead : check (.touchChangeRead 3) (scanUnit fun t => { t with change := [(575, 2)] }) (fun t =>
    t.sent == [.data 3 [0x3F, 2, 0, 0x82]] && t.touch.change == []) = true := by decide +kernel
theorem test_touchWakeScan : check (.touchWakeScan [(47, 1050)]) (wakeUnit 0) (fun t =>
    t.touch.wake == [(47, ⟨1000, 0, 1⟩)] && t.pwr.phase == .keep) = true := by decide +kernel
theorem test_touchWakeScan_wakes : check (.touchWakeScan [(47, 1050)]) (wakeUnit 1) (fun t =>
    t.pwr.phase != .keep) = true := by decide +kernel

theorem witness_TouchScansRun :
    ((st touchUnit).reaches 3 0x16 0 ∧ touchUnit.is Fld.TOUCH_CTRL_EN = false ∧
      (touchUnit.wr Reg.TOUCH_CTRL 0xC0181800).touchRangeOk = true ∧
      (touchUnit.wr Reg.TOUCH_CTRL 0xC0181800).touchTooLong = false ∧
      (touchUnit.wr Reg.TOUCH_CTRL 0xC0191800).touchRangeOk = false) ∧
    (calUnit.on = true ∧ calUnit.touch.calibrating = true ∧ calUnit.is Fld.TOUCH_CTRL_EN = true ∧
      calUnit.touch.scan = none ∧ calUnit.touch.test = none ∧ 0 ∈ calUnit.touchHops ∧
      tabFind [(0, List.replicate 48 (-7 : Int))] 0 = some (List.replicate 48 (-7)) ∧
      575 ∈ calUnit.touchElems [(575, [(0, 64000)])] ∧
      575 ∈ (calUnit.scanned calUnit.elemCfgs).map Prod.fst ∧
      calUnit.get (Fld.TOUCH_ELEM_STATUS_STATE 575) ≠ stFault) ∧
    (∀ p ∈ [(none, []), (some 2, []), (none, [0, 1])], let m := scanUnit fun t => { t with go := p.1, auto := p.2 }
      m.on = true ∧ m.is Fld.TOUCH_STATUS_SCANNING = true ∧ m.touch.calibrating = false ∧
      m.touch.scan = none ∧ m.touch.test = none ∧ m.touch.go = p.1 ∧ m.touch.auto = p.2) ∧
    pressUnit.touch.scan = some [(575, 0x80064032)] ∧
    (let m := pressUnit.put (Fld.TOUCH_ELEM_STATUS_DELTA 575) 100
     (m.elem 575).down = false ∧ (m.elem 575).rebase = false ∧
      (bitsOf (0x80064032 : Word).toNat 12 12 : Int) ≤ signedOf 16 (m.get (Fld.TOUCH_ELEM_STATUS_DELTA 575)) ∧
      m.get Fld.TOUCH_DEB_DEB_ON ≤ (m.elem 575).onRun + 1) ∧
    ((wakeUnit 0).pwr.phase = .keep ∧ ((wakeUnit 0).wakeScan [(47, 1050)]).2 = false ∧
      ((wakeUnit 1).wakeScan [(47, 1050)]).2 = true) :=
  ⟨⟨reaches_lab (by decide), by decide +kernel⟩, by decide +kernel, by decide, by decide, by decide,
    by decide +kernel⟩

theorem witness_TouchScansRun_commands :
    ((st (scanUnit id)).reaches 3 0x16 0x80 ∧ (scanUnit id).get (Fld.TOUCH_ELEM_INDEX_INDEX 3) = 575 ∧
      575 < (scanUnit id).touchCount ∧ (scanUnit id).is Fld.TOUCH_CTRL_EN = true) ∧
    (st (scanUnit id)).reaches 3 0x16 0x50 ∧
    ((scanUnit id).put Fld.TOUCH_TEST_CTRL_TEST_PERIOD 1).get Fld.TOUCH_TEST_CTRL_TEST_PERIOD ≠ 0 ∧
    (let m := scanUnit fun t => { t with test := some 2 }
     m.touch.test = some 2 ∧ m.refcapRefused = false) ∧
    (let m := (lab.wr Reg.TOUCH_CTRL 0xC0010100).updTouch fun t => { t with test := some 2 }
     m.touch.test = some 2 ∧ m.refcapRefused = true) ∧
    (let m := (lab.wr Reg.TOUCH_CTRL 0xC0010100).updTouch fun t => { t with test := some 0 }
     m.touch.test = some 0 ∧ (m.testChannels 0).contains 0 = true ∧ readingFails 0 ⟨0, 199 / 100, 0⟩ = true ∧
      readingFails 0 ⟨0, 2, 0⟩ = false ∧ 0 < m.touchCount) ∧
    (let m := scanUnit fun t => { t with test := some 2 }
     (st m).reaches 3 0x16 0 ∧ m.is Fld.TOUCH_CTRL_EN = true ∧ m.touch.test = some 2 ∧
      ((0x40181800 : Word) ^^^ m.rd Reg.TOUCH_CTRL) &&& 0x403F3F00 = 0) ∧
    (let m := scanUnit fun t => { t with change := [(575, 3)] }
     (st m).shows 3 0x16 0x84 ∧ m.touch.change = [(575, 3)]) :=
  ⟨⟨reaches_lab (by decide), by decide⟩, reaches_lab (by decide), by decide, by decide, by decide,
    by decide +kernel, ⟨reaches_lab (by decide), by decide⟩, shows_lab (by decide), by decide⟩
/-! ### Compression and check units -/

/-- A descriptor of 64 bytes for DEFL: `op`, `format`, `n` input bytes at 0x100, `k` output bytes at 0x200,
the record at 0x300. -/
def deflJob (op format n k : Nat) : List Byte :=
  [BitVec.ofNat 8 op, BitVec.ofNat 8 format, 0, 0] ++ toLE 4 n ++ toLE 8 0x100 ++ toLE 8 0x200 ++ toLE 4 k ++
    toLE 4 0 ++ toLE 8 0x300 ++ toLE 8 0 ++ toLE 8 0 ++ toLE 8 0

/-- DRAM runs and memory may be reached; queue 15 of DEFL is on. -/
def deflUnit : Mach := (dramUp.put Fld.DEFL_CTRL_EN 1).put (Fld.DEFL_Q_STATUS_EN 15) 1

/-- A job waits in queue 15. -/
def deflWaits (desc : List Byte) : Mach := deflUnit.updDeflQ 15 fun r => { r with jobs := [⟨7, 3, desc⟩] }

/-- A job of queue 15 runs. -/
def deflRuns (desc : List Byte) : Mach := deflUnit.updDeflQ 15 fun r => { r with running := some ⟨7, 3, desc⟩ }

/-- A check descriptor: `kind`, `flags`, `n` bytes at 0x100, the record at 0x300. -/
def checkJob (kind flags n expect : Nat) : List Byte :=
  [BitVec.ofNat 8 kind, BitVec.ofNat 8 flags, 0, 0] ++ toLE 4 n ++ toLE 8 0x100 ++ toLE 8 0x300 ++
    toLE 4 expect ++ List.replicate 36 0

/-- A job of the debug master waits at unit 7. -/
def checkWaits (desc : List Byte) : Mach := dramUp.updCheck 7 fun r => { r with jobs := [⟨7, 3, desc⟩] }

/-- A protected message: ALIVE = 5, its length, its CRC-32C, and a payload. -/
def message (payload : List Byte) : List Byte :=
  let n := toLE 2 (8 + payload.length)
  [5, 0] ++ n ++ toLE 4 ((crcPreset 1).result ((crcPreset 1).bytes 0xFFFFFFFF ([5, 0] ++ n ++ payload))) ++ payload

/-- A message waits to be verified by unit 7, as a job of a kind. -/
def messageWaits (kind : Nat) (payload : List Byte) : Mach :=
  (checkWaits (checkJob kind 0 (8 + payload.length) 0)).setBytes 0x100 (message payload)

/-- One register write: HTIME_A of head 19. -/
def htime : List Byte := [0x20, 0, 0x93, 0, 0x10, 0, 0x80, 2]

/-- Three bytes, and a stored DEFLATE block of them (RFC 1951). -/
def plain : List Byte := [9, 8, 7]
def stored : List Byte := [1, 3, 0, 0xFC, 0xFF, 9, 8, 7]

theorem test_deflSubmit : check (.deflSubmit 3 15) lab (fun t =>
    t.get (Fld.DEFL_TICKET_TICKET 3) == 0x8F000000 && (t.deflQ 15).jobs.length == 1 &&
    (t.deflQ 15).nextSeq == 1) = true := by decide +kernel
theorem test_deflCompress : check .deflCompress (deflWaits (deflJob 0 0 3 9)) (fun t =>
    (t.deflQ 15).running.isSome && (t.deflQ 15).jobs == []) = true := by decide +kernel
theorem test_deflDecompress : check .deflDecompress (deflWaits (deflJob 1 0 3 9)) (fun t =>
    (t.deflQ 15).running.isSome) = true := by decide +kernel
theorem test_deflJobDone_desc : check (.deflJobDone 15 [] false 0) (deflRuns (deflJob 1 0 5 0)) (fun t =>
    t.bytes 0x300 5 == [7, 0, 0, 0x8F, 0x10] && t.get Fld.DEFL_CNT_ERR_COUNT == 1 &&
    t.get (Fld.DEFL_Q_STATUS_DONE_SEQ 15) == 7) = true := by decide +kernel
theorem test_deflJobDone_inflate : check (.deflJobDone 15 [] false 0)
    ((deflRuns (deflJob 1 0 8 9)).setBytes 0x100 stored) (fun t => t.bytes 0x200 3 == plain &&
      t.bytes 0x308 8 == [8, 0, 0, 0, 3, 0, 0, 0]) = true := by decide +kernel
theorem test_deflJobDone_compress : check (.deflJobDone 15 [stored] true 0)
    ((deflRuns (deflJob 0 0 3 9)).setBytes 0x100 plain) (fun t => t.bytes 0x200 8 == stored &&
      t.bytes 0x308 8 == [3, 0, 0, 0, 8, 0, 0, 0]) = true := by decide +kernel
theorem test_checkSubmit : check (.checkSubmit 3 7) lab (fun t =>
    t.get (Fld.CHECK_TICKET_TICKET 3) == 0x87000000) = true := by decide +kernel
/-- The check value of CRC-32C: 0xE3069283 for the digits 1 to 9. -/
theorem test_checkJobCrc : check (.checkJobCrc 7) ((checkWaits (checkJob 0 3 9 0xE3069283)).setBytes 0x100
    [0x31, 0x32, 0x33, 0x34, 0x35, 0x36, 0x37, 0x38, 0x39]) (fun t =>
      ((t.checkUnit 7).running.map fun r => (r.code, r.result)) == some (0, 0xE3069283)) = true := by
  decide +kernel
theorem test_checkJobAlive : check (.checkJobAlive 7) (messageWaits 1 []) (fun t =>
    ((t.checkUnit 7).running.map fun r => (r.code, r.alive)) == some (0, 5) &&
    t.get (Fld.CHECK_U_ALIVE_LAST 7) == 5) = true := by decide +kernel
theorem test_checkJobGuard : check (.checkJobGuard 7) (messageWaits 2 htime) (fun t =>
    ((t.checkUnit 7).running.map fun r => r.code) == some 0 && t.rd (Reg.HEAD_HTIME_A 19) == 0x02800010) = true := by
  decide +kernel
theorem test_checkJobGuard_denied : check (.checkJobGuard 7) (messageWaits 2 (0x21 :: htime.tail)) (fun t =>
    ((t.checkUnit 7).running.map fun r => r.code) == some 6 && t.get Fld.PROT_VIOL_COUNT_COUNT == 1) = true := by
  decide +kernel
theorem test_checkJobDone : check (.checkJobDone 7)
    (dramUp.updCheck 7 fun r => { r with running := some ⟨⟨7, 3, checkJob 0 4 9 0⟩, 1, 0x1234, 0xABCD, false⟩ }) (fun t =>
      t.bytes 0x300 10 == [7, 0, 0, 0x87, 1, 0, 0x34, 0x12, 0xCD, 0xAB] &&
      t.get (Fld.CHECK_U_CNT_FAIL_COUNT 7) == 1) = true := by decide +kernel
theorem test_checkDataWrite : check (.checkDataWrite 3 7 0x34333231) (lab.wr (Reg.CHECK_U_VALUE 7) 0xFFFFFFFF)
    (fun t => t.checkValue 7 == (crcPreset 1).bytes 0xFFFFFFFF [0x31, 0x32, 0x33, 0x34]) = true := by decide +kernel
theorem test_checkData8Write : check (.checkData8Write 3 7 0x34333231) (lab.wr (Reg.CHECK_U_VALUE 7) 0xFFFFFFFF)
    (fun t => t.checkValue 7 == (crcPreset 1).bytes 0xFFFFFFFF [0x31]) = true := by decide +kernel
theorem test_checkLoadInit : check (.checkLoadInit 3 7 1) lab (fun t => t.checkValue 7 == 0xFFFFFFFF) = true := by
  decide +kernel
theorem test_checkResync : check (.checkResync 3 7 2) (lab.put (Fld.CHECK_U_ALIVE_VALID 7) 1) (fun t =>
    t.get (Fld.CHECK_U_ALIVE_VALID 7) == 0) = true := by decide +kernel

theorem witness_JobsRun_compression :
    ((st lab).reaches 3 0x17 0x40 ∧ (lab.deflQ 15).depth < 16) ∧
    (let m := lab.updDeflQ 15 fun r => { r with jobs := List.replicate 16 ⟨0, 3, []⟩ }
     (st m).reaches 3 0x17 0x40 ∧ 16 ≤ (m.deflQ 15).depth) ∧
    (∀ k ∈ [0, 1], (deflWaits (deflJob k 0 3 9)).deflNext = some (15, ⟨7, 3, deflJob k 0 3 9⟩) ∧
      byteAt (deflJob k 0 3 9) 0 = k) ∧
    ((deflRuns (deflJob 1 0 5 0)).deflQ 15).running = some ⟨7, 3, deflJob 1 0 5 0⟩ ∧
    (deflDesc (deflJob 1 0 5 0)).ok (deflJob 1 0 5 0) = false ∧
    ((deflDesc (deflJob 1 3 5 9)).nbc = true ∧ (deflDesc (deflJob 1 0 5 9)).nbc = false ∧
      (deflDesc (deflJob 1 0 5 9)).ok (deflJob 1 0 5 9) = true) ∧
    (let d := (deflJob 1 3 5 9).set 0x34 1
     (deflDesc d).ok d = true ∧ (deflDesc d).nbc = true) ∧
    (∃ c, (deflUnit.deflLoad (deflDesc (deflJob 1 0 5 9))).2 = .ok c) ∧
    (let d := ((deflJob 1 0 5 9).set 2 2).set 0x2A 1
     (deflDesc d).ok d = true ∧
       ((deflUnit.put Fld.DRAMC_STATUS_FROZEN 1).deflLoad (deflDesc d)).2 matches .error _) :=
  ⟨⟨reaches_lab (by decide), by decide⟩, ⟨reaches_lab (by decide), by decide⟩, by decide +kernel, by decide,
    by decide, by decide, by decide, ⟨_, rfl⟩, by decide +kernel⟩

theorem witness_JobsRun_checks :
    unitOk 7 = true ∧ ((st lab).reaches 3 0x18 0x40 ∧ (lab.checkUnit 7).depth < 8 ∧ lab.checkBusy 7 = false) ∧
    (let m := lab.updCheck 7 fun r => { r with jobs := List.replicate 8 ⟨0, 3, []⟩ }
     (st m).reaches 3 0x18 0x40 ∧ 8 ≤ (m.checkUnit 7).depth) ∧
    (∀ n ∈ [0, 9], (checkWaits (checkJob 0 3 n 0)).checkNext 7 (fun n => n != 1 && n != 2) =
        some ⟨7, 3, checkJob 0 3 n 0⟩ ∧
      (checkDesc (checkJob 0 3 n 0)).ok (checkJob 0 3 n 0) = (n == 9)) ∧
    (let m := (checkWaits (checkJob 0 3 9 0))
     let j : QueuedJob := ⟨7, 3, checkJob 0 3 9 0⟩
     ((m.checkInit 7).checkRead j (checkDesc j.desc)).2 matches .ok _ ∧
     (((m.put Fld.DRAMC_STATUS_FROZEN 1).checkInit 7).checkRead j (checkDesc j.desc)).2 matches .error _) ∧
    (messageWaits 1 []).checkNext 7 (· == 1) = some ⟨7, 3, checkJob 1 0 8 0⟩ ∧
    (let m := messageWaits 2 htime
     let j : QueuedJob := ⟨7, 3, checkJob 2 0 16 0⟩
     let msg := m.checkMessage 7 j (checkDesc j.desc)
     m.checkNext 7 (· == 2) = some j ∧ msg.2.1 = cOk ∧
     (∀ p ∈ guardPairs msg.2.2.1, msg.1.guardBad j.mst p.1 = none) ∧
     (((msg.1.checkPassed 7 (msg.2.2.2.getD 0)).guardWrite 7 j (guardPairs msg.2.2.1)).checkUnit 7).jobs.head? =
       some j) ∧
    (let m := messageWaits 2 (0x21 :: htime.tail)
     let j : QueuedJob := ⟨7, 3, checkJob 2 0 16 0⟩
     let msg := m.checkMessage 7 j (checkDesc j.desc)
     m.checkNext 7 (· == 2) = some j ∧ msg.2.1 = cOk ∧
     ∃ p ∈ guardPairs msg.2.2.1, (msg.1.guardBad j.mst p.1).isSome = true) ∧
    (let m := checkWaits (checkJob 2 0 15 0)
     let j : QueuedJob := ⟨7, 3, checkJob 2 0 15 0⟩
     m.checkNext 7 (· == 2) = some j ∧ (m.checkMessage 7 j (checkDesc j.desc)).2.1 ≠ cOk) ∧
    (∀ off ∈ [0x18, 0x1C, 0x20], (st lab).reaches 3 0x18 (unitOff 7 off)) := by
  refine ⟨by decide, ⟨reaches_lab (by decide), by decide⟩, ⟨reaches_lab (by decide), by decide⟩,
    by decide +kernel, by decide +kernel, by decide +kernel, by decide +kernel, by decide +kernel,
    by decide +kernel, ?_⟩
  intro off _
  exact reaches_lab (by decide)
/-! ### Events and monitor channels -/

/-- The last doorbell's source is masked into the alarm, routed to vector 63, and followed by line 31 of
sequencer 23. -/
def routed : Mach :=
  { ((((lab.put (Fld.EVT_ALARM_MASK_MASK 7) 0x40000000).put (Fld.EVT_ROUTE_MSIX_EN 0xFE) 1).put
      (Fld.EVT_ROUTE_VECTOR 0xFE) 63).put (Fld.EVT_SEQLINE_EN 23 31) 1).put (Fld.EVT_SEQLINE_SRC 23 31) 0xFE with
    pcie := { lab.pcie with linkUp := true, vecs := [(63, { MsixVec.reset with masked := false })] } }

/-- Channel 31 takes the DRAM's load, in bins of 10 from 5, with an alarm above 80. -/
def monUnit : Mach :=
  ((lab.wr (Reg.MON_CH_CFG 31) 0x8D030000).wr (Reg.MON_CH_BASE 31) 5).wr (Reg.MON_CH_ALARM 31) 0x80000050

theorem test_evtDoorbellWrite : check (.evtDoorbellWrite 3 0x4000) routed (fun t => t.sent == [.msix 63] &&
    t.get (Fld.EVT_CNT_RAISED 0xFE) == 1 && t.bit (Fld.EVT_ALARM_LATCH_LATCH 7) 30 &&
    t.bit (Fld.SEQ_EVT_PEND_PEND 23) 31) = true := by decide +kernel
theorem test_evtDoorbellWrite_none : check (.evtDoorbellWrite 3 0x8000) routed (fun t =>
    t.get (Fld.EVT_CNT_RAISED 0xFF) == 0 && t.sent == []) = true := by decide +kernel
theorem test_evtOutPulseEnd : check (.evtOutPulseEnd 3)
    { lab with pins := { lab.pins with evtOut := [(2, [1]), (3, [9])] } } (fun t => t.pins.evtOut == [(2, [1])]) =
    true := by decide +kernel
theorem test_monPeriodicSample : check (.monPeriodicSample 93) monUnit (fun t =>
    t.get (Fld.MON_CH_LAST_LAST 31) == 93 && t.get (Fld.MON_CH_BIN_COUNT 31 11) == 1 &&
    t.get (Fld.MON_CH_MIN_MIN 31) == 93 && t.bit Fld.MON_STATUS_ALARM 31) = true := by decide +kernel
theorem test_monClear : check (.monClear 3 31 3) (monUnit.monTake 31 7) (fun t =>
    t.get (Fld.MON_CH_COUNT_COUNT 31) == 0 && t.get (Fld.MON_CH_MIN_MIN 31) == 0xFFFFFFFF &&
    t.is (Fld.MON_CH_CTRL_FREEZE 31)) = true := by decide +kernel
theorem test_monCfgWrite : check (.monCfgWrite 3 31 0xFFFFFFFF) (monUnit.monTake 31 7) (fun t =>
    t.rd (Reg.MON_CH_CFG 31) == 0x9F9F0FFF && t.get (Fld.MON_CH_LAST_LAST 31) == 0) = true := by decide +kernel
/-- Logarithmic bins: four of each octave, the value's own octave first. -/
theorem test_monBin_log : (monBin true 0 0 1, monBin true 0 0 3, monBin true 0 0 7, monBin true 0 0 (2 ^ 32 - 1)) =
    (1, 7, 12, 63) := by decide

theorem witness_EventsAndMonitors_events :
    reservedSource 0x58 = true ∧ reservedSource 0x57 = false ∧ reservedSource 0xFE = false ∧
    (routed.bit (Fld.EVT_ALARM_MASK_MASK (0xFE / 32)) (0xFE % 32) = true ∧ (23, 31) ∈ routed.linesOf 0xFE ∧
      routed.is (Fld.EVT_ROUTE_MSIX_EN 0xFE) = true ∧ routed.pcie.linkUp = true ∧ routed.pcie.d3hot = false ∧
      (routed.vec 63).pendingBit = false ∧ (routed.vec (routed.get (Fld.EVT_ROUTE_VECTOR 0xFE))).masked = false) ∧
    (st routed).reaches 3 0x03 8 ∧ fourOk 3 = true :=
  ⟨by decide, by decide, by decide, by decide, reaches_lab (by decide), by decide⟩

theorem witness_EventsAndMonitors_monitors :
    monOk 31 = true ∧ (monUnit.is (Fld.MON_CH_CTRL_FREEZE 31) = false ∧
      (monUnit.put (Fld.MON_CH_CTRL_FREEZE 31) 1).is (Fld.MON_CH_CTRL_FREEZE 31) = true ∧
      monUnit.is (Fld.MON_CH_ALARM_EN 31) = true ∧ monUnit.get (Fld.MON_CH_ALARM_THRESH 31) < 81 ∧
      80 ≤ monUnit.get (Fld.MON_CH_ALARM_THRESH 31)) ∧
    (st monUnit).reaches 3 0x04 (0x108 + 0x20 * 31) ∧ (st monUnit).reaches 3 0x04 (0x100 + 0x20 * 31) :=
  ⟨by decide, by decide, reaches_lab (by decide), reaches_lab (by decide)⟩

end Sys2Proof.Tests
end

section
/-! PROOFS. Branches, jumps and the end of an instruction (R115, R132, R134): what the sequencer's operations
leave in its state, its program counter and its registers. -/

namespace Sys2Proof.Machine

variable (m : Mach) (n : Nat)

/-! ### Registers that no event touches -/

theorem Mach.rd_put_ne {f : Fld} {key : Nat} (v : Nat) (h : f.key ≠ key) : (m.put f v).rd key = m.rd key :=
  m.rd_wr_ne _ h

/-- The register lies in none of the system's slots below 0x10, which hold the latches, counts and routes of
events, and is no sequencer's EVT_PEND: raising an event leaves it alone. -/
def eventFree (key : Nat) : Prop := 0x100000 ≤ key ∧ key % 0x10000 ≠ 0x1C

variable {key : Nat}

theorem rd_raiseLines (l : List (Nat × Nat)) (h : eventFree key) : (m.raiseLines l).1.rd key = m.rd key := by
  induction l generalizing m with
  | nil => rfl
  | cons p r ih =>
    have hk : (Fld.SEQ_EVT_PEND_PEND p.1).key ≠ key := by
      have := h.2
      simp only [Fld.SEQ_EVT_PEND_PEND, Reg.SEQ_EVT_PEND, regKey]
      omega
    exact (ih _).trans (m.rd_put_ne _ hk)

theorem rd_raiseVector (v : Nat) : (m.raiseVector v).1.rd key = m.rd key := by
  unfold Mach.raiseVector
  split_ifs <;> rfl

theorem rd_raisePin (k src : Nat) : (m.raisePin k src).1.rd key = m.rd key := rfl

theorem rd_forwardEvent (o : Nat) (h : eventFree key) : (m.forwardEvent o).rd key = m.rd key := by
  have hk : Fld.CHAIN_HOST_ERR_EVT_DROP.key ≠ key := by
    have := h.1
    simp only [Fld.CHAIN_HOST_ERR_EVT_DROP, Reg.CHAIN_HOST_ERR, regKey]
    omega
  unfold Mach.forwardEvent Mach.sendChain
  split_ifs
  · rfl
  · rfl
  · exact m.rd_put_ne _ hk

theorem rd_latchSource {src : Nat} (hs : src < 256) (h : eventFree key) :
    (m.latchSource src).rd key = m.rd key := by
  have hr : (Fld.EVT_LATCH_RAISED (src / 32)).key ≠ key := by
    have := h.1
    simp only [Fld.EVT_LATCH_RAISED, Reg.EVT_LATCH, regKey]
    omega
  have ha : (Fld.EVT_ALARM_LATCH_LATCH (src / 32)).key ≠ key := by
    have := h.1
    simp only [Fld.EVT_ALARM_LATCH_LATCH, Reg.EVT_ALARM_LATCH, regKey]
    omega
  unfold Mach.latchSource
  dsimp only
  split_ifs
  · exact (Mach.rd_put_ne _ _ ha).trans (m.rd_put_ne _ hr)
  · exact m.rd_put_ne _ hr

theorem reservedSource_of_ge {src : Nat} (h : 256 ≤ src) : reservedSource src = true := by
  simp [reservedSource, h]

theorem rd_ite {c : Prop} [Decidable c] {x y : Mach} (h : x.rd key = y.rd key) :
    (if c then x else y).rd key = y.rd key := by
  split_ifs
  · exact h
  · rfl

theorem rd_ite_fst {c : Prop} [Decidable c] {x : Mach × Bool} {y : Mach} {b : Bool}
    (h : x.1.rd key = y.rd key) : (if c then x else (y, b)).1.rd key = y.rd key := by
  split_ifs
  · exact h
  · rfl

/-- Raising an event changes no register outside the events' own (R478, R480 to R483). -/
theorem rd_raise (src : Nat) (h : eventFree key) : (m.raise src).rd key = m.rd key := by
  unfold Mach.raise
  split
  · rfl
  next h0 =>
    have hs : src < 256 := by
      by_contra hge
      exact h0 (reservedSource_of_ge (by omega))
    have hcount : Reg.EVT_CNT src ≠ key := by
      have := h.1
      simp only [Reg.EVT_CNT, regKey]
      omega
    exact (rd_ite (Mach.rd_put_ne _ _ hcount)).trans <| (Mach.rd_put_ne _ _ hcount).trans <|
      (rd_ite (rd_forwardEvent _ _ h)).trans <| (rd_ite_fst (rd_raisePin _ _ _)).trans <|
      (rd_ite_fst (rd_raiseVector _ _)).trans <| (rd_raiseLines _ _ h).trans (rd_latchSource m hs h)

/-! ### The sequencer's registers -/

theorem eventFree_seq {off : Nat} (h : off < 0x10000) (h1 : off ≠ 0x1C) :
    eventFree (regKey 0 (0xA0 + n) off) := by
  simp only [eventFree, regKey]
  omega

theorem seqRegKey_ne {off off' : Nat} (h : off ≠ off') :
    regKey 0 (0xA0 + n) off ≠ regKey 0 (0xA0 + n) off' := by
  simpa [regKey] using h

theorem fits_pc : (Fld.SEQ_PC_PC n).fits := (by decide : 2 + 13 ≤ 32)
theorem fits_pcHi : (Fld.SEQ_PC_PC_HI n).fits := (by decide : 15 + 3 ≤ 32)
theorem fits_state : (Fld.SEQ_STATUS_STATE n).fits := (by decide : 0 + 3 ≤ 32)
theorem fits_waitKind : (Fld.SEQ_STATUS_WAIT_KIND n).fits := (by decide : 8 + 3 ≤ 32)
theorem fits_cause : (Fld.SEQ_CAUSE_CODE n).fits := (by decide : 0 + 8 ≤ 32)
theorem fits_faultInfo : (Fld.SEQ_FAULT_INFO_INFO n).fits := (by decide : 0 + 32 ≤ 32)

theorem pcOf_congr {m t : Mach} {n : Nat} (h : t.rd (Reg.SEQ_PC n) = m.rd (Reg.SEQ_PC n)) :
    t.pcOf n = m.pcOf n := by
  simp only [Mach.pcOf, Mach.get_congr (Fld.SEQ_PC_PC n) h, Mach.get_congr (Fld.SEQ_PC_PC_HI n) h]

theorem seqState_congr {m t : Mach} {n : Nat} (h : t.rd (Reg.SEQ_STATUS n) = m.rd (Reg.SEQ_STATUS n)) :
    t.seqState n = m.seqState n := Mach.get_congr (Fld.SEQ_STATUS_STATE n) h

theorem wreg_congr {m t : Mach} {n : Nat} (h : (t.seq n).w = (m.seq n).w) (r : BitVec 5) :
    t.wreg n r = m.wreg n r := by
  simp only [Mach.wreg, Seq.reg, h]

theorem seq_put (f : Fld) (v : Nat) : (m.put f v).seq n = m.seq n := rfl

theorem seq_updSeq_self (f : Seq → Seq) : (m.updSeq n f).seq n = f (m.seq n) := by
  rw [m.seq_updSeq, if_pos rfl]

/-! ### The range (R102, R115) -/

theorem pcLimit_eq : m.pcLimit n =
    if n = 23 ∧ m.get Fld.BOOT_STATUS_STAGE < 6 then 0x40000 else 0x8000 := by
  simp [Mach.pcLimit, Mach.romMode]

theorem pcLimit_bounds : 0x8000 ≤ m.pcLimit n ∧ m.pcLimit n ≤ 0x40000 := by
  rw [pcLimit_eq]
  split_ifs <;> decide

theorem four_dvd_pcOf : m.pcOf n % 4 = 0 := Nat.mul_mod_left _ _

/-! ### Setting PC -/

theorem rd_setPc (a : Nat) (h : Reg.SEQ_PC n ≠ key) : (m.setPc n a).rd key = m.rd key :=
  (Mach.rd_put_ne _ _ h).trans (m.rd_put_ne _ h)

theorem pcOf_setPc {a : Nat} (h4 : a % 4 = 0) (ha : a < 0x40000) : (m.setPc n a).pcOf n = a := by
  have hapart : (Fld.SEQ_PC_PC_HI n).apart (Fld.SEQ_PC_PC n) := .inr (.inr (by decide : 2 + 13 ≤ 15))
  have hlow : (m.setPc n a).get (Fld.SEQ_PC_PC n) = a / 4 % 2 ^ 13 := by
    rw [Mach.setPc, Mach.get_put_apart _ _ (fits_pcHi n) hapart, Mach.get_put_self _ _ _ (fits_pc n)]
    rfl
  have hhigh : (m.setPc n a).get (Fld.SEQ_PC_PC_HI n) = a / 4 / 2 ^ 13 % 2 ^ 3 :=
    Mach.get_put_self _ _ _ (fits_pcHi n)
  rw [Mach.pcOf, hlow, hhigh]
  omega

/-! ### Stopping (R132, R134) -/

/-- A sequencer that has stopped: no wait, no STOP, no STEP and no breakpoint to pass. -/
def Seq.stopped (q : Seq) : Seq :=
  { q with wait := .none, stopReq := false, stepping := false, passBkpt := false }

theorem seqLeave_eq (st cause : Nat) : m.seqLeave n st cause =
    (((m.put (Fld.SEQ_STATUS_STATE n) st).put (Fld.SEQ_STATUS_WAIT_KIND n) 0).put
      (Fld.SEQ_CAUSE_CODE n) cause).updSeq n Seq.stopped := rfl

theorem seq_seqLeave (st cause : Nat) : (m.seqLeave n st cause).seq n = (m.seq n).stopped := by
  rw [seqLeave_eq, seq_updSeq_self, seq_put, seq_put, seq_put]

theorem rd_seqLeave (st cause : Nat) (hs : Reg.SEQ_STATUS n ≠ key) (hc : Reg.SEQ_CAUSE n ≠ key) :
    (m.seqLeave n st cause).rd key = m.rd key := by
  rw [seqLeave_eq, Mach.rd_updSeq, Mach.rd_put_ne _ _ hc, Mach.rd_put_ne _ _ hs, m.rd_put_ne _ hs]

theorem seqState_seqLeave (st cause : Nat) : (m.seqLeave n st cause).seqState n = st % 2 ^ 3 := by
  have hcause : (Fld.SEQ_CAUSE_CODE n).apart (Fld.SEQ_STATUS_STATE n) := .inl (seqRegKey_ne n (by decide))
  have hkind : (Fld.SEQ_STATUS_WAIT_KIND n).apart (Fld.SEQ_STATUS_STATE n) :=
    .inr (.inr (by decide : 0 + 3 ≤ 8))
  rw [Mach.seqState, seqLeave_eq, Mach.get_updSeq, Mach.get_put_apart _ _ (fits_cause n) hcause,
    Mach.get_put_apart _ _ (fits_waitKind n) hkind, Mach.get_put_self _ _ _ (fits_state n)]
  rfl

theorem cause_seqLeave (st cause : Nat) :
    (m.seqLeave n st cause).get (Fld.SEQ_CAUSE_CODE n) = cause % 2 ^ 8 := by
  rw [seqLeave_eq, Mach.get_updSeq, Mach.get_put_self _ _ _ (fits_cause n)]
  rfl

theorem pcOf_seqLeave (st cause : Nat) : (m.seqLeave n st cause).pcOf n = m.pcOf n :=
  pcOf_congr (rd_seqLeave m n st cause (seqRegKey_ne n (by decide)) (seqRegKey_ne n (by decide)))

/-! ### Faulting (R132) -/

theorem seqFault_eq (cause info : Nat) : m.seqFault n cause info =
    (((m.seqLeave n sqFaulted cause).put (Fld.SEQ_FAULT_INFO_INFO n) info).setBit
      Fld.EVT_SEQ_FAULT_STATUS_FAULT n).raise evSeqFault := rfl

/-- Past the information word, a fault reports the event alone. -/
theorem rd_seqFault (cause info : Nat) (h : eventFree key) : (m.seqFault n cause info).rd key =
    ((m.seqLeave n sqFaulted cause).put (Fld.SEQ_FAULT_INFO_INFO n) info).rd key := by
  have hk : Fld.EVT_SEQ_FAULT_STATUS_FAULT.key ≠ key := by
    have := h.1
    simp only [Fld.EVT_SEQ_FAULT_STATUS_FAULT, Reg.EVT_SEQ_FAULT_STATUS, regKey]
    omega
  rw [seqFault_eq, rd_raise _ _ h, Mach.setBit, Mach.rd_put_ne _ _ hk]

/-- A fault leaves the sequencer's registers but FAULT_INFO and EVT_PEND as stopping leaves them. -/
theorem rd_seqFault_own (cause info : Nat) {off : Nat} (h : off < 0x10000) (he : off ≠ 0x1C)
    (hi : off ≠ 0x14) : (m.seqFault n cause info).rd (regKey 0 (0xA0 + n) off) =
      (m.seqLeave n sqFaulted cause).rd (regKey 0 (0xA0 + n) off) :=
  (rd_seqFault m n cause info (eventFree_seq n h he)).trans (Mach.rd_put_ne _ _ (seqRegKey_ne n hi.symm))

theorem seqState_seqFault (cause info : Nat) : (m.seqFault n cause info).seqState n = 4 :=
  (seqState_congr (rd_seqFault_own m n cause info (by decide) (by decide) (by decide))).trans
    (seqState_seqLeave m n sqFaulted cause)

theorem cause_seqFault (cause info : Nat) :
    (m.seqFault n cause info).get (Fld.SEQ_CAUSE_CODE n) = cause % 2 ^ 8 :=
  (Mach.get_congr (Fld.SEQ_CAUSE_CODE n)
    (rd_seqFault_own m n cause info (off := 0xC) (by decide) (by decide) (by decide))).trans
      (cause_seqLeave m n sqFaulted cause)

theorem info_seqFault (cause info : Nat) :
    (m.seqFault n cause info).get (Fld.SEQ_FAULT_INFO_INFO n) = info % 2 ^ 32 :=
  (Mach.get_congr (Fld.SEQ_FAULT_INFO_INFO n)
    (rd_seqFault m n cause info (eventFree_seq n (by decide) (by decide)))).trans
      (Mach.get_put_self _ _ _ (fits_faultInfo n))

theorem pcOf_seqFault (cause info : Nat) : (m.seqFault n cause info).pcOf n = m.pcOf n :=
  (pcOf_congr (rd_seqFault_own m n cause info (by decide) (by decide) (by decide))).trans
    (pcOf_seqLeave m n sqFaulted cause)

theorem seq_seqFault (cause info : Nat) :
    (m.seqFault n cause info).seq n = (m.seqLeave n sqFaulted cause).seq n := by
  rw [seqFault_eq, Mach.raise_seq, Mach.setBit, seq_put, seq_put]

theorem wreg_seqFault (cause info : Nat) (r : BitVec 5) :
    (m.seqFault n cause info).wreg n r = m.wreg n r :=
  wreg_congr (by rw [seq_seqFault, seq_seqLeave]; rfl) r

/-! ### The boundary of an instruction (R134, R138) -/

theorem seqBoundary_of_run (h : (m.seq n).stepping = false) :
    m.seqBoundary n = m.updSeq n fun q => { q with passBkpt := false } := by
  simp [Mach.seqBoundary, h]

theorem seqBoundary_of_step (h : (m.seq n).stepping = true) (hs : (m.seq n).stopReq = false) :
    m.seqBoundary n = m.seqHalt n 0x05 := by
  simp [Mach.seqBoundary, h, hs]

theorem pcOf_seqBoundary : (m.seqBoundary n).pcOf n = m.pcOf n := by
  unfold Mach.seqBoundary
  split_ifs
  · exact pcOf_seqLeave m n sqHalted 0x05
  · rfl

theorem runOn_seqBoundary : ((m.seqBoundary n).seq n).runOn = (m.seq n).runOn := by
  unfold Mach.seqBoundary
  split_ifs
  · rw [Mach.seqHalt, seq_seqLeave]
    rfl
  · rw [seq_updSeq_self]

theorem wreg_seqBoundary_of_run (h : (m.seq n).stepping = false) (r : BitVec 5) :
    (m.seqBoundary n).wreg n r = m.wreg n r := by
  rw [seqBoundary_of_run m n h]
  exact wreg_congr (by rw [seq_updSeq_self]) r

/-! ### The next instruction (R115) -/

theorem seqAdvance_within (h : m.pcOf n + 4 < m.pcLimit n) : m.seqAdvance n = m.setPc n (m.pcOf n + 4) :=
  if_pos h

theorem seqAdvance_at_end (h : ¬ m.pcOf n + 4 < m.pcLimit n) :
    m.seqAdvance n = m.updSeq n fun q => { q with runOn := true } := if_neg h

theorem seqState_seqAdvance : (m.seqAdvance n).seqState n = m.seqState n := by
  unfold Mach.seqAdvance
  split_ifs
  · exact seqState_congr (rd_setPc m n _ (seqRegKey_ne n (by decide)))
  · rfl

/-- Of a sequencer's own condition, moving past an instruction changes only whether it ran past the range's end. -/
theorem seq_seqAdvance : (m.seqAdvance n).seq n =
    { m.seq n with runOn := (m.seq n).runOn || !decide (m.pcOf n + 4 < m.pcLimit n) } := by
  unfold Mach.seqAdvance
  split_ifs with h
  · simp [h, Mach.setPc, Mach.seq]
  · simp [h, seq_updSeq_self]

theorem pcOf_seqNext_within (h : m.pcOf n + 4 < m.pcLimit n) : (m.seqNext n).pcOf n = m.pcOf n + 4 := by
  have := four_dvd_pcOf m n
  have := (pcLimit_bounds m n).2
  rw [Mach.seqNext, pcOf_seqBoundary, seqAdvance_within m n h, pcOf_setPc m n (by omega) (by omega)]

theorem seqNext_at_end (h : ¬ m.pcOf n + 4 < m.pcLimit n) :
    (m.seqNext n).pcOf n = m.pcOf n ∧ ((m.seqNext n).seq n).runOn = true := by
  rw [Mach.seqNext, pcOf_seqBoundary, runOn_seqBoundary, seqAdvance_at_end m n h, seq_updSeq_self]
  exact ⟨rfl, rfl⟩

theorem seqNext_of_step (h : (m.seq n).stepping = true) (hs : (m.seq n).stopReq = false) :
    (m.seqNext n).seqState n = 3 ∧ (m.seqNext n).get (Fld.SEQ_CAUSE_CODE n) = 0x05 := by
  rw [Mach.seqNext, seqBoundary_of_step _ n (by rw [seq_seqAdvance]; exact h) (by rw [seq_seqAdvance]; exact hs)]
  exact ⟨seqState_seqLeave _ n sqHalted 0x05, cause_seqLeave _ n sqHalted 0x05⟩

theorem seqState_seqNext_of_run (h : (m.seq n).stepping = false) :
    (m.seqNext n).seqState n = m.seqState n := by
  rw [Mach.seqNext, seqBoundary_of_run _ n (by rw [seq_seqAdvance]; exact h)]
  exact seqState_seqAdvance m n

/-! ### Jumps (R115) -/

section
variable {target : Nat} (link : BitVec 5)

theorem seqJump_past (h : m.pcLimit n - 4 < target) :
    m.seqJump n target link = m.seqFault n fPcRange target := if_pos h

theorem seqJump_misaligned (h : target ≤ m.pcLimit n - 4) (h4 : target % 4 ≠ 0) :
    m.seqJump n target link = m.seqFault n fPcAlign target := by
  rw [Mach.seqJump, if_neg (Nat.not_lt.mpr h), if_pos h4]

theorem seqJump_lands (h : target ≤ m.pcLimit n - 4) (h4 : target % 4 = 0) : m.seqJump n target link =
    ((m.setWreg n link (BitVec.ofNat 32 (m.pcOf n + 4))).setPc n target).seqBoundary n := by
  rw [Mach.seqJump, if_neg (Nat.not_lt.mpr h), if_neg (not_not.mpr h4)]

theorem pcOf_seqJump (h : target ≤ m.pcLimit n - 4) (h4 : target % 4 = 0) :
    (m.seqJump n target link).pcOf n = target := by
  have := pcLimit_bounds m n
  rw [seqJump_lands m n link h h4, pcOf_seqBoundary, pcOf_setPc _ n h4 (by omega)]

theorem stepping_setWreg (r : BitVec 5) (v : Word) :
    ((m.setWreg n r v).seq n).stepping = (m.seq n).stepping := by
  rw [Mach.setWreg, seq_updSeq_self, Seq.setReg]
  split_ifs <;> rfl

theorem wreg_zero : m.wreg n 0 = 0 := rfl

theorem wreg_seqJump (h : target ≤ m.pcLimit n - 4) (h4 : target % 4 = 0) (hs : (m.seq n).stepping = false)
    (r : BitVec 5) : (m.seqJump n target link).wreg n r =
      if r = 0 then 0 else if r = link then BitVec.ofNat 32 (m.pcOf n + 4) else m.wreg n r := by
  have hkeep : (m.seqJump n target link).wreg n r =
      (m.setWreg n link (BitVec.ofNat 32 (m.pcOf n + 4))).wreg n r := by
    rw [seqJump_lands m n link h h4, wreg_seqBoundary_of_run _ n]
    · rfl
    · exact (stepping_setWreg m n link _).trans hs
  rw [hkeep, Mach.wreg_setWreg]
  by_cases hr : r = 0
  · subst hr
    rw [if_pos rfl, if_neg (fun e => e.2 e.1), wreg_zero]
  · by_cases hl : link = r
    · subst hl
      rw [if_pos ⟨rfl, hr⟩, if_neg hr, if_pos rfl]
    · rw [if_neg (fun e => hl e.1), if_neg hr, if_neg (Ne.symm hl)]

/-- What a jump that faults leaves: FAULTED with the cause, the target in FAULT_INFO, PC at the jump and the
registers as they were. -/
theorem seqFault_leaves (cause : Nat) (hc : cause < 2 ^ 8) (ht : target < 2 ^ 32) :
    let t := m.seqFault n cause target
    t.seqState n = 4 ∧ t.get (Fld.SEQ_CAUSE_CODE n) = cause ∧ t.get (Fld.SEQ_FAULT_INFO_INFO n) = target ∧
      t.pcOf n = m.pcOf n ∧ ∀ r, t.wreg n r = m.wreg n r :=
  ⟨seqState_seqFault m n cause target, (cause_seqFault m n cause target).trans (Nat.mod_eq_of_lt hc),
    (info_seqFault m n cause target).trans (Nat.mod_eq_of_lt ht), pcOf_seqFault m n cause target,
    wreg_seqFault m n cause target⟩

end

/-! ### The instructions (R115) -/

/-- Go on from a branch: to the target in two cycles, or to the next word in one. -/
def Mach.branchTo (off : BitVec 16) (taken : Bool) : Mach :=
  if taken then (m.spend n 2).seqJump n (twosOf 32 ((m.pcOf n : Int) + 4 * off.toInt)) 0
  else (m.spend n 1).seqNext n

variable {m n} {s : State} {ra rb : BitVec 5} {off : BitVec 16}

theorem seqBranch_issues {f : BranchOp} (h : s.issues n (.branch f ra rb off) m) :
    onSeq n s (fun x => x.seqBranch n f ra rb off) =
      .next (s.becomes (m.branchTo n off (branchTaken f (m.wreg n ra) (m.wreg n rb)))) := onSeq_issue _ h

theorem jal_issues {rd : BitVec 5} {far : BitVec 21} (h : s.issues n (.jal rd far) m) :
    s.does (.jal n rd far) ((m.spend n 2).seqJump n (twosOf 32 ((m.pcOf n : Int) + 4 * far.toInt)) rd) :=
  onSeq_issue _ h

theorem jr_issues (h : s.issues n (.jr ra) m) :
    s.does (.jr n ra) ((m.spend n 2).seqJump n (m.wreg n ra).toNat 0) := onSeq_issue _ h

/-- A fetch past the last word of the range faults with the address one past it (R115). -/
theorem pcRunOn_faults (hon : s.m.on = true) (hn : n < 24) (hst : s.m.seqState n = 1)
    (hr : (s.m.seq n).runOn = true) (hs : (s.m.seq n).stopReq = false) :
    s.does (.pcRunOn n) (s.m.seqFault n 0x11 (s.m.pcLimit n)) := by
  have hok : seqOk n = true := decide_eq_true hn
  have hcond : s.m.seqState n = sqRunning ∧ (s.m.seq n).runOn = true ∧ (s.m.seq n).stopReq = false :=
    ⟨hst, hr, hs⟩
  refine (onSeq_next hok hon).trans ?_
  rw [if_pos hcond]
  rfl

/-- Settles O8: each instruction's issue lands in `seqJump` or `seqNext`, and these are read off their cases
(past the range, misaligned, landing; within the range, at its end, under STEP). -/
theorem seqBranchesComplete : Obligations.SeqBranchesComplete := by
  unfold Obligations.SeqBranchesComplete
  refine ⟨?instructions, ?jumps, ?ends⟩
  case instructions =>
    intro s n rd ra rb off far m
    refine ⟨seqBranch_issues, seqBranch_issues, seqBranch_issues, seqBranch_issues, seqBranch_issues,
      seqBranch_issues, jal_issues, jr_issues, fun hon hn hst hr hs => ?_, pcLimit_eq m n⟩
    rw [← pcLimit_eq]
    exact pcRunOn_faults hon hn hst hr hs
  case jumps =>
    intro m n target link _ hs
    have hlimit := (pcLimit_bounds m n).2
    refine ⟨fun h h4 => ⟨pcOf_seqJump m n link h h4, wreg_seqJump m n link h h4 hs⟩, fun h ht => ?_,
      fun h h4 => ?_⟩
    · rw [seqJump_past m n link h]
      exact seqFault_leaves m n fPcRange (by decide) ht
    · rw [seqJump_misaligned m n link h h4]
      exact seqFault_leaves m n fPcAlign (by decide) (by omega)
  case ends =>
    intro m n _
    exact ⟨pcOf_seqNext_within m n, seqNext_at_end m n, seqNext_of_step m n, seqState_seqNext_of_run m n,
      (seqNext_frame m n).byte⟩

end Sys2Proof.Machine
end

section
/-! PROOFS. The vault's locked write (R401) and the order of the host's accesses (R73): a write of the host
that finds an earlier access of its own waiting is neither admitted nor denied yet. -/

namespace Sys2Proof.Machine

/-! ### Writes that wait (R73) -/

/-- While the controller holds an earlier access of the host, a register write of the host waits behind it. -/
theorem writeRow_waits {s : State} {wf : Bool} {mst slot off : Nat} {v : Word} {spells : Mach → Bool}
    (hw : wf = true) (hm : mstOk mst = true) (hon : s.m.on = true) (hs : spells s.m = true)
    (hwait : s.m.hostWaits mst = true) (hd : s.m.dramHolds = true) :
    writeRow wf mst slot off v spells s = .next (s.becomes
      (s.m.holdAccess mst (regAddr slot off) 4 (some (wordLE v)) .data [])) := by
  have hkeeps : (s.m.holdAccess mst (regAddr slot off) 4 (some (wordLE v)) .data []).dramHolds = true := hd
  rw [writeRow, guarded_of (by simp [hm, hw]), onCore_next hon]
  simp [hs, Mach.regIssue, hwait, Mach.resume, hkeeps]

/-- The lock does not decide: a waiting write of a vault word is held before or after the boot lock. -/
theorem vaultWrite_waits {s : State} {mst k : Nat} {v : Word} (hk : vaultOk k = true) (hm : mstOk mst = true)
    (hon : s.m.on = true) (hwait : s.m.hostWaits mst = true) (hd : s.m.dramHolds = true) :
    s.does (.vaultWrite mst k v)
      (s.m.holdAccess mst (regAddr 0x02 (0x1000 + 4 * k)) 4 (some (wordLE v)) .data []) :=
  writeRow_waits hk hm hon rfl hwait hd

/-- Holding an access changes no register. -/
theorem get_holdAccess (m : Mach) (mst a len : Nat) (data : Option (List Byte)) (r : Reply)
    (parts : List (Nat × Nat)) (f : Fld) : (m.holdAccess mst a len data r parts).get f = m.get f := rfl

/-! ### The counterexample -/

/-- A locked module during a DRAM frequency change, which holds a read of the host (master 1) of the four
bytes at address 0 (R365). -/
def lockedHolding : Mach :=
  let m := State.reset.m.put Fld.PROT_BOOT_LOCK_LOCK 1
  { m with boot := { m.boot with zeroFilled := true }, dram := { m.dram with fc := .running 1 } }.holdAccess
    mstHost 0 4 none .data [(0, 4)]

/-- Refutes O55: the clause on the locked write lacks the premise that no earlier access of the host waits
(`State.reaches.first`). In `lockedHolding` the host's write of vault word 0 waits behind its read, and
WRITE_DROPPED stays 0, where the clause has the write dropped and reported at once. -/
theorem not_vaultVotes : ¬ Obligations.VaultVotes := by
  unfold Obligations.VaultVotes
  intro h
  obtain ⟨-, -, hlocked, -⟩ := h ⟨[], lockedHolding⟩ mstHost 0 0 (by decide)
  have hclaim := hlocked (by decide) (by decide) (by decide)
  have hwaits := vaultWrite_waits (s := ⟨[], lockedHolding⟩) (mst := mstHost) (k := 0) (v := 0) (by decide)
    (by decide) (by decide) (by decide) (by decide)
  have hmach := congrArg State.m (Host.Outcome.next.inj (hwaits.symm.trans hclaim))
  have hstatus : lockedHolding.get Fld.VAULT_STATUS_WRITE_DROPPED = 1 :=
    (get_holdAccess _ _ _ _ _ _ _ _).symm.trans <|
      (congrArg (Mach.get · Fld.VAULT_STATUS_WRITE_DROPPED) hmach).trans (by decide +kernel)
  exact absurd hstatus (by decide)

end Sys2Proof.Machine
end
